-- ==== Sys2Proof/Word.lean ====
section
/-!
DEFINITION. Word.lean: the word types of the Laniuno LX-40 and a vector register's value (06 R121, 08 R164).
-/

namespace Sys2Proof

/-- A 64-bit word: instruction words, symbol words and scalar registers (00 R6, 06 R121). -/
abbrev Word := BitVec 64

/-- One of the sixteen 32-bit lanes of a vector register (00, "Terms of the program"). -/
abbrev Lane := BitVec 32

/-- A byte of memory; every word is stored little-endian (00 R7). -/
abbrev Byte := BitVec 8

/-- The value of a vector register: sixteen lanes and the 16-bit valid field that travels with them
(08, opening words; R164, R165). -/
structure VecVal where
  lanes : Vector Lane 16
  valid : BitVec 16
deriving DecidableEq, Repr

namespace VecVal

/-- The vector whose lane `j` is `f j` and whose valid bit `j` is `ok j`. -/
def ofFn (f : Nat → Lane) (ok : Nat → Bool) : VecVal :=
  { lanes := Vector.ofFn fun i => f i.val
    valid := (List.range 16).foldl (fun w j => if ok j then w ||| (1#16 <<< j) else w) 0#16 }

/-- Lane `j`, 0 beyond the sixteen. -/
def lane (v : VecVal) (j : Nat) : Lane :=
  if h : j < 16 then v.lanes[j] else 0#32

/-- Valid bit `j`. -/
def ok (v : VecVal) (j : Nat) : Bool := v.valid.getLsbD j

/-- The vector register of a new instance: every lane 0, every lane valid (02 R49). -/
def fresh : VecVal := { lanes := Vector.replicate 16 0#32, valid := 0xFFFF#16 }

/-- Sixteen lanes of 0, all invalid (10 R215, R217). -/
def none : VecVal := { lanes := Vector.replicate 16 0#32, valid := 0#16 }

end VecVal

end Sys2Proof
end

