-- ==== Sys2Proof/Syntax.lean ====
section
/-!
DEFINITION. Syntax.lean: the steps of the device. `Instr` has one constructor per row of spec/opcode_table.json: the 171
instructions of a lesson, each with the fields of its format (06 R126), and the events of the device, each with what it
carries (95).
-/

namespace Sys2Proof

/-- The type codes of 06 R122 that are not reserved. An untyped instruction carries `i32`, whose code is 0. -/
inductive Ty where
  | i32 | n32 | i16 | n16 | i8 | n8 | i64 | n64 | f32 | bf16 | f16 | e4m3 | e5m2 | e2m1 | f32pair
deriving DecidableEq, Repr

/-- R format, fields below bit 56 (06 R121, R126): registers D, A, B, C and a function value. -/
structure RForm where
  mask : Fin 8
  neg : Bool
  la : Bool
  lb : Bool
  lc : Bool
  ty : Ty
  d : Fin 64
  a : Fin 64
  b : Fin 64
  c : Fin 64
  fn : Fin 1048576
deriving DecidableEq, Repr

/-- I format (06 R126): registers D, A and a 32-bit immediate. -/
structure IForm where
  mask : Fin 8
  neg : Bool
  la : Bool
  ty : Ty
  d : Fin 64
  a : Fin 64
  imm : Fin 4294967296
deriving DecidableEq, Repr

/-- M format (06 R126): a data register, a base register and 32 bits of offset. -/
structure MForm where
  mask : Fin 8
  neg : Bool
  la : Bool
  lb : Bool
  ty : Ty
  d : Fin 64
  a : Fin 64
  off : Fin 4294967296
deriving DecidableEq, Repr

/-- L format (06 R126, R127): compared registers, condition, loop counter and a 20-bit offset. -/
structure LForm where
  la : Bool
  lb : Bool
  ty : Ty
  a : Fin 64
  b : Fin 64
  cond : Fin 8
  ctr : Fin 4
  off : Fin 1048576
deriving DecidableEq, Repr

/-- Q format (06 R126, R128): registers, combiner, direction, order and a function value. -/
structure QForm where
  mask : Fin 8
  neg : Bool
  la : Bool
  lb : Bool
  ty : Ty
  d : Fin 64
  a : Fin 64
  b : Fin 64
  comb : Fin 16
  dir : Bool
  ord : Bool
  fn : Fin 1048576
deriving DecidableEq, Repr

/-- Z format (06 R126): registers D, A and a 16-bit code. -/
structure ZForm where
  la : Bool
  d : Fin 64
  a : Fin 64
  code : Fin 65536
deriving DecidableEq, Repr

/-- The register classes of 06 R123. -/
inductive RegClass where
  | x | v | k | acc | wslot | lc
deriving DecidableEq, Repr

/-- The stores of 24 R395, with the place that the error struck. -/
inductive ErrorStore where
  /-- registers, masks, loop counters and shadows of an instance -/
  | instanceState (inst : Nat)
  /-- committed accumulators, weight buffer, tile headers, producer words or ring state of a context's cell -/
  | cellState (ctx cell : Nat)
  /-- a lesson buffer of an instance's cell -/
  | lessonBuffer (ctx cell : Nat)
  /-- a sweep buffer or tree link in use by a segment -/
  | sweepBuffer (seg : Nat)
  /-- a discovery sweep of a partition -/
  | discovery (slot : Nat)
  /-- a symbol in the row or in motion -/
  | rowSymbol (ctx seat : Nat)
  /-- a scratch granule of a context's cell -/
  | scratch (ctx cell granule : Nat)
  /-- a 64-byte line of HBM, locker or host memory -/
  | farLine (addr : Nat)
  /-- sync window, counters, cloakroom or eviction area of a context -/
  | contextStore (ctx : Nat)
deriving DecidableEq, Repr

/-- A write that reaches this device from a peer over the peer window (22 R369): the fabric tag, the window entry and
offset it names, its bytes, the inline combination of `copyred` (type and combiner) and, with the command's last write,
the counter to increment. -/
structure PeerWrite where
  device : Nat
  fabric : Nat
  entry : Nat
  offset : Nat
  bytes : List Byte
  red : Option (Ty × Nat)
  counter : Option Nat
deriving DecidableEq, Repr

/-- The steps of the device, one constructor per row of the opcode table: those with operands in its order, then those
without. -/
inductive Instr where
  /-- R145. Scalar add of two registers at the type's width, written extended to 64 bits. -/
  | add (f : RForm)
  /-- R145. Scalar subtract of two registers at the type's width. -/
  | sub (f : RForm)
  /-- R145. Scalar multiply keeping the low w bits. -/
  | mul (f : RForm)
  /-- R145. High w bits of the exact 2w-bit product. -/
  | mulh (f : RForm)
  /-- R146. Truncating division with the defined results for zero divisor and overflow. -/
  | div (f : RForm)
  /-- R146. Remainder with the sign of the dividend and the defined special cases. -/
  | rem (f : RForm)
  /-- R145. Bitwise AND on w bits. -/
  | and (f : RForm)
  /-- R145. Bitwise OR on w bits. -/
  | or (f : RForm)
  /-- R145. Bitwise XOR on w bits. -/
  | xor (f : RForm)
  /-- R145. Shift left by B mod w. -/
  | shl (f : RForm)
  /-- R145. Shift right by B mod w, arithmetic or logical by type. -/
  | shr (f : RForm)
  /-- R147. Writes 1 or 0 by one of six comparison conditions. -/
  | cmpset (f : RForm)
  /-- R145. Copies A or B by whether C is nonzero. -/
  | sel (f : RForm)
  /-- R145. Lesser of two scalar values by type. -/
  | min (f : RForm)
  /-- R145. Greater of two scalar values by type. -/
  | max (f : RForm)
  /-- R145. Address arithmetic A + B times 2^f modulo 2^64. -/
  | adda (f : RForm)
  /-- R148. Scalar add of an extended immediate. -/
  | addi (f : IForm)
  /-- R148. Scalar multiply by an extended immediate. -/
  | muli (f : IForm)
  /-- R148. Loads an extended immediate. -/
  | li (f : IForm)
  /-- R148. Places the immediate in the upper 32 bits over A's lower 32 bits. -/
  | lih (f : IForm)
  /-- R148. Bitwise AND with an immediate. -/
  | andi (f : IForm)
  /-- R148. Bitwise OR with an immediate. -/
  | ori (f : IForm)
  /-- R148. Bitwise XOR with an immediate. -/
  | xori (f : IForm)
  /-- R148. Shift left by an immediate count. -/
  | shli (f : IForm)
  /-- R148. Shift right by an immediate count. -/
  | shri (f : IForm)
  /-- R148. Compare with a 29-bit immediate under a 3-bit condition. -/
  | cmpseti (f : IForm)
  /-- R149. Reads a special register's value at instance start. -/
  | rdsr (f : IForm)
  /-- R148. Lesser of A and an immediate. -/
  | mini (f : IForm)
  /-- R148. Greater of A and an immediate. -/
  | maxi (f : IForm)
  /-- R148. A + imm times 2^f modulo 2^64. -/
  | addai (f : IForm)
  /-- R150. Conditional branch comparing A with B. -/
  | b (f : LForm)
  /-- R151. Jump to i + offset + A. -/
  | j (f : LForm)
  /-- R152. Opens a zero-overhead loop on a loop counter. -/
  | loop (f : LForm)
  /-- R155. Conditionally leaves loops down to the named counter without decrementing. -/
  | lexit (f : LForm)
  /-- R157. Stalls until a ring's filled count reaches a threshold. -/
  | wfill (f : IForm)
  /-- R157. Stalls until a ring's free count reaches a threshold. -/
  | wfree (f : IForm)
  /-- R156. Reads a loop counter. -/
  | rdlc (f : RForm)
  /-- R161. Mask AND. -/
  | kand (f : RForm)
  /-- R161. Mask OR. -/
  | kor (f : RForm)
  /-- R161. Mask XOR. -/
  | kxor (f : RForm)
  /-- R161. Mask complement. -/
  | knot (f : RForm)
  /-- R161. Mask from the low 16 bits of a scalar register. -/
  | kmov (f : RForm)
  /-- R161. Reads a mask into a scalar register. -/
  | kread (f : RForm)
  /-- R161. Counts set mask bits. -/
  | kpop (f : RForm)
  /-- R161. Index of the lowest set mask bit, or 16. -/
  | kfirst (f : RForm)
  /-- R170. Lane-wise add. -/
  | vadd (f : RForm)
  /-- R170. Lane-wise subtract. -/
  | vsub (f : RForm)
  /-- R170. Lane-wise multiply. -/
  | vmul (f : RForm)
  /-- R171. Fused A times B plus C with one rounding. -/
  | vfma (f : RForm)
  /-- R171. Fused A times B minus C with one rounding. -/
  | vfms (f : RForm)
  /-- R171. Fused C minus A times B with one rounding. -/
  | vfnma (f : RForm)
  /-- R170. Lane-wise minimum. -/
  | vmin (f : RForm)
  /-- R170. Lane-wise maximum. -/
  | vmax (f : RForm)
  /-- R170. Lane-wise absolute value. -/
  | vabs (f : RForm)
  /-- R170. Lane-wise negation. -/
  | vneg (f : RForm)
  /-- R170. Lane-wise bitwise AND. -/
  | vand (f : RForm)
  /-- R170. Lane-wise bitwise OR. -/
  | vor (f : RForm)
  /-- R170. Lane-wise bitwise XOR. -/
  | vxor (f : RForm)
  /-- R170. Lane-wise shift left. -/
  | vshl (f : RForm)
  /-- R170. Lane-wise shift right. -/
  | vshr (f : RForm)
  /-- R170. Lane-wise clamp of A between B and C. -/
  | vclamp (f : RForm)
  /-- R172. Lane-wise compare writing a mask register. -/
  | vcmp (f : RForm)
  /-- R173. Selects lanes from A or B by mask. -/
  | vsel (f : RForm)
  /-- R174. Shuffles lanes of A by indices in B. -/
  | vshuf (f : RForm)
  /-- R175. Rearranges lanes by a fixed pattern. -/
  | vperm (f : RForm)
  /-- R176. Broadcasts a scalar register into selected lanes. -/
  | vbcast (f : RForm)
  /-- R176. Broadcasts an immediate into selected lanes. -/
  | vbcasti (f : IForm)
  /-- R177. Extracts one lane to a scalar register. -/
  | vlane (f : RForm)
  /-- R177. Inserts a scalar into one lane. -/
  | vins (f : RForm)
  /-- R179. In-vector reduce in the canonical order, result in every lane. -/
  | vred (f : RForm)
  /-- R178. Copies selected lanes with valid bits. -/
  | vmov (f : RForm)
  /-- R178. Copies lane values and sets the valid field from a mask. -/
  | vsetvalid (f : RForm)
  /-- R178. Writes a vector's valid field to a mask. -/
  | vgetvalid (f : RForm)
  /-- R180. Lane-wise type conversion in the header's rounding mode. -/
  | vcvt (f : RForm)
  /-- R183. Correctly rounded 2^x. -/
  | vexp2 (f : RForm)
  /-- R183. Correctly rounded log2 x. -/
  | vlog2 (f : RForm)
  /-- R183. Correctly rounded reciprocal. -/
  | vrcp (f : RForm)
  /-- R183. Correctly rounded reciprocal square root. -/
  | vrsqrt (f : RForm)
  /-- R183. Correctly rounded sigmoid. -/
  | vsigm (f : RForm)
  /-- R183. Correctly rounded tanh. -/
  | vtanh (f : RForm)
  /-- R183. Correctly rounded softplus. -/
  | vsoftp (f : RForm)
  /-- R181. Narrows 32 elements and packs them in memory order. -/
  | vpack (f : RForm)
  /-- R182. Widens 16 packed elements. -/
  | vunpack (f : RForm)
  /-- R191. Copies a weight tile into a weight entry, dense or compressed. -/
  | wld (f : RForm)
  /-- R192. Compresses a dense weight tile 2:4 into a weight entry. -/
  | wcmp (f : RForm)
  /-- R203. Reads or writes tile header fields. -/
  | thdr (f : RForm)
  /-- R193. Multiplies an X tile by a weight entry into an accumulator. -/
  | mma (f : RForm)
  /-- R194. An mma's rows have streamed and its accumulator becomes ready. -/
  | mmaAccumulatorReady (inst acc : Nat)
  /-- R195. Joins a gang of 2, 4 or 8 cells and waits for all members. -/
  | gangon (f : RForm)
  /-- R197. Reads an accumulator row into a vector. -/
  | accrd (f : RForm)
  /-- R197. Writes selected valid lanes into an accumulator row. -/
  | accwr (f : RForm)
  /-- R197. Sets an accumulator to +0. -/
  | acczero (f : RForm)
  /-- R198. Converts an accumulator into a tile. -/
  | acccvt (f : RForm)
  /-- R199. Quantises a tile, computing the band scale for e2m1. -/
  | quant (f : RForm)
  /-- R199. Quantises to e2m1 with a given band scale. -/
  | quantb (f : RForm)
  /-- R200. Elementwise tile operation or copy. -/
  | tew (f : RForm)
  /-- R204. Copies a tile into the issuing cell under a new handle. -/
  | settle (f : RForm)
  /-- R201. Allocates a tile header and granules. -/
  | talloc (f : RForm)
  /-- R202. Frees a tile header and its granules. -/
  | tfree (f : RForm)
  /-- R214. Collective segment reduction. -/
  | sred (f : QForm)
  /-- R214. Collective segment inclusive or exclusive scan. -/
  | sscan (f : QForm)
  /-- R214. Collective segment cavity combination. -/
  | scav (f : QForm)
  /-- R215. Broadcasts one seat's vector to the segment. -/
  | sbcast (f : QForm)
  /-- R216. Counts set flags below a seat or over all seats. -/
  | srank (f : QForm)
  /-- R211. A collective sweep's result reaches every participating seat. -/
  | sweepResult (seg k : Nat)
  /-- R217. Sends a vector to a neighbouring seat's queue. -/
  | fwd (f : QForm)
  /-- R217. Takes the oldest vector from a neighbour queue. -/
  | rcv (f : QForm)
  /-- R311. A forwarded vector enters the receiver's queue, completing a waiting rcv. -/
  | neighbourArrival (inst : Nat) (fromLeft : Bool) (v : VecVal)
  /-- R222. Declares the seat's output count. -/
  | need (f : RForm)
  /-- R222. The need sweep completes and seat offsets and total become known. -/
  | needSweepComplete (seg : Nat)
  /-- R222. Stages a checked symbol word at an output index. -/
  | emit (f : RForm)
  /-- R224. Reads a segment seat's symbol word as at binding. -/
  | symrd (f : RForm)
  /-- R225. Assembles a symbol word without checking. -/
  | symbld (f : RForm)
  /-- R223. Returns offset, total, declared count or level. -/
  | symget (f : RForm)
  /-- R226. Asks the storage manager for an unfolding allowance. -/
  | unfold (f : RForm)
  /-- R226. An unfold request reaches the partition root and awaits the next planning step. -/
  | unfoldRequestArrival (inst q a : Nat)
  /-- R227. Stages symbols from scratch as a park record and returns a quoted word. -/
  | park (f : RForm)
  /-- R229. Stages a slice of a quoted expression's record. -/
  | fetch (f : RForm)
  /-- R234. Loads sixteen lanes from scratch. -/
  | vld (f : MForm)
  /-- R234. Stores selected valid lanes to scratch. -/
  | vst (f : MForm)
  /-- R235. Scalar load from scratch. -/
  | sld (f : MForm)
  /-- R235. Scalar store to scratch. -/
  | sst (f : MForm)
  /-- R236. Gathers scratch words by lane offsets. -/
  | vgath (f : RForm)
  /-- R236. Scatters lanes to scratch by offsets. -/
  | vscat (f : RForm)
  /-- R242. Advances a ring's tail once free room suffices. -/
  | rpush (f : IForm)
  /-- R242. Advances a ring's head once filled entries suffice. -/
  | rpop (f : IForm)
  /-- R238. Indivisible read-modify-write of a scratch word. -/
  | ratom (f : MForm)
  /-- R237. Reads one granule of any tile into a vector. -/
  | tld (f : RForm)
  /-- R241. Sets a ring's geometry and resets its counts. -/
  | rinit (f : IForm)
  /-- R249. Issues or stages a stream copy command from a descriptor. -/
  | copy (f : MForm)
  /-- R250. Issues or stages a combining copy into far memory. -/
  | copyred (f : MForm)
  /-- R246. Asks the controller to buffer a 4 KiB block. -/
  | pref (f : MForm)
  /-- R256. Snapshots a descriptor and stages a triggered send. -/
  | tsend (f : MForm)
  /-- R254. Stages setting a hub counter. -/
  | ctrset (f : IForm)
  /-- R254. Stages adding to a hub counter. -/
  | ctradd (f : IForm)
  /-- R254. Reads a hub counter. -/
  | ctrrd (f : IForm)
  /-- R254. Stalls until a hub counter reaches a threshold. -/
  | ctrwait (f : IForm)
  /-- R257. Assigns an ordered stream to later far accesses. -/
  | smark (f : IForm)
  /-- R258. Stalls until selected earlier far accesses are performed. -/
  | fence (f : ZForm)
  /-- R245. Reads a far word. -/
  | fld (f : MForm)
  /-- R245. A far read's value arrives at the issuing instance. -/
  | farReadReply (req : Nat)
  /-- R245. Stages a far word write. -/
  | fst (f : MForm)
  /-- R264. Atomic add at a synchronisation engine. -/
  | aadd (f : MForm)
  /-- R264. Atomic minimum. -/
  | amin (f : MForm)
  /-- R264. Atomic maximum. -/
  | amax (f : MForm)
  /-- R264. Atomic exchange. -/
  | axchg (f : MForm)
  /-- R265. Atomic compare and swap. -/
  | acas (f : MForm)
  /-- R264. Atomic AND. -/
  | aand (f : MForm)
  /-- R264. Atomic OR. -/
  | aor (f : MForm)
  /-- R267. Acquires a pass, waiting or trying. -/
  | pacq (f : IForm)
  /-- R268. Sets a pass's release pending. -/
  | prel (f : IForm)
  /-- R270. Arrives at a segment, context or partition bell and waits. -/
  | bell (f : IForm)
  /-- R273. Baton-ordered load of a sync word. -/
  | scld (f : MForm)
  /-- R273. Baton-ordered store of a sync word. -/
  | scst (f : MForm)
  /-- R273. Baton-ordered read-modify-write. -/
  | scrmw (f : MForm)
  /-- R269. Returns a pass's state. -/
  | pqry (f : IForm)
  /-- R261. An operation arrives and is performed at a synchronisation engine, which sends its reply. -/
  | syncOpPerformed (op : Nat)
  /-- R261. A synchronisation engine's reply reaches the stalled instance. -/
  | syncReply (op : Nat)
  /-- R270. The last arrival completes a bell, engaging and releasing every arriver. -/
  | bellComplete (bell : Nat)
  /-- R268. A pending release is handed on once its commit completes and covered writes are performed. -/
  | passHandoff (ctx pass : Nat)
  /-- R273. The baton arrives at an engine, which performs up to 16 queued baton operations and passes it on. -/
  | batonHop (engine : Nat)
  /-- R275. Appends a mark entry to the copybook lane. -/
  | logmark (f : RForm)
  /-- R276. Adds a contribution tile into a gradient tile. -/
  | gacc (f : RForm)
  /-- R275. Marks a handle for save in later entries. -/
  | opsave (f : RForm)
  /-- R275. Marks a handle for recompute in later entries. -/
  | oprecomp (f : RForm)
  /-- R277. Reads copybook lane and state values. -/
  | logrd (f : RForm)
  /-- R277. Reads the record flag and record class. -/
  | recq (f : RForm)
  /-- R279. Ends the expression with the user-trap status. -/
  | trap (f : ZForm)
  /-- R279. Stages a marker record push to the management queue. -/
  | syscall (f : ZForm)
  /-- R281. Reads a configuration word. -/
  | cfgrd (f : ZForm)
  /-- R281. Stages a write of a context user word. -/
  | cfgwr (f : ZForm)
  /-- R279. Halts the instance under intrusive debug, else no operation. -/
  | brk (f : ZForm)
  /-- R282. Reads a performance counter. -/
  | pcrd (f : ZForm)
  /-- R280. Sends an eight-word record to a queue and waits for the reply. -/
  | qpush (f : ZForm)
  /-- R280. Takes the oldest available record from a fleet or user queue. -/
  | qpop (f : ZForm)
  /-- R280. A pushed or popped queue record reaches the hub and the reply is sent. -/
  | queueOpArrival (op : Nat)
  /-- R279. Polls or waits for an event generation to change. -/
  | sleep (f : ZForm)
  /-- R279. Stages incrementing an event generation. -/
  | evsig (f : ZForm)
  /-- R279. Reads the partition clk count. -/
  | rdclk (f : ZForm)
  /-- R279. The debugger resumes an instance halted by brk. -/
  | debugResume (inst : Nat)
  /-- R42. At each sweep interval the partition root reads the row and finds ready innermost applications. -/
  | discoverySweep (slot : Nat)
  /-- R71. At the end of a planning step the wave starts and freezes its seats. -/
  | shiftWave (slot : Nat)
  /-- R71. A shift wave completes, unfreezing seats and starting waiting commit steps. -/
  | waveComplete (slot : Nat)
  /-- R65. The last symbol of a placed expression arrives in its seat. -/
  | expressionPlaced (launch : Nat)
  /-- R75. A park record write ends and the candidate is replaced by a quoted symbol. -/
  | parkWriteComplete (slot : Nat)
  /-- R77. An unpark read ends and the symbols are written into the seats. -/
  | unparkComplete (slot : Nat)
  /-- R80. A tidy copy ends; the handle is rewritten and the old header freed. -/
  | tidyCopyComplete (slot : Nat)
  /-- R46. A cell receives a lesson image's last beat, checks it and sends its report. -/
  | lessonImageReceived (seg seat : Nat)
  /-- R46. All seat reports reach the top tree cell, which sends the switch beat or triggers a reload. -/
  | loadReportsCollected (seg : Nat)
  /-- R46. The switch beat reaches every seat; buffers exchange and instances start. -/
  | switchBeat (seg : Nat)
  /-- R55. The last commit reaches the top tree cell and the commit step begins or waits. -/
  | segmentCommit (seg : Nat)
  /-- R55. The row rewrite of a commit completes and seats continue as tails. -/
  | commitComplete (seg : Nat)
  /-- R376. A finished launch's completion record is written once its writes and commands are done. -/
  | completionRecordWrite (launch : Nat)
  /-- R251. A copy engine starts a queued command. -/
  | copyStart (quarter engine : Nat)
  /-- R243. A copy granule reaches a destination ring and fills an entry. -/
  | ringFillEntry (cmd : Nat)
  /-- R245. A released far write is performed at its controller. -/
  | farWritePerformed (w : Nat)
  /-- R249. Every destination byte of a command is performed. -/
  | copyComplete (cmd : Nat)
  /-- R315. A completed command's counter is incremented at the hub. -/
  | counterIncrement (ctx counter : Nat)
  /-- R254. A released ctrset or ctradd takes effect at the counter file. -/
  | counterUpdateApplied (ctx counter : Nat) (set : Bool) (value : Lane)
  /-- R369. A peer write arrives and is resolved through the peer window. -/
  | peerWriteArrival (w : PeerWrite)
  /-- R399. The memory-side agent appends a record to a virtual queue ring. -/
  | agentAppend (ctx queue : Nat) (rec : List Word)
  /-- R381. The partition decides to pre-empt, stopping starts and discarding unengaged segments. -/
  | preemptDecision (slot : Nat)
  /-- R381. A 2 ms turn ends with equal-priority work waiting. -/
  | turnExpiry (slot : Nat)
  /-- R60. An engaged segment or tail is unfinished 1 ms after pre-emption began. -/
  | preemptionTimeout (slot began : Nat)
  /-- R159. A ring wait in a committed tail exceeds 65,536 clk. -/
  | waitTimeout (inst began : Nat)
  /-- R330. A roll-call wave samples the counters and may report quiescence. -/
  | rollCallWave (slot : Nat)
  /-- R381. The cloakroom or eviction exchange completes. -/
  | contextSwitchComplete (slot : Nat)
  /-- R308. At each 4 clk boundary the slew limiter moves its ceiling and admits requests. -/
  | limiterStep (quarter : Nat)
  /-- R377. A host write to a launch queue push window places, spills or drops a record. -/
  | queuePush (slot queue : Nat) (rec : List Word)
  /-- R400. A host push to a management or fleet queue is sent to the memory-side agent. -/
  | virtualQueuePush (slot queue : Nat) (rec : List Word)
  /-- R373. Sets a queue's spill ring base while empty. -/
  | spillBaseWrite (slot queue : Nat) (value : Word)
  /-- R373. Sets a queue's spill ring size, refusing bad values or a non-empty queue. -/
  | spillSizeWrite (slot queue : Nat) (value : Word)
  /-- R375. A queue record reaches its queue's head and is checked and acted on. -/
  | recordAtHead (slot queue : Nat)
  /-- R378. A launch enters the dependence unit and gains dependences. -/
  | dependenceEntry (launch : Nat)
  /-- R387. The walker finishes a launch's lease setup. -/
  | leaseSetupComplete (launch : Nat)
  /-- R388. A non-resident page is walked again after 65,536 clk. -/
  | pageRewalk (launch : Nat)
  /-- R388. A page stays non-resident 100 ms and the launch ends. -/
  | leaseTimeout (launch : Nat)
  /-- R373. Sets a context block address while the context does not exist. -/
  | contextBlockAddressWrite (ctx : Nat) (value : Word)
  /-- R380. Creates a context from its block. -/
  | create (ctx : Nat)
  /-- R380. Destroys a context after quiescence. -/
  | destroy (ctx : Nat)
  /-- R380. Zeroes a context's counters after quiescence. -/
  | resetCounters (ctx : Nat)
  /-- R380. Cancels every unfired armed send. -/
  | cancelSends (ctx : Nat)
  /-- R380. Pre-empts and keeps the context evicted. -/
  | suspend (ctx : Nat)
  /-- R380. Lets the scheduler bring the context back. -/
  | resume (ctx : Nat)
  /-- R409. A partition idle for 100 µs enters idle-gated. -/
  | idleGateEntry (slot : Nat)
  /-- R410. Sets the cap watts and ramp code, refusing bad codes. -/
  | powerCapWrite (value : Word)
  /-- R413. Sets the partition layout and resets every partition. -/
  | partitionLayoutWrite (value : Word)
  /-- R414. Resets one partition whose slot has no context. -/
  | partitionResetWrite (value : Word)
  /-- R417. The driver's choice of negotiated formats, accepted or refused whole. -/
  | formatChoiceWrite (value : Word)
  /-- R418. A scale-up link trains, taking its number and format or staying down. -/
  | linkTraining (plane : Nat)
  /-- R416. A rack scheduler's record arrives over a plane and a residency report is returned. -/
  | forwardedRecord (plane fabric : Nat) (rec : List Word)
  /-- R361. A member's part of an xchg step completes and it starts the next. -/
  | collectiveStepComplete (coll : Nat)
  /-- R362. Step 0's handshake detects disagreeing layouts. -/
  | collectiveHandshake (coll : Nat)
  /-- R364. A device answers collective traffic for a non-resident context with a parked reply. -/
  | parkedReply (ctx coll : Nat)
  /-- R367. A switch reports lost slot state and chunks are rerun. -/
  | switchSlotLoss (coll : Nat)
  /-- R368. No beat from a member for 2 ms declares it lost. -/
  | memberLostTimeout (coll : Nat)
  /-- R368. A port reports link-down, losing its member. -/
  | linkDown (plane : Nat)
  /-- R395. An uncorrectable ECC error takes its store's path. -/
  | uncorrectableError (store : ErrorStore)
  /-- R372. A host CXL.mem access to the HBM window. -/
  | cxlMemAccess (addr : Nat) (write : Bool) (bytes : List Byte)
  /-- R373. A host write to a register with no behaviour of its own. -/
  | registerWrite (offset : Nat) (value : Word)
  /-- R133. An issued word whose primary opcode is unassigned reaches DE and raises the illegal-instruction trap. -/
  | illegalInstruction (word : Word)
  /-- R280. The reply to a qpush or qpop reaches the stalled instance 60, 460 or 1,560 clk after issue; an accepting reply engages the segment. -/
  | queueReply (op : Nat)
  /-- R258. A copy engine has read a command's last source granule, which releases fences waiting on that command's reads. -/
  | copySourceRead (cmd : Nat)
  /-- R395. A correctable ECC error is corrected in place and counted for its store class. -/
  | correctableError (store : ErrorStore)
  /-- R408. Under intrusive debug the debugger writes a register of an instance that brk has halted. -/
  | haltedInstanceRegisterWrite (inst : Nat) (cls : RegClass) (reg : Nat) (value : VecVal)
  /-- R160. Ends the instance, declaring and committing implicitly if uncommitted. -/
  | done
  /-- R195. Leaves the gang after the last row is passed on. -/
  | gangoff
  /-- R55. A seat's commit: it stalls for the collective commit. -/
  | commit
  /-- R279. Occupies an issue slot. -/
  | nop
  /-- R411. Every millisecond firmware adjusts each quarter's unit limit. -/
  | capControl
  /-- R405. At power-on, reset or leaving off the ROM trains HBM and checks the slot image. -/
  | powerOnBoot
  /-- R405. Boot command 1 checks the image buffer. -/
  | verifyImage
  /-- R405. Boot command 2 writes the image buffer to the flash slot. -/
  | writeFlash
  /-- R408. Boot command 3 presents a debug token. -/
  | presentDebugToken
  /-- R406. After 60 s without fault firmware raises the rollback counter. -/
  | rollbackRaise
  /-- R407. SPDM version request. -/
  | getVersion
  /-- R407. SPDM capabilities request. -/
  | getCapabilities
  /-- R407. SPDM algorithm negotiation. -/
  | negotiateAlgorithms
  /-- R407. SPDM certificate digests request. -/
  | getDigests
  /-- R407. SPDM certificate request. -/
  | getCertificate
  /-- R407. SPDM challenge signed with the identity key. -/
  | challenge
  /-- R407. SPDM measurements of ROM, image and lifecycle. -/
  | getMeasurements
  /-- R407. SPDM key exchange, refused. -/
  | keyExchange
  /-- R408. Provisioning creates the identity key, moving blank to provisioned. -/
  | identityKeyCreate
  /-- R408. A fuse write moves provisioned to deployed. -/
  | deployFuseWrite
  /-- R408. A signed token moves deployed to returned, clearing memory. -/
  | returnToken
  /-- R409. Power command 1 returns to active. -/
  | powerActive
  /-- R409. Power command 2 enters retention if quiescent. -/
  | powerRetention
  /-- R409. Power command 3 enters off if no context exists. -/
  | powerOff
  /-- R419. Every millisecond firmware refreshes the telemetry counters. -/
  | telemetryRefresh
deriving DecidableEq, Repr

end Sys2Proof
end

