-- ==== Sys2Proof/Decode.lean ====
section
/-!
DEFINITION. Decode.lean: instruction words to instructions and back (06 R121 to R134), the fate of every encoding
(R133), and the lesson header word (R129, R130).
-/

namespace Sys2Proof

/-! ## Bit fields -/

/-- Bits [hi:lo] of a word, both inclusive (00 R7). -/
def bits (w hi lo : Nat) : Nat := w / 2 ^ lo % 2 ^ (hi + 1 - lo)

/-- Bit [n] of a word. -/
def bit (w n : Nat) : Bool := w / 2 ^ n % 2 = 1

/-- A `width`-bit field read as a signed number. -/
def signed (width v : Nat) : Int :=
  if v % 2 ^ width < 2 ^ (width - 1) then (v % 2 ^ width : Nat) else ((v % 2 ^ width : Nat) : Int) - (2 ^ width : Nat)

/-- One bit as a number. -/
def bitNat (b : Bool) : Nat := if b then 1 else 0

/-! ## Type codes and conditions -/

/-- The type of a code of 06 R122; reserved codes have none. -/
def Ty.ofCode (c : Nat) : Option Ty :=
  match c with
  | 0x00 => some .i32 | 0x01 => some .n32 | 0x02 => some .i16 | 0x03 => some .n16
  | 0x04 => some .i8 | 0x05 => some .n8 | 0x06 => some .i64 | 0x07 => some .n64
  | 0x08 => some .f32 | 0x09 => some .bf16 | 0x0A => some .f16 | 0x0B => some .e4m3
  | 0x0C => some .e5m2 | 0x0D => some .e2m1 | 0x10 => some .f32pair
  | _ => none

/-- The code of a type (06 R122). -/
def Ty.code : Ty → Nat
  | .i32 => 0x00 | .n32 => 0x01 | .i16 => 0x02 | .n16 => 0x03 | .i8 => 0x04 | .n8 => 0x05
  | .i64 => 0x06 | .n64 => 0x07 | .f32 => 0x08 | .bf16 => 0x09 | .f16 => 0x0A | .e4m3 => 0x0B
  | .e5m2 => 0x0C | .e2m1 => 0x0D | .f32pair => 0x10

/-- The six formats (06 R126). -/
inductive Fmt where
  | r | i | m | l | q | z
deriving DecidableEq, Repr

/-- The fields of one format. -/
inductive Form where
  | r (f : RForm) | i (f : IForm) | m (f : MForm) | l (f : LForm) | q (f : QForm) | z (f : ZForm)
deriving DecidableEq, Repr

/-- The format of a primary opcode (06 R132); every other value is unassigned. -/
def fmtOf (p : Nat) : Option Fmt :=
  if 0x00 ≤ p ∧ p ≤ 0x0F then some .r else
  if p = 0x10 then some .i else
  if 0x12 ≤ p ∧ p ≤ 0x14 then some .i else
  if 0x16 ≤ p ∧ p ≤ 0x1F then some .i else
  if 0x20 ≤ p ∧ p ≤ 0x23 then some .l else
  if 0x24 ≤ p ∧ p ≤ 0x25 then some .i else
  if p = 0x26 then some .r else
  if p = 0x27 then some .z else
  if 0x30 ≤ p ∧ p ≤ 0x37 then some .r else
  if 0x40 ≤ p ∧ p ≤ 0x54 then some .r else
  if p = 0x55 then some .i else
  if 0x56 ≤ p ∧ p ≤ 0x5B then some .r else
  if 0x60 ≤ p ∧ p ≤ 0x69 then some .r else
  if 0x70 ≤ p ∧ p ≤ 0x7F then some .r else
  if 0x80 ≤ p ∧ p ≤ 0x86 then some .q else
  if 0x90 ≤ p ∧ p ≤ 0x98 then some .r else
  if 0xA0 ≤ p ∧ p ≤ 0xA3 then some .m else
  if 0xA4 ≤ p ∧ p ≤ 0xA5 then some .r else
  if 0xA6 ≤ p ∧ p ≤ 0xA7 then some .i else
  if p = 0xA8 then some .m else
  if p = 0xA9 then some .r else
  if p = 0xAA then some .i else
  if 0xB0 ≤ p ∧ p ≤ 0xB3 then some .m else
  if 0xB4 ≤ p ∧ p ≤ 0xB8 then some .i else
  if p = 0xB9 then some .z else
  if 0xBA ≤ p ∧ p ≤ 0xBB then some .m else
  if 0xC0 ≤ p ∧ p ≤ 0xC4 then some .m else
  if 0xC5 ≤ p ∧ p ≤ 0xC7 then some .i else
  if 0xC8 ≤ p ∧ p ≤ 0xCC then some .m else
  if p = 0xCD then some .i else
  if 0xD0 ≤ p ∧ p ≤ 0xD5 then some .r else
  if 0xE0 ≤ p ∧ p ≤ 0xEB then some .z else
  none
/-- The primary opcode and the fields of a lesson instruction (06 R126, R132); an event has none. -/
def Instr.parts : Instr → Option (Nat × Form)
  | .add f => some (0x00, .r f)
  | .sub f => some (0x01, .r f)
  | .mul f => some (0x02, .r f)
  | .mulh f => some (0x03, .r f)
  | .div f => some (0x04, .r f)
  | .rem f => some (0x05, .r f)
  | .and f => some (0x06, .r f)
  | .or f => some (0x07, .r f)
  | .xor f => some (0x08, .r f)
  | .shl f => some (0x09, .r f)
  | .shr f => some (0x0A, .r f)
  | .cmpset f => some (0x0B, .r f)
  | .sel f => some (0x0C, .r f)
  | .min f => some (0x0D, .r f)
  | .max f => some (0x0E, .r f)
  | .adda f => some (0x0F, .r f)
  | .addi f => some (0x10, .i f)
  | .muli f => some (0x12, .i f)
  | .li f => some (0x13, .i f)
  | .lih f => some (0x14, .i f)
  | .andi f => some (0x16, .i f)
  | .ori f => some (0x17, .i f)
  | .xori f => some (0x18, .i f)
  | .shli f => some (0x19, .i f)
  | .shri f => some (0x1A, .i f)
  | .cmpseti f => some (0x1B, .i f)
  | .rdsr f => some (0x1C, .i f)
  | .mini f => some (0x1D, .i f)
  | .maxi f => some (0x1E, .i f)
  | .addai f => some (0x1F, .i f)
  | .b f => some (0x20, .l f)
  | .j f => some (0x21, .l f)
  | .loop f => some (0x22, .l f)
  | .lexit f => some (0x23, .l f)
  | .wfill f => some (0x24, .i f)
  | .wfree f => some (0x25, .i f)
  | .rdlc f => some (0x26, .r f)
  | .done => some (0x27, .z ⟨false, 0, 0, 0⟩)
  | .kand f => some (0x30, .r f)
  | .kor f => some (0x31, .r f)
  | .kxor f => some (0x32, .r f)
  | .knot f => some (0x33, .r f)
  | .kmov f => some (0x34, .r f)
  | .kread f => some (0x35, .r f)
  | .kpop f => some (0x36, .r f)
  | .kfirst f => some (0x37, .r f)
  | .vadd f => some (0x40, .r f)
  | .vsub f => some (0x41, .r f)
  | .vmul f => some (0x42, .r f)
  | .vfma f => some (0x43, .r f)
  | .vfms f => some (0x44, .r f)
  | .vfnma f => some (0x45, .r f)
  | .vmin f => some (0x46, .r f)
  | .vmax f => some (0x47, .r f)
  | .vabs f => some (0x48, .r f)
  | .vneg f => some (0x49, .r f)
  | .vand f => some (0x4A, .r f)
  | .vor f => some (0x4B, .r f)
  | .vxor f => some (0x4C, .r f)
  | .vshl f => some (0x4D, .r f)
  | .vshr f => some (0x4E, .r f)
  | .vclamp f => some (0x4F, .r f)
  | .vcmp f => some (0x50, .r f)
  | .vsel f => some (0x51, .r f)
  | .vshuf f => some (0x52, .r f)
  | .vperm f => some (0x53, .r f)
  | .vbcast f => some (0x54, .r f)
  | .vbcasti f => some (0x55, .i f)
  | .vlane f => some (0x56, .r f)
  | .vins f => some (0x57, .r f)
  | .vred f => some (0x58, .r f)
  | .vmov f => some (0x59, .r f)
  | .vsetvalid f => some (0x5A, .r f)
  | .vgetvalid f => some (0x5B, .r f)
  | .vcvt f => some (0x60, .r f)
  | .vexp2 f => some (0x61, .r f)
  | .vlog2 f => some (0x62, .r f)
  | .vrcp f => some (0x63, .r f)
  | .vrsqrt f => some (0x64, .r f)
  | .vsigm f => some (0x65, .r f)
  | .vtanh f => some (0x66, .r f)
  | .vsoftp f => some (0x67, .r f)
  | .vpack f => some (0x68, .r f)
  | .vunpack f => some (0x69, .r f)
  | .wld f => some (0x70, .r f)
  | .wcmp f => some (0x71, .r f)
  | .thdr f => some (0x72, .r f)
  | .mma f => some (0x73, .r f)
  | .mmaAccumulatorReady _ _ => none
  | .gangon f => some (0x74, .r f)
  | .gangoff => some (0x75, .r ⟨0, false, false, false, false, .i32, 0, 0, 0, 0, 0⟩)
  | .accrd f => some (0x76, .r f)
  | .accwr f => some (0x77, .r f)
  | .acczero f => some (0x78, .r f)
  | .acccvt f => some (0x79, .r f)
  | .quant f => some (0x7A, .r f)
  | .quantb f => some (0x7B, .r f)
  | .tew f => some (0x7C, .r f)
  | .settle f => some (0x7D, .r f)
  | .talloc f => some (0x7E, .r f)
  | .tfree f => some (0x7F, .r f)
  | .sred f => some (0x80, .q f)
  | .sscan f => some (0x81, .q f)
  | .scav f => some (0x82, .q f)
  | .sbcast f => some (0x83, .q f)
  | .srank f => some (0x84, .q f)
  | .sweepResult _ _ => none
  | .fwd f => some (0x85, .q f)
  | .rcv f => some (0x86, .q f)
  | .neighbourArrival _ _ _ => none
  | .need f => some (0x90, .r f)
  | .needSweepComplete _ => none
  | .emit f => some (0x91, .r f)
  | .commit => some (0x92, .r ⟨0, false, false, false, false, .i32, 0, 0, 0, 0, 0⟩)
  | .symrd f => some (0x93, .r f)
  | .symbld f => some (0x94, .r f)
  | .symget f => some (0x95, .r f)
  | .unfold f => some (0x96, .r f)
  | .unfoldRequestArrival _ _ _ => none
  | .park f => some (0x97, .r f)
  | .fetch f => some (0x98, .r f)
  | .vld f => some (0xA0, .m f)
  | .vst f => some (0xA1, .m f)
  | .sld f => some (0xA2, .m f)
  | .sst f => some (0xA3, .m f)
  | .vgath f => some (0xA4, .r f)
  | .vscat f => some (0xA5, .r f)
  | .rpush f => some (0xA6, .i f)
  | .rpop f => some (0xA7, .i f)
  | .ratom f => some (0xA8, .m f)
  | .tld f => some (0xA9, .r f)
  | .rinit f => some (0xAA, .i f)
  | .copy f => some (0xB0, .m f)
  | .copyred f => some (0xB1, .m f)
  | .pref f => some (0xB2, .m f)
  | .tsend f => some (0xB3, .m f)
  | .ctrset f => some (0xB4, .i f)
  | .ctradd f => some (0xB5, .i f)
  | .ctrrd f => some (0xB6, .i f)
  | .ctrwait f => some (0xB7, .i f)
  | .smark f => some (0xB8, .i f)
  | .fence f => some (0xB9, .z f)
  | .fld f => some (0xBA, .m f)
  | .farReadReply _ => none
  | .fst f => some (0xBB, .m f)
  | .aadd f => some (0xC0, .m f)
  | .amin f => some (0xC1, .m f)
  | .amax f => some (0xC2, .m f)
  | .axchg f => some (0xC3, .m f)
  | .acas f => some (0xC4, .m f)
  | .aand f => some (0xCB, .m f)
  | .aor f => some (0xCC, .m f)
  | .pacq f => some (0xC5, .i f)
  | .prel f => some (0xC6, .i f)
  | .bell f => some (0xC7, .i f)
  | .scld f => some (0xC8, .m f)
  | .scst f => some (0xC9, .m f)
  | .scrmw f => some (0xCA, .m f)
  | .pqry f => some (0xCD, .i f)
  | .syncOpPerformed _ => none
  | .syncReply _ => none
  | .bellComplete _ => none
  | .passHandoff _ _ => none
  | .batonHop _ => none
  | .logmark f => some (0xD0, .r f)
  | .gacc f => some (0xD1, .r f)
  | .opsave f => some (0xD2, .r f)
  | .oprecomp f => some (0xD3, .r f)
  | .logrd f => some (0xD4, .r f)
  | .recq f => some (0xD5, .r f)
  | .trap f => some (0xE0, .z f)
  | .syscall f => some (0xE1, .z f)
  | .cfgrd f => some (0xE2, .z f)
  | .cfgwr f => some (0xE3, .z f)
  | .brk f => some (0xE4, .z f)
  | .nop => some (0xE5, .z ⟨false, 0, 0, 0⟩)
  | .pcrd f => some (0xE6, .z f)
  | .qpush f => some (0xE7, .z f)
  | .qpop f => some (0xE8, .z f)
  | .queueOpArrival _ => none
  | .sleep f => some (0xE9, .z f)
  | .evsig f => some (0xEA, .z f)
  | .rdclk f => some (0xEB, .z f)
  | .debugResume _ => none
  | .discoverySweep _ => none
  | .shiftWave _ => none
  | .waveComplete _ => none
  | .expressionPlaced _ => none
  | .parkWriteComplete _ => none
  | .unparkComplete _ => none
  | .tidyCopyComplete _ => none
  | .lessonImageReceived _ _ => none
  | .loadReportsCollected _ => none
  | .switchBeat _ => none
  | .segmentCommit _ => none
  | .commitComplete _ => none
  | .completionRecordWrite _ => none
  | .copyStart _ _ => none
  | .ringFillEntry _ => none
  | .farWritePerformed _ => none
  | .copyComplete _ => none
  | .counterIncrement _ _ => none
  | .counterUpdateApplied _ _ _ _ => none
  | .peerWriteArrival _ => none
  | .agentAppend _ _ _ => none
  | .preemptDecision _ => none
  | .turnExpiry _ => none
  | .preemptionTimeout _ _ => none
  | .waitTimeout _ _ => none
  | .rollCallWave _ => none
  | .contextSwitchComplete _ => none
  | .limiterStep _ => none
  | .capControl => none
  | .queuePush _ _ _ => none
  | .virtualQueuePush _ _ _ => none
  | .spillBaseWrite _ _ _ => none
  | .spillSizeWrite _ _ _ => none
  | .recordAtHead _ _ => none
  | .dependenceEntry _ => none
  | .leaseSetupComplete _ => none
  | .pageRewalk _ => none
  | .leaseTimeout _ => none
  | .contextBlockAddressWrite _ _ => none
  | .create _ => none
  | .destroy _ => none
  | .resetCounters _ => none
  | .cancelSends _ => none
  | .suspend _ => none
  | .resume _ => none
  | .powerOnBoot => none
  | .verifyImage => none
  | .writeFlash => none
  | .presentDebugToken => none
  | .rollbackRaise => none
  | .getVersion => none
  | .getCapabilities => none
  | .negotiateAlgorithms => none
  | .getDigests => none
  | .getCertificate => none
  | .challenge => none
  | .getMeasurements => none
  | .keyExchange => none
  | .identityKeyCreate => none
  | .deployFuseWrite => none
  | .returnToken => none
  | .powerActive => none
  | .powerRetention => none
  | .powerOff => none
  | .idleGateEntry _ => none
  | .powerCapWrite _ => none
  | .partitionLayoutWrite _ => none
  | .partitionResetWrite _ => none
  | .formatChoiceWrite _ => none
  | .linkTraining _ => none
  | .forwardedRecord _ _ _ => none
  | .telemetryRefresh => none
  | .collectiveStepComplete _ => none
  | .collectiveHandshake _ => none
  | .parkedReply _ _ => none
  | .switchSlotLoss _ => none
  | .memberLostTimeout _ => none
  | .linkDown _ => none
  | .uncorrectableError _ => none
  | .cxlMemAccess _ _ _ => none
  | .registerWrite _ _ => none
  | .illegalInstruction _ => none
  | .queueReply _ => none
  | .copySourceRead _ => none
  | .correctableError _ => none
  | .haltedInstanceRegisterWrite _ _ _ _ => none

/-- The R-format instruction of a primary opcode (06 R132). -/
def ofPrimaryR (p : Nat) (f : RForm) : Option Instr :=
  match p with
  | 0x00 => some (.add f)
  | 0x01 => some (.sub f)
  | 0x02 => some (.mul f)
  | 0x03 => some (.mulh f)
  | 0x04 => some (.div f)
  | 0x05 => some (.rem f)
  | 0x06 => some (.and f)
  | 0x07 => some (.or f)
  | 0x08 => some (.xor f)
  | 0x09 => some (.shl f)
  | 0x0A => some (.shr f)
  | 0x0B => some (.cmpset f)
  | 0x0C => some (.sel f)
  | 0x0D => some (.min f)
  | 0x0E => some (.max f)
  | 0x0F => some (.adda f)
  | 0x26 => some (.rdlc f)
  | 0x30 => some (.kand f)
  | 0x31 => some (.kor f)
  | 0x32 => some (.kxor f)
  | 0x33 => some (.knot f)
  | 0x34 => some (.kmov f)
  | 0x35 => some (.kread f)
  | 0x36 => some (.kpop f)
  | 0x37 => some (.kfirst f)
  | 0x40 => some (.vadd f)
  | 0x41 => some (.vsub f)
  | 0x42 => some (.vmul f)
  | 0x43 => some (.vfma f)
  | 0x44 => some (.vfms f)
  | 0x45 => some (.vfnma f)
  | 0x46 => some (.vmin f)
  | 0x47 => some (.vmax f)
  | 0x48 => some (.vabs f)
  | 0x49 => some (.vneg f)
  | 0x4A => some (.vand f)
  | 0x4B => some (.vor f)
  | 0x4C => some (.vxor f)
  | 0x4D => some (.vshl f)
  | 0x4E => some (.vshr f)
  | 0x4F => some (.vclamp f)
  | 0x50 => some (.vcmp f)
  | 0x51 => some (.vsel f)
  | 0x52 => some (.vshuf f)
  | 0x53 => some (.vperm f)
  | 0x54 => some (.vbcast f)
  | 0x56 => some (.vlane f)
  | 0x57 => some (.vins f)
  | 0x58 => some (.vred f)
  | 0x59 => some (.vmov f)
  | 0x5A => some (.vsetvalid f)
  | 0x5B => some (.vgetvalid f)
  | 0x60 => some (.vcvt f)
  | 0x61 => some (.vexp2 f)
  | 0x62 => some (.vlog2 f)
  | 0x63 => some (.vrcp f)
  | 0x64 => some (.vrsqrt f)
  | 0x65 => some (.vsigm f)
  | 0x66 => some (.vtanh f)
  | 0x67 => some (.vsoftp f)
  | 0x68 => some (.vpack f)
  | 0x69 => some (.vunpack f)
  | 0x70 => some (.wld f)
  | 0x71 => some (.wcmp f)
  | 0x72 => some (.thdr f)
  | 0x73 => some (.mma f)
  | 0x74 => some (.gangon f)
  | 0x75 => some .gangoff
  | 0x76 => some (.accrd f)
  | 0x77 => some (.accwr f)
  | 0x78 => some (.acczero f)
  | 0x79 => some (.acccvt f)
  | 0x7A => some (.quant f)
  | 0x7B => some (.quantb f)
  | 0x7C => some (.tew f)
  | 0x7D => some (.settle f)
  | 0x7E => some (.talloc f)
  | 0x7F => some (.tfree f)
  | 0x90 => some (.need f)
  | 0x91 => some (.emit f)
  | 0x92 => some .commit
  | 0x93 => some (.symrd f)
  | 0x94 => some (.symbld f)
  | 0x95 => some (.symget f)
  | 0x96 => some (.unfold f)
  | 0x97 => some (.park f)
  | 0x98 => some (.fetch f)
  | 0xA4 => some (.vgath f)
  | 0xA5 => some (.vscat f)
  | 0xA9 => some (.tld f)
  | 0xD0 => some (.logmark f)
  | 0xD1 => some (.gacc f)
  | 0xD2 => some (.opsave f)
  | 0xD3 => some (.oprecomp f)
  | 0xD4 => some (.logrd f)
  | 0xD5 => some (.recq f)
  | _ => none

/-- The I-format instruction of a primary opcode (06 R132). -/
def ofPrimaryI (p : Nat) (f : IForm) : Option Instr :=
  match p with
  | 0x10 => some (.addi f)
  | 0x12 => some (.muli f)
  | 0x13 => some (.li f)
  | 0x14 => some (.lih f)
  | 0x16 => some (.andi f)
  | 0x17 => some (.ori f)
  | 0x18 => some (.xori f)
  | 0x19 => some (.shli f)
  | 0x1A => some (.shri f)
  | 0x1B => some (.cmpseti f)
  | 0x1C => some (.rdsr f)
  | 0x1D => some (.mini f)
  | 0x1E => some (.maxi f)
  | 0x1F => some (.addai f)
  | 0x24 => some (.wfill f)
  | 0x25 => some (.wfree f)
  | 0x55 => some (.vbcasti f)
  | 0xA6 => some (.rpush f)
  | 0xA7 => some (.rpop f)
  | 0xAA => some (.rinit f)
  | 0xB4 => some (.ctrset f)
  | 0xB5 => some (.ctradd f)
  | 0xB6 => some (.ctrrd f)
  | 0xB7 => some (.ctrwait f)
  | 0xB8 => some (.smark f)
  | 0xC5 => some (.pacq f)
  | 0xC6 => some (.prel f)
  | 0xC7 => some (.bell f)
  | 0xCD => some (.pqry f)
  | _ => none

/-- The M-format instruction of a primary opcode (06 R132). -/
def ofPrimaryM (p : Nat) (f : MForm) : Option Instr :=
  match p with
  | 0xA0 => some (.vld f)
  | 0xA1 => some (.vst f)
  | 0xA2 => some (.sld f)
  | 0xA3 => some (.sst f)
  | 0xA8 => some (.ratom f)
  | 0xB0 => some (.copy f)
  | 0xB1 => some (.copyred f)
  | 0xB2 => some (.pref f)
  | 0xB3 => some (.tsend f)
  | 0xBA => some (.fld f)
  | 0xBB => some (.fst f)
  | 0xC0 => some (.aadd f)
  | 0xC1 => some (.amin f)
  | 0xC2 => some (.amax f)
  | 0xC3 => some (.axchg f)
  | 0xC4 => some (.acas f)
  | 0xC8 => some (.scld f)
  | 0xC9 => some (.scst f)
  | 0xCA => some (.scrmw f)
  | 0xCB => some (.aand f)
  | 0xCC => some (.aor f)
  | _ => none

/-- The L-format instruction of a primary opcode (06 R132). -/
def ofPrimaryL (p : Nat) (f : LForm) : Option Instr :=
  match p with
  | 0x20 => some (.b f)
  | 0x21 => some (.j f)
  | 0x22 => some (.loop f)
  | 0x23 => some (.lexit f)
  | _ => none

/-- The Q-format instruction of a primary opcode (06 R132). -/
def ofPrimaryQ (p : Nat) (f : QForm) : Option Instr :=
  match p with
  | 0x80 => some (.sred f)
  | 0x81 => some (.sscan f)
  | 0x82 => some (.scav f)
  | 0x83 => some (.sbcast f)
  | 0x84 => some (.srank f)
  | 0x85 => some (.fwd f)
  | 0x86 => some (.rcv f)
  | _ => none

/-- The Z-format instruction of a primary opcode (06 R132). -/
def ofPrimaryZ (p : Nat) (f : ZForm) : Option Instr :=
  match p with
  | 0x27 => some .done
  | 0xB9 => some (.fence f)
  | 0xE0 => some (.trap f)
  | 0xE1 => some (.syscall f)
  | 0xE2 => some (.cfgrd f)
  | 0xE3 => some (.cfgwr f)
  | 0xE4 => some (.brk f)
  | 0xE5 => some .nop
  | 0xE6 => some (.pcrd f)
  | 0xE7 => some (.qpush f)
  | 0xE8 => some (.qpop f)
  | 0xE9 => some (.sleep f)
  | 0xEA => some (.evsig f)
  | 0xEB => some (.rdclk f)
  | _ => none

/-! ## The rows of the opcode map -/

/-- What an instruction's description says of its fields: the types it accepts (`[]` for an untyped instruction), the
register class of D, A, B and C where it uses them, whether D is read as a source, and whether it takes a mask. -/
structure Row where
  types : List Ty
  d : Option RegClass
  a : Option RegClass
  b : Option RegClass
  c : Option RegClass
  dRead : Bool
  mask : Bool
deriving DecidableEq, Repr

/-- The eight integer types of 07 R143. -/
def intTypes : List Ty := [.i64, .n64, .i32, .n32, .i16, .n16, .i8, .n8]
/-- The six integer types of a vector lane (08 R169). -/
def laneInts : List Ty := [.i32, .n32, .i16, .n16, .i8, .n8]
/-- The five matrix formats (09 R185). -/
def matTypes : List Ty := [.bf16, .f16, .e4m3, .e5m2, .e2m1]
/-- The formats that a tile header takes (06 R141). -/
def tileTypes : List Ty := [.bf16, .f32, .f16, .e4m3, .e5m2, .e2m1, .i32, .n32, .i16, .n16, .i8, .n8]
/-- The types of the synchronisation engines (12 R263). -/
def syncTypes : List Ty := [.i32, .n32, .i64, .n64, .f32]

/-- The types that a combiner takes ("Types of `vred`", 08 R179); codes 9 to 15 are unassigned. -/
def combTypes (comb : Nat) : List Ty :=
  if comb ≤ 3 then .f32 :: laneInts else if comb ≤ 6 then [.i32, .n32] else if comb = 7 then [.f32pair]
  else if comb = 8 then [.f32] else []

/-- D, A and B name x registers. -/
def rowXXX (t : List Ty) : Row := ⟨t, some .x, some .x, some .x, none, false, false⟩
/-- D and A name x registers. -/
def rowXX (t : List Ty) : Row := ⟨t, some .x, some .x, none, none, false, false⟩
/-- D alone names an x register. -/
def rowX (t : List Ty) : Row := ⟨t, some .x, none, none, none, false, false⟩
/-- A alone names an x register. -/
def rowA (t : List Ty) : Row := ⟨t, none, some .x, none, none, false, false⟩
/-- D, A and B name v registers, under a mask. -/
def rowVVV (t : List Ty) : Row := ⟨t, some .v, some .v, some .v, none, false, true⟩
/-- D and A name v registers, under a mask. -/
def rowVV (t : List Ty) : Row := ⟨t, some .v, some .v, none, none, false, true⟩
/-- D, A, B and C name v registers, under a mask. -/
def rowVVVV (t : List Ty) : Row := ⟨t, some .v, some .v, some .v, some .v, false, true⟩
/-- D and A name k registers. -/
def rowK (b : Option RegClass) : Row := ⟨[], some .k, some .k, b, none, false, false⟩
/-- An M-format data register that is read and a base register. -/
def rowStore (t : List Ty) : Row := ⟨t, some .x, some .x, none, none, true, false⟩
/-- No register. -/
def rowNone : Row := ⟨[], none, none, none, none, false, false⟩

/-- The row of a primary opcode, given the word (some forms use a field only for some function values): 07 R145, R148,
R150 to R161; 08 R169; 09 R185; 10 R213, R221; 11 R232; 12 R263, R274, R278. -/
def rowOf (p w : Nat) : Row :=
  match p with
  | 0x00 | 0x01 | 0x02 | 0x03 | 0x04 | 0x05 | 0x06 | 0x07 | 0x08 | 0x09 | 0x0A | 0x0B | 0x0D | 0x0E => rowXXX intTypes
  | 0x0C => ⟨[], some .x, some .x, some .x, some .x, false, false⟩
  | 0x0F => rowXXX [.i64, .n64]
  | 0x10 | 0x12 | 0x16 | 0x17 | 0x18 | 0x19 | 0x1A | 0x1B | 0x1D | 0x1E => rowXX intTypes
  | 0x13 => rowX intTypes
  | 0x14 | 0x1F => rowXX [.i64, .n64]
  | 0x1C => rowX []
  | 0x20 | 0x23 => ⟨intTypes, none, some .x, some .x, none, false, false⟩
  | 0x21 => rowA []
  | 0x22 => rowA [.n32]
  | 0x24 | 0x25 | 0xA6 | 0xA7 => rowXX []
  | 0x26 => ⟨[], some .x, some .lc, none, none, false, false⟩
  | 0x27 => rowNone
  | 0x30 | 0x31 | 0x32 => rowK (some .k)
  | 0x33 => rowK none
  | 0x34 => ⟨[], some .k, some .x, none, none, false, false⟩
  | 0x35 | 0x36 | 0x37 => ⟨[], some .x, some .k, none, none, false, false⟩
  | 0x40 | 0x41 | 0x42 | 0x46 | 0x47 => rowVVV (.f32 :: laneInts)
  | 0x43 | 0x44 | 0x45 => rowVVVV [.f32]
  | 0x48 | 0x49 => rowVV [.f32, .i32, .i16, .i8]
  | 0x4A | 0x4B | 0x4C => rowVVV [.i32, .n32]
  | 0x4D | 0x4E => rowVVV laneInts
  | 0x4F => rowVVVV (.f32 :: laneInts)
  | 0x50 => ⟨.f32 :: laneInts, some .k, some .v, some .v, none, false, true⟩
  | 0x51 | 0x52 => rowVVV []
  | 0x53 => if 4 ≤ bits w 7 4 ∧ bits w 7 4 ≤ 7 then rowVVV [] else rowVV []
  | 0x54 => ⟨.f32 :: laneInts, some .v, some .x, none, none, false, true⟩
  | 0x55 => ⟨.f32 :: laneInts, some .v, none, none, none, false, true⟩
  | 0x56 => ⟨[.n32, .i32, .f32], some .x, some .v, none, none, false, false⟩
  | 0x57 => ⟨[], some .v, some .x, none, none, false, false⟩
  | 0x58 => rowVV (combTypes (bits w 3 0))
  | 0x59 => rowVV []
  | 0x5A => ⟨[], some .v, some .v, some .k, none, false, false⟩
  | 0x5B => ⟨[], some .k, some .v, none, none, false, false⟩
  | 0x60 => rowVV (.f32 :: laneInts ++ [.bf16, .f16, .e4m3, .e5m2])
  | 0x61 | 0x62 | 0x63 | 0x64 | 0x65 | 0x66 | 0x67 => rowVV [.f32]
  | 0x68 => ⟨[.bf16, .f16, .e4m3, .e5m2, .i16, .n16, .i8, .n8], some .v, some .v, some .v, none, false, false⟩
  | 0x69 => ⟨[.f32, .i32, .n32], some .v, some .v, none, none, false, false⟩
  | 0x70 | 0x71 => ⟨matTypes, some .wslot, some .x, none, none, false, false⟩
  | 0x72 => ⟨[], if bits w 2 0 ≤ 1 then some .x else none, some .x,
      if bits w 2 0 = 2 ∨ bits w 2 0 = 4 then some .x else none, none, false, false⟩
  | 0x73 => ⟨matTypes, some .acc, some .x, some .wslot, none, false, false⟩
  | 0x74 | 0x75 => rowNone
  | 0x76 => ⟨[], some .v, some .acc, some .x, none, false, false⟩
  | 0x77 => ⟨[], some .acc, some .v, some .x, none, false, true⟩
  | 0x78 => ⟨[], some .acc, none, none, none, false, false⟩
  | 0x79 => ⟨[.f32, .bf16, .f16, .e4m3, .e5m2], none, some .x, some .acc, none, false, false⟩
  | 0x7A => ⟨[.e2m1, .e4m3, .e5m2, .bf16, .f16], none, some .x, some .x, none, false, false⟩
  | 0x7B => ⟨[.e2m1], none, some .x, some .x, some .x, false, false⟩
  | 0x7C => if bits w 2 0 = 5 then ⟨tileTypes, none, some .x, some .x, none, false, false⟩
      else ⟨[.f32, .bf16, .f16, .i32], none, some .x, some .x, some .x, false, false⟩
  | 0x7D => rowXX []
  | 0x7E => rowXX tileTypes
  | 0x7F => rowA []
  | 0x80 | 0x81 | 0x82 => rowVV (combTypes (bits w 25 22))
  | 0x83 => ⟨[], some .v, some .v, some .x, none, false, false⟩
  | 0x84 => rowXX []
  | 0x85 => ⟨[], none, some .v, none, none, false, false⟩
  | 0x86 => ⟨[], some .v, none, none, none, false, false⟩
  | 0x90 => rowA []
  | 0x91 => ⟨[], none, some .x, some .x, none, false, false⟩
  | 0x92 => rowNone
  | 0x93 | 0x94 => rowXX []
  | 0x95 => rowX []
  | 0x96 | 0x97 => rowXXX []
  | 0x98 => ⟨[], some .x, some .x, some .x, some .x, false, false⟩
  | 0xA0 => ⟨[], some .v, some .x, none, none, false, true⟩
  | 0xA1 => ⟨[], some .v, some .x, none, none, true, true⟩
  | 0xA2 | 0xBA => rowXX intTypes
  | 0xA3 | 0xBB => rowStore intTypes
  | 0xA4 => ⟨[], some .v, some .x, some .v, none, false, true⟩
  | 0xA5 => ⟨[], none, some .v, some .x, some .v, false, true⟩
  | 0xA8 => rowStore (if bits w 31 29 = 4 ∨ bits w 31 29 = 5 then [.i32, .n32] else [.i32, .n32, .f32])
  | 0xA9 => ⟨[], some .v, some .x, some .x, none, false, false⟩
  | 0xAA | 0xB0 | 0xB1 | 0xB2 => rowA []
  | 0xB3 => rowStore []
  | 0xB4 | 0xB5 => rowA [.n32]
  | 0xB6 => rowX [.n32]
  | 0xB7 => rowXX [.n32]
  | 0xB8 => rowX []
  | 0xB9 => rowNone
  | 0xC0 | 0xC1 | 0xC2 | 0xC3 | 0xC4 | 0xC9 => rowStore syncTypes
  | 0xC8 => rowXX syncTypes
  | 0xCA => rowStore (if bits w 31 29 = 4 ∨ bits w 31 29 = 5 then [.i32, .n32, .i64, .n64] else syncTypes)
  | 0xCB | 0xCC => rowStore [.i32, .n32, .i64, .n64]
  | 0xC5 | 0xCD => rowX []
  | 0xC6 => rowNone
  | 0xC7 => rowXX []
  | 0xD0 | 0xD2 | 0xD3 => rowA []
  | 0xD1 => ⟨[.f32, .bf16], none, some .x, some .x, none, false, false⟩
  | 0xD4 | 0xD5 => rowX []
  | 0xE1 | 0xE3 => rowA []
  | 0xE2 | 0xE6 | 0xEB => rowX []
  | 0xE7 | 0xE8 | 0xE9 => rowXX []
  | _ => rowNone

/-! ## The causes of the illegal-instruction trap (06 R133) -/

/-- Causes 1 to 12 by name ("Causes of the illegal-instruction trap"). -/
inductive IllegalCause where
  | primary | function | reservedType | typeNotAccepted | reservedBit | registerClass | lastUse | maskUse
  | aboveTop | selector | noSide | target
deriving DecidableEq, Repr

/-- The code of a cause. -/
def IllegalCause.code : IllegalCause → Nat
  | .primary => 1 | .function => 2 | .reservedType => 3 | .typeNotAccepted => 4 | .reservedBit => 5
  | .registerClass => 6 | .lastUse => 7 | .maskUse => 8 | .aboveTop => 9 | .selector => 10 | .noSide => 11
  | .target => 12

/-- The size of a register class (06 R123). -/
def RegClass.size : RegClass → Nat
  | .x => 32 | .v => 32 | .k => 8 | .acc => 4 | .wslot => 4 | .lc => 3

/-- Cause 2: the function, condition or combiner value, or a code of a Z form, is not assigned. -/
def badFunction (p w : Nat) : Bool :=
  let fn := bits w 19 0
  match p with
  | 0x0B => fn > 5
  | 0x0F => fn > 6
  | 0x1B => bits w 31 29 > 5
  | 0x1F => bits w 31 29 = 7
  | 0x20 | 0x23 => bits w 25 23 > 3
  | 0x50 => fn > 5
  | 0x53 => bits w 19 8 ≠ 0 || bits w 7 4 > 7 || (bits w 7 4 ≥ 3 && bits w 3 0 ≠ 0)
  | 0x56 | 0x57 => fn > 15
  | 0x58 => fn > 8
  | 0x60 =>
    fn > 31 || (match Ty.ofCode (bits w 4 0) with
      | some t => t.code = bits w 48 44 || !((.f32 :: laneInts ++ [.bf16, .f16, .e4m3, .e5m2] : List Ty).contains t)
      | none => true)
  | 0x68 => fn > 1 || (fn = 1 && ([Ty.bf16, .f16, .i16, .n16].map Ty.code).contains (bits w 48 44))
  | 0x69 =>
    fn > 127 || (match Ty.ofCode (bits w 4 0) with
      | some .bf16 | some .f16 => bits w 48 44 ≠ Ty.f32.code || bits w 6 5 > 1
      | some .i16 => bits w 48 44 ≠ Ty.i32.code || bits w 6 5 > 1
      | some .n16 => bits w 48 44 ≠ Ty.n32.code || bits w 6 5 > 1
      | some .e4m3 | some .e5m2 => bits w 48 44 ≠ Ty.f32.code
      | some .i8 => bits w 48 44 ≠ Ty.i32.code
      | some .n8 => bits w 48 44 ≠ Ty.n32.code
      | _ => true)
  | 0x70 | 0x73 => fn > 15
  | 0x71 => fn > 7
  | 0x72 => fn > 4
  | 0x74 => fn = 0 || fn > 3
  | 0x7C => fn > 5
  | 0x80 | 0x81 | 0x82 => bits w 25 22 > 8 || fn ≠ 0
  | 0x83 | 0x85 | 0x86 => fn ≠ 0
  | 0x84 => fn > 1
  | 0x94 => fn ≥ 2 ^ 16
  | 0x95 => fn > 3
  | 0xA8 => bits w 31 29 > 5
  | 0xB9 => bits w 2 0 = 0 || bits w 6 4 > 4
  | 0xC7 => bits w 9 8 = 3
  | 0xCA => bits w 31 29 = 7
  | 0xD4 => fn > 3
  | 0xE2 => !(bits w 15 0 ≤ 7 || (0x20 ≤ bits w 15 0 && bits w 15 0 ≤ 0x27))
  | 0xE3 => !(0x20 ≤ bits w 15 0 && bits w 15 0 ≤ 0x27)
  | 0xE5 | 0xEB => bits w 15 0 ≠ 0
  | 0xE6 => bits w 15 0 > 7
  | 0xE7 => bits w 3 0 > 7
  | 0xE8 => bits w 3 0 > 7 || bits w 3 0 ≤ 4
  | _ => if fmtOf p = some .r then fn ≠ 0 else false

/-- Cause 5 for the fields below bit 44 that are no register field: immediate bits, code bits, offsets, loop-counter,
condition, combiner, direction and order fields that the form does not use. -/
def badReserved (p w : Nat) : Bool :=
  match p with
  | 0x19 | 0x1A => bits w 31 6 ≠ 0
  | 0x1C => bits w 31 8 ≠ 0
  | 0x20 => bits w 43 38 ≠ 0 || bit w 20 || bits w 22 21 ≠ 0
  | 0x21 => bits w 43 38 ≠ 0 || bit w 20 || bits w 22 21 ≠ 0 || bits w 25 23 ≠ 0
  | 0x22 => bits w 43 38 ≠ 0 || bit w 20 || bits w 25 23 ≠ 0
  | 0x23 => bits w 43 38 ≠ 0 || bit w 20 || bits w 19 0 ≠ 0
  | 0x24 | 0x25 | 0xA6 | 0xA7 | 0xAA => bits w 31 4 ≠ 0
  | 0x27 => bits w 31 0 ≠ 0
  | 0x80 | 0x82 => bit w 20
  | 0x83 => bits w 25 20 ≠ 0
  | 0x84 | 0x85 | 0x86 => bits w 25 22 ≠ 0 || bit w 20
  | 0xB4 | 0xB5 | 0xB6 | 0xB7 => bits w 31 6 ≠ 0
  | 0xB8 => bits w 31 3 ≠ 0
  | 0xB9 => bits w 31 7 ≠ 0 || bit w 3
  | 0xC5 => bits w 31 9 ≠ 0
  | 0xC6 | 0xCD => bits w 31 8 ≠ 0
  | 0xC7 => bits w 31 11 ≠ 0 || bits w 7 6 ≠ 0 || (bits w 9 8 = 0 && (bits w 5 0 ≠ 0 || bits w 37 32 ≠ 0))
  | 0xE7 | 0xE8 => bits w 31 4 ≠ 0
  | 0xE9 => bits w 31 7 ≠ 0 || (bit w 6 && bits w 37 32 ≠ 0)
  | 0xEA => bits w 31 6 ≠ 0
  | _ => if fmtOf p = some .z then bits w 31 16 ≠ 0 else false

/-- The register fields of a format, with their position: D, A, B, C as far as the format has them. -/
def regFields (p w : Nat) : List (Option RegClass × Nat) :=
  let r := rowOf p w
  match fmtOf p with
  | some .r => [(r.d, bits w 43 38), (r.a, bits w 37 32), (r.b, bits w 31 26), (r.c, bits w 25 20)]
  | some .i | some .m | some .z => [(r.d, bits w 43 38), (r.a, bits w 37 32)]
  | some .l => [(r.a, bits w 37 32), (r.b, bits w 31 26)]
  | some .q => [(r.d, bits w 43 38), (r.a, bits w 37 32), (r.b, bits w 31 26)]
  | none => []

/-- A register class that carries last-use bits: a source read as an x, v or k register (06 R124, 09 R185). -/
def freeable : Option RegClass → Bool
  | some .x | some .v | some .k => true
  | _ => false

/-- The last-use bits that a word may set: A, B and C (06 R126; 11 R232 and 12 R263 for a data register in D). -/
def lastAllowed (p w : Nat) : Bool × Bool × Bool :=
  let r := rowOf p w
  match fmtOf p with
  | some .r => (freeable r.a, freeable r.b, freeable r.c)
  | some .m => (freeable r.a, r.dRead, false)
  | some .l | some .q => (freeable r.a, freeable r.b, false)
  | _ => (freeable r.a, false, false)

/-- A compare-and-swap of a 64-bit type, whose operands are the pair D, D+1 (12 R265; `scrmw` with op 6, R273). -/
def isWideCas (p w : Nat) : Bool :=
  (p = 0xC4 || (p = 0xCA && bits w 31 29 = 6)) && (bits w 48 44 = 6 || bits w 48 44 = 7)

/-- Every cause of R133 that a word shows by itself, without its lesson's header and index. -/
def staticCauses (w : Nat) : List IllegalCause :=
  let p := bits w 63 56
  match fmtOf p with
  | none => [.primary]
  | some fm =>
    let r := rowOf p w
    let ty := bits w 48 44
    let regs := regFields p w
    let la := lastAllowed p w
    (if badFunction p w then [.function] else []) ++
    (match Ty.ofCode ty with
      | none => [.reservedType]
      | some t => if (if r.types.isEmpty then ty = 0 else r.types.contains t) then [] else [.typeNotAccepted]) ++
    (if badReserved p w || regs.any (fun x => x.1 = none && x.2 ≠ 0) then [.reservedBit] else []) ++
    (if regs.any (fun x => match x.1 with | some c => c.size ≤ x.2 | none => false) ||
        ((p = 0x22 || p = 0x23) && bits w 22 21 = 3) ||
        (isWideCas p w && bit w 38) then [.registerClass] else []) ++
    (if (bit w 51 && !la.1) || (bit w 50 && !la.2.1) || (bit w 49 && !la.2.2) then [.lastUse] else []) ++
    (if !(r.mask && fm ≠ .l && fm ≠ .z) && bits w 55 52 ≠ 0 then [.maskUse] else []) ++
    (if p = 0x1C && bits w 7 0 > 7 then [.selector] else [])

/-! ## The lesson header word (06 R129) -/

/-- The fields of a lesson header word. -/
structure Header where
  count : Nat
  round : Nat
  recclass : Nat
  sides : Nat
  xtop : Nat
  vtop : Nat
  check : Nat
deriving DecidableEq, Repr

/-- The header fields of a word. -/
def Header.ofWord (w : Nat) : Header :=
  { count := bits w 63 55, round := bits w 54 52, recclass := bits w 51 50, sides := bits w 49 48,
    xtop := bits w 47 42, vtop := bits w 41 36, check := bits w 31 0 }

/-- The field checks of 06 R129 and R130 that the partition root makes. -/
def Header.ok (w : Nat) : Bool :=
  let h := Header.ofWord w
  1 ≤ h.count && h.count ≤ 256 && h.round ≤ 4 && h.sides ≤ 1 && h.xtop ≤ 31 && h.vtop ≤ 32 && bits w 35 32 = 0

/-- The instructions that count as scratch instructions under R130: 11 R232, `park` (10 R221), `qpush` and `qpop`
(12 R278). -/
def isScratch (p : Nat) : Bool :=
  (0xA0 ≤ p && p ≤ 0xAA) || p = 0xB0 || p = 0xB1 || p = 0xB3 || p = 0x97 || p = 0xE7 || p = 0xE8

/-- The causes of R133 that a word shows in a lesson: 9 (R130), 11 (R130) and 12 (R131), with the word at index `idx`. -/
def lessonCauses (h : Header) (idx w : Nat) : List IllegalCause :=
  let p := bits w 63 56
  let pair : List (Option RegClass × Nat) :=
    if isWideCas p w then [(some .x, bits w 43 38 + 1)] else []
  let tgt : Int := (idx : Int) + signed 20 (bits w 19 0)
  (if (regFields p w ++ pair).any (fun x => match x.1 with
      | some .x => x.2 < 33 && h.xtop < x.2
      | some .v => x.2 < 32 && h.vtop ≤ x.2
      | _ => false) then [.aboveTop] else []) ++
  (if isScratch p && h.sides = 0 then [.noSide] else []) ++
  (if (p = 0x20 || p = 0x22 || (p = 0x21 && bits w 37 32 = 0)) && !(0 ≤ tgt && tgt ≤ (h.count : Int))
    then [.target] else [])

/-- The cause recorded: the lowest of those that apply (06 R133). -/
def lowestCause : List IllegalCause → Option IllegalCause
  | [] => none
  | c :: cs =>
    match lowestCause cs with
    | none => some c
    | some d => if d.code < c.code then some d else some c

/-! ## Words to instructions -/

/-- The type of a word's type field; a reserved code never reaches this (cause 3). -/
def tyOf (w : Nat) : Ty := (Ty.ofCode (bits w 48 44)).getD .i32

/-- A field of a word as a number below its size. -/
def fin (n : Nat) (v : Nat) (h : 0 < n := by decide) : Fin n := ⟨v % n, Nat.mod_lt _ h⟩

/-- The R-format fields of a word. -/
def RForm.ofWord (w : Nat) : RForm :=
  { mask := fin 8 (bits w 55 53), neg := bit w 52, la := bit w 51, lb := bit w 50, lc := bit w 49, ty := tyOf w,
    d := fin 64 (bits w 43 38), a := fin 64 (bits w 37 32), b := fin 64 (bits w 31 26), c := fin 64 (bits w 25 20),
    fn := fin 1048576 (bits w 19 0) }

/-- The I-format fields of a word. -/
def IForm.ofWord (w : Nat) : IForm :=
  { mask := fin 8 (bits w 55 53), neg := bit w 52, la := bit w 51, ty := tyOf w,
    d := fin 64 (bits w 43 38), a := fin 64 (bits w 37 32), imm := fin 4294967296 (bits w 31 0) }

/-- The M-format fields of a word. -/
def MForm.ofWord (w : Nat) : MForm :=
  { mask := fin 8 (bits w 55 53), neg := bit w 52, la := bit w 51, lb := bit w 50, ty := tyOf w,
    d := fin 64 (bits w 43 38), a := fin 64 (bits w 37 32), off := fin 4294967296 (bits w 31 0) }

/-- The L-format fields of a word. -/
def LForm.ofWord (w : Nat) : LForm :=
  { la := bit w 51, lb := bit w 50, ty := tyOf w, a := fin 64 (bits w 37 32), b := fin 64 (bits w 31 26),
    cond := fin 8 (bits w 25 23), ctr := fin 4 (bits w 22 21), off := fin 1048576 (bits w 19 0) }

/-- The Q-format fields of a word. -/
def QForm.ofWord (w : Nat) : QForm :=
  { mask := fin 8 (bits w 55 53), neg := bit w 52, la := bit w 51, lb := bit w 50, ty := tyOf w,
    d := fin 64 (bits w 43 38), a := fin 64 (bits w 37 32), b := fin 64 (bits w 31 26),
    comb := fin 16 (bits w 25 22), dir := bit w 21, ord := bit w 20, fn := fin 1048576 (bits w 19 0) }

/-- The Z-format fields of a word. -/
def ZForm.ofWord (w : Nat) : ZForm :=
  { la := bit w 51, d := fin 64 (bits w 43 38), a := fin 64 (bits w 37 32), code := fin 65536 (bits w 15 0) }

/-- The instruction of a word whose fields are taken as they stand. -/
def rawDecode (w : Nat) : Option Instr :=
  let p := bits w 63 56
  match fmtOf p with
  | some .r => ofPrimaryR p (RForm.ofWord w)
  | some .i => ofPrimaryI p (IForm.ofWord w)
  | some .m => ofPrimaryM p (MForm.ofWord w)
  | some .l => ofPrimaryL p (LForm.ofWord w)
  | some .q => ofPrimaryQ p (QForm.ofWord w)
  | some .z => ofPrimaryZ p (ZForm.ofWord w)
  | none => none

/-- Decode one instruction word: an instruction, or the lowest cause that it shows by itself. -/
def decode (w : Nat) : Except IllegalCause Instr :=
  match lowestCause (staticCauses w) with
  | some c => .error c
  | none =>
    match rawDecode w with
    | some i => .ok i
    | none => .error .primary

/-- A little-endian word of bytes (00 R7). -/
def wordOfBytes : List Byte → Nat
  | [] => 0
  | b :: bs => b.toNat + 256 * wordOfBytes bs

/-- The `n` little-endian bytes of a word (00 R7). -/
def bytesOfWord : Nat → Nat → List Byte
  | 0, _ => []
  | n + 1, w => BitVec.ofNat 8 w :: bytesOfWord n (w / 256)

/-- Decode the bytes of an instruction: eight, little-endian, at byte offset 8i of the lesson buffer (06 R121). -/
def decodeBytes (bs : List Byte) : Except IllegalCause Instr :=
  if bs.length < 8 then .error .primary else decode (wordOfBytes (bs.take 8))

/-! ## Instructions to words -/

/-- The common high fields of a word (06 R121). -/
def packHigh (p mask : Nat) (neg la lb lc : Bool) (ty : Ty) : Nat :=
  p * 2 ^ 56 + mask * 2 ^ 53 + bitNat neg * 2 ^ 52 + bitNat la * 2 ^ 51 + bitNat lb * 2 ^ 50 + bitNat lc * 2 ^ 49 +
  ty.code * 2 ^ 44

/-- The word of a primary opcode and its fields (06 R121, R126). -/
def Form.word (p : Nat) : Form → Nat
  | .r f => packHigh p f.mask f.neg f.la f.lb f.lc f.ty +
      f.d * 2 ^ 38 + f.a * 2 ^ 32 + f.b * 2 ^ 26 + f.c * 2 ^ 20 + f.fn
  | .i f => packHigh p f.mask f.neg f.la false false f.ty + f.d * 2 ^ 38 + f.a * 2 ^ 32 + f.imm
  | .m f => packHigh p f.mask f.neg f.la f.lb false f.ty + f.d * 2 ^ 38 + f.a * 2 ^ 32 + f.off
  | .l f => packHigh p 0 false f.la f.lb false f.ty +
      f.a * 2 ^ 32 + f.b * 2 ^ 26 + f.cond * 2 ^ 23 + f.ctr * 2 ^ 21 + f.off
  | .q f => packHigh p f.mask f.neg f.la f.lb false f.ty +
      f.d * 2 ^ 38 + f.a * 2 ^ 32 + f.b * 2 ^ 26 + f.comb * 2 ^ 22 + bitNat f.dir * 2 ^ 21 + bitNat f.ord * 2 ^ 20 + f.fn
  | .z f => packHigh p 0 false f.la false false .i32 + f.d * 2 ^ 38 + f.a * 2 ^ 32 + f.code

/-- The instruction word of a lesson instruction; an event of the device has none. -/
def encode (i : Instr) : Option Nat :=
  match i.parts with
  | some (p, f) => some (f.word p)
  | none => none

/-- The instruction that the decoder reads from a table row's word: `nbits` is 64 for a lesson instruction, and the
word is laid out as its eight little-endian bytes. -/
def decodeTableWord (nbits w : Nat) : Option Instr :=
  if nbits > 64 then none else
  match decodeBytes (bytesOfWord 8 (w % 2 ^ 64)) with
  | .ok i => some i
  | .error _ => none

end Sys2Proof
end

