-- ==== Sys2Proof/Machine/Numbers.lean ====
section
/-!
DEFINITION. Machine/Numbers.lean: number formats, rounding, saturation and exact arithmetic (04 R84 to R101), the
special functions (08 R183) and the combination of the tree (10 R212). Values are exact fractions; each result is
rounded once.
-/

namespace Sys2Proof.Machine

/-! ## Exact values -/

/-- An exact value with a sign that a zero keeps: ± num / den, with den positive. -/
structure Frac where
  neg : Bool
  num : Nat
  den : Nat
deriving DecidableEq, Repr

/-- A floating-point datum: a NaN, an infinity or an exact finite value. -/
inductive Fp where
  | nan
  | inf (neg : Bool)
  | fin (r : Frac)
deriving DecidableEq, Repr

namespace Frac

/-- The fraction of an integer; zero is +0. -/
def ofInt (i : Int) : Frac := { neg := decide (i < 0), num := i.natAbs, den := 1 }

/-- ± n · 2^e. -/
def scaled (neg : Bool) (n : Nat) (e : Int) : Frac :=
  if 0 ≤ e then { neg, num := n * 2 ^ e.toNat, den := 1 } else { neg, num := n, den := 2 ^ (-e).toNat }

/-- The opposite value. -/
def opp (a : Frac) : Frac := { a with neg := !a.neg }

/-- The magnitude. -/
def abs (a : Frac) : Frac := { a with neg := false }

/-- The signed numerator. -/
def snum (a : Frac) : Int := if a.neg then -(a.num : Int) else a.num

/-- The exact sum. A sum of zero is +0 unless both operands are −0 (04 R96). -/
def add (a b : Frac) : Frac :=
  let n : Int := a.snum * b.den + b.snum * a.den
  if n = 0 then { neg := a.num = 0 && b.num = 0 && a.neg && b.neg, num := 0, den := 1 }
  else { neg := decide (n < 0), num := n.natAbs, den := a.den * b.den }

/-- The exact product, whose sign is the product of the signs. -/
def mul (a b : Frac) : Frac := { neg := a.neg != b.neg, num := a.num * b.num, den := a.den * b.den }

/-- The exact quotient by a nonzero value. -/
def div (a b : Frac) : Frac := { neg := a.neg != b.neg, num := a.num * b.den, den := a.den * b.num }

/-- a < b by value, zeros equal. -/
def lt (a b : Frac) : Bool := decide (a.snum * b.den < b.snum * a.den)

/-- Equal values, zeros equal. -/
def eqv (a b : Frac) : Bool := decide (a.snum * b.den = b.snum * a.den)

/-- The largest e with 2^e ≤ num / den, for a nonzero value. -/
def log2Floor (a : Frac) : Int :=
  let e : Int := (Nat.log2 a.num : Int) - (Nat.log2 a.den : Int)
  let ge : Bool := if 0 ≤ e then decide (a.den * 2 ^ e.toNat ≤ a.num) else decide (a.den ≤ a.num * 2 ^ (-e).toNat)
  if ge then e else e - 1

end Frac

/-! ## Rounding (04 R92, R93) -/

/-- The rounding modes of R92. -/
inductive Mode where
  | rne | rna | rtz | rdn | rup
deriving DecidableEq, Repr

/-- The mode of a header code; 5 to 7 fail the header's check. -/
def Mode.ofCode : Nat → Mode
  | 1 => .rna | 2 => .rtz | 3 => .rdn | 4 => .rup | _ => .rne

/-- Whether a magnitude n + rem/d (0 < rem < d or 0) rounds away from zero. -/
def roundsUp (mode : Mode) (neg : Bool) (n rem d : Nat) : Bool :=
  if rem = 0 then false else
  match mode with
  | .rne => 2 * rem > d || (2 * rem = d && n % 2 = 1)
  | .rna => 2 * rem ≥ d
  | .rtz => false
  | .rdn => neg
  | .rup => !neg

/-- The magnitude of a fraction in units of 2^q, rounded in a mode. -/
def roundUnits (mode : Mode) (a : Frac) (q : Int) : Nat :=
  let num := if q < 0 then a.num * 2 ^ (-q).toNat else a.num
  let den := if 0 ≤ q then a.den * 2 ^ q.toNat else a.den
  let n := num / den
  if roundsUp mode a.neg n (num % den) den then n + 1 else n

/-! ## Formats (04 R84, R85) -/

/-- A floating-point format: exponent and mantissa widths, bias, and whether the all-ones exponent is reserved for
infinities and NaNs (e4m3 and e2m1 have none). -/
structure FFmt where
  ebits : Nat
  mbits : Nat
  bias : Nat
  ieee : Bool
deriving DecidableEq, Repr

/-- The format of a floating-point type; e2m1 is the element alone (R88). -/
def FFmt.ofTy : Ty → FFmt
  | .bf16 => ⟨8, 7, 127, true⟩
  | .f16 => ⟨5, 10, 15, true⟩
  | .e4m3 => ⟨4, 3, 7, false⟩
  | .e5m2 => ⟨5, 2, 15, true⟩
  | .e2m1 => ⟨2, 1, 1, false⟩
  | _ => ⟨8, 23, 127, true⟩

/-- The f32 format. -/
def f32Fmt : FFmt := FFmt.ofTy .f32

/-- The largest finite magnitude code. -/
def FFmt.maxCode (f : FFmt) : Nat :=
  if f.ieee then (2 ^ f.ebits - 1) * 2 ^ f.mbits - 1 else 2 ^ (f.ebits + f.mbits) - 1

/-- The infinity's magnitude code. -/
def FFmt.infCode (f : FFmt) : Nat := (2 ^ f.ebits - 1) * 2 ^ f.mbits

/-- The sign bit's weight. -/
def FFmt.signBit (f : FFmt) : Nat := 2 ^ (f.ebits + f.mbits)

/-- The canonical NaN (R84): the quiet bit and no sign, but 0x80 for e4m3 and 0x7E for e5m2. -/
def FFmt.nanCode (f : FFmt) : Nat :=
  if f.ieee then f.infCode + 2 ^ (f.mbits - 1) else f.signBit

/-- The value of a magnitude code that is finite (R84). -/
def FFmt.magnitude (f : FFmt) (neg : Bool) (code : Nat) : Frac :=
  let e := code / 2 ^ f.mbits
  let m := code % 2 ^ f.mbits
  if e = 0 then Frac.scaled neg m (1 - (f.bias : Int) - f.mbits)
  else Frac.scaled neg (2 ^ f.mbits + m) ((e : Int) - f.bias - f.mbits)

/-- The datum of a code of a format (R84 to R86, R88). -/
def decodeFp (t : Ty) (code : Nat) : Fp :=
  let f := FFmt.ofTy t
  let c := code % f.signBit
  let neg := decide (code / f.signBit % 2 = 1)
  if f.ieee then
    if c > f.infCode then .nan else if c = f.infCode then .inf neg else .fin (f.magnitude neg c)
  else if t = .e4m3 ∧ c = 0 ∧ neg then .nan
  else .fin (f.magnitude neg c)

/-- The magnitude code of a finite value rounded in a mode, with no limit: it may pass the largest finite code. -/
def FFmt.roundMag (f : FFmt) (mode : Mode) (a : Frac) : Nat :=
  if a.num = 0 then 0 else
  let e := max a.log2Floor (1 - (f.bias : Int))
  let n := roundUnits mode a (e - f.mbits)
  ((e + f.bias - 1).toNat) * 2 ^ f.mbits + n

/-- A signed code; e4m3 and e2m1 write every zero as +0 (R94, R98). -/
def FFmt.withSign (f : FFmt) (neg : Bool) (mag : Nat) : Nat :=
  if neg && (f.ieee || mag ≠ 0) then f.signBit + mag else mag

/-- An arithmetic result: rounded to nearest-even, overflow to an infinity, NaN canonical (R93, R96). -/
def roundFp (t : Ty) : Fp → Nat
  | .nan => (FFmt.ofTy t).nanCode
  | .inf neg => (FFmt.ofTy t).withSign neg (FFmt.ofTy t).infCode
  | .fin a =>
    let f := FFmt.ofTy t
    let m := f.roundMag .rne a
    f.withSign a.neg (if m > f.maxCode then f.infCode else m)

/-- A narrowing conversion to a floating-point format in a mode (R94). -/
def narrowFp (t : Ty) (mode : Mode) : Fp → Nat
  | .nan => (FFmt.ofTy t).nanCode
  | .inf neg =>
    let f := FFmt.ofTy t
    f.withSign neg (if f.ieee then f.infCode else f.maxCode)
  | .fin a =>
    let f := FFmt.ofTy t
    let m := f.roundMag mode a
    if m ≤ f.maxCode then f.withSign a.neg m
    else if t = .e5m2 then
      let toInf := match mode with
        | .rne | .rna => true
        | .rtz => false
        | .rdn => a.neg
        | .rup => !a.neg
      f.withSign a.neg (if toInf then f.infCode else f.maxCode)
    else if t = .f32 then f.withSign a.neg f.infCode
    else f.withSign a.neg f.maxCode

/-! ## Exact operations on data (04 R96) -/

namespace Fp

/-- The sum: ∞ − ∞ is invalid. -/
def add : Fp → Fp → Fp
  | .nan, _ | _, .nan => .nan
  | .inf a, .inf b => if a = b then .inf a else .nan
  | .inf a, .fin _ => .inf a
  | .fin _, .inf b => .inf b
  | .fin a, .fin b => .fin (a.add b)

/-- The opposite. -/
def opp : Fp → Fp
  | .nan => .nan
  | .inf a => .inf (!a)
  | .fin a => .fin a.opp

/-- The product: 0 × ∞ is invalid. -/
def mul : Fp → Fp → Fp
  | .nan, _ | _, .nan => .nan
  | .inf a, .inf b => .inf (a != b)
  | .inf a, .fin b => if b.num = 0 then .nan else .inf (a != b.neg)
  | .fin a, .inf b => if a.num = 0 then .nan else .inf (a.neg != b)
  | .fin a, .fin b => .fin (a.mul b)

/-- a × b + c, exact before the one rounding; a product 0 × ∞ is a NaN whatever c is (08 R171). -/
def fma (a b c : Fp) : Fp := (a.mul b).add c

/-- a is below b, with −0 below +0; neither is a NaN. -/
def below : Fp → Fp → Bool
  | .nan, _ | _, .nan => false
  | .inf a, .inf b => a && !b
  | .inf a, .fin _ => a
  | .fin _, .inf b => !b
  | .fin a, .fin b => a.lt b || (a.eqv b && a.num = 0 && a.neg && !b.neg)

/-- The lesser; any NaN gives NaN (R96). -/
def min : Fp → Fp → Fp
  | .nan, _ | _, .nan => .nan
  | a, b => if b.below a then b else a

/-- The greater; any NaN gives NaN (R96). -/
def max : Fp → Fp → Fp
  | .nan, _ | _, .nan => .nan
  | a, b => if a.below b then b else a

/-- a < b in the order of comparisons, where +0 equals −0; false on a NaN (08 R172). -/
def lt : Fp → Fp → Bool
  | .nan, _ | _, .nan => false
  | .inf a, .inf b => a && !b
  | .inf a, .fin _ => a
  | .fin _, .inf b => !b
  | .fin a, .fin b => a.lt b

/-- Equality of comparisons, where +0 equals −0; false on a NaN (08 R172). -/
def eqv : Fp → Fp → Bool
  | .inf a, .inf b => a = b
  | .fin a, .fin b => a.eqv b
  | _, _ => false

/-- Whether the datum is a NaN. -/
def isNan : Fp → Bool
  | .nan => true
  | _ => false

end Fp

/-! ## Integers -/

/-- The width of a type in bits; e2m1 elements have 4 (04 R84, R87). -/
def Ty.width : Ty → Nat
  | .i32 | .n32 | .f32 => 32
  | .i16 | .n16 | .bf16 | .f16 => 16
  | .i8 | .n8 | .e4m3 | .e5m2 => 8
  | .i64 | .n64 | .f32pair => 64
  | .e2m1 => 4

/-- A signed integer type. -/
def Ty.isSigned : Ty → Bool
  | .i64 | .i32 | .i16 | .i8 => true
  | _ => false

/-- A floating-point type. -/
def Ty.isFloat : Ty → Bool
  | .f32 | .bf16 | .f16 | .e4m3 | .e5m2 | .e2m1 | .f32pair => true
  | _ => false

/-- The low bits of a source read as a value of an integer type (07 R143). -/
def readInt (t : Ty) (w : Nat) : Int :=
  if Ty.isSigned t then signed (Ty.width t) w else ((w % 2 ^ Ty.width t : Nat) : Int)

/-- A result modulo 2^w, sign- or zero-extended to `n` bits (07 R143; 08 R164). -/
def writeInt (t : Ty) (n : Nat) (v : Int) : Nat :=
  let m := (v % (2 ^ Ty.width t : Nat)).toNat
  if Ty.isSigned t ∧ m ≥ 2 ^ (Ty.width t - 1) then m + 2 ^ n - 2 ^ Ty.width t else m

/-- The least value of an integer type. -/
def minInt (t : Ty) : Int := if Ty.isSigned t then -((2 ^ (Ty.width t - 1) : Nat) : Int) else 0

/-- The greatest value of an integer type. -/
def maxInt (t : Ty) : Int :=
  if Ty.isSigned t then ((2 ^ (Ty.width t - 1) : Nat) : Int) - 1 else ((2 ^ Ty.width t : Nat) : Int) - 1

/-- Saturation to an integer type's range (04 R95). -/
def saturate (t : Ty) (v : Int) : Int := max (minInt t) (min (maxInt t) v)

/-- A finite value rounded to an integer in a mode (04 R95). -/
def roundToInt (mode : Mode) (a : Frac) : Int :=
  let n := roundUnits mode a 0
  if a.neg then -(n : Int) else n

/-- Signed division truncates toward zero, with the cases of 07 R146 decided apart. -/
def divide (t : Ty) (a b : Int) : Int × Int :=
  if b = 0 then (if Ty.isSigned t then -1 else maxInt t, a)
  else if Ty.isSigned t ∧ a = minInt t ∧ b = -1 then (minInt t, 0)
  else (a.tdiv b, a - (a.tdiv b) * b)

/-! ## Conversions (04 R93 to R95; 08 R180) -/

/-- A lane read as a datum of a type. -/
inductive Datum where
  | int (v : Int)
  | fp (v : Fp)
deriving DecidableEq, Repr

/-- The datum of the low bits of a lane (08 R164). -/
def readDatum (t : Ty) (w : Nat) : Datum :=
  if Ty.isFloat t then .fp (decodeFp t (w % 2 ^ Ty.width t)) else .int (readInt t w)

/-- A datum converted to a type in a mode, as the bits of a 32-bit lane (R93 to R95). -/
def convertDatum (mode : Mode) (dst : Ty) : Datum → Nat
  | .int v => if Ty.isFloat dst then narrowFp dst mode (.fin (Frac.ofInt v)) else writeInt dst 32 (saturate dst v)
  | .fp v =>
    if Ty.isFloat dst then narrowFp dst mode v
    else match v with
      | .nan => 0
      | .inf neg => writeInt dst 32 (if neg then minInt dst else maxInt dst)
      | .fin a => writeInt dst 32 (saturate dst (roundToInt mode a))

/-- One lane converted from a type to another (08 R180). -/
def convertLane (mode : Mode) (src dst : Ty) (w : Nat) : Nat := convertDatum mode dst (readDatum src w)

/-! ## f32 arithmetic on bits -/

/-- The datum of f32 bits. -/
def f32 (w : Nat) : Fp := decodeFp .f32 (w % 2 ^ 32)

/-- f32 bits of an exact datum, rounded once to nearest-even. -/
def f32Bits (v : Fp) : Nat := roundFp .f32 v

/-! ## Square root and fixed-point series -/

/-- The integer square root, bit by bit from bit `k` down. -/
def isqrtFrom (n : Nat) : Nat → Nat → Nat
  | 0, r => if (r + 1) * (r + 1) ≤ n then r + 1 else r
  | k + 1, r => isqrtFrom n k (if (r + 2 ^ (k + 1)) * (r + 2 ^ (k + 1)) ≤ n then r + 2 ^ (k + 1) else r)

/-- The integer square root. -/
def isqrt (n : Nat) : Nat := isqrtFrom n (Nat.log2 n / 2 + 1) 0

/-- The number of fraction bits of the fixed-point series. -/
def fixBits : Nat := 512

/-- The Taylor series of e^r − 1 from term `k`, for a fixed-point r in [0, 1). -/
def expSeries (r : Nat) : Nat → Nat → Nat → Nat
  | 0, _, _ => 0
  | fuel + 1, k, term =>
    let t := term * r / 2 ^ fixBits / k
    t + expSeries r fuel (k + 1) t

/-- e^r for a fixed-point r in [0, 1). -/
def expFix (r : Nat) : Nat := 2 ^ fixBits + expSeries r 120 1 (2 ^ fixBits)

/-- The series of atanh z, term by term, for a fixed-point z. -/
def atanhSeries (z2 : Nat) : Nat → Nat → Nat → Nat
  | 0, _, _ => 0
  | fuel + 1, k, pow => pow / k + atanhSeries z2 fuel (k + 2) (pow * z2 / 2 ^ fixBits)

/-- ln((1 + z)/(1 − z)) for a fixed-point z in [0, 1/3]. -/
def logRatioFix (z : Nat) : Nat := 2 * atanhSeries (z * z / 2 ^ fixBits) 180 1 z

/-- ln 2 in fixed point. -/
def ln2Fix : Nat := logRatioFix (2 ^ fixBits / 3)

/-- 2^y for a fixed-point y = whole + frac, as an exact fraction of its fixed-point approximation. -/
def exp2Frac (whole : Int) (frac : Nat) : Frac :=
  Frac.scaled false (expFix (frac * ln2Fix / 2 ^ fixBits)) (whole - fixBits)

/-- Fixed point of a finite value, rounded toward −∞. -/
def toFix (a : Frac) : Int := (a.snum * (2 ^ fixBits : Nat)).fdiv a.den

/-- e^a of a finite value of magnitude at most 200. -/
def expFrac (a : Frac) : Frac :=
  let y : Int := (toFix a * (2 ^ fixBits : Nat)).fdiv ln2Fix
  exp2Frac (y.fdiv (2 ^ fixBits : Nat)) (y.emod (2 ^ fixBits : Nat)).toNat

/-- ln(1 + t) in fixed point, for a fixed-point t in [0, 1]. -/
def log1pFix (t : Nat) : Nat := logRatioFix (t * 2 ^ fixBits / (2 * 2 ^ fixBits + t))

/-- log₂(1 + t) in fixed point. -/
def log2p1Fix (t : Nat) : Nat := log1pFix t * 2 ^ fixBits / ln2Fix

/-- A fixed-point value as a fraction. -/
def ofFix (v : Int) : Frac := { neg := decide (v < 0), num := v.natAbs, den := 2 ^ fixBits }

/-! ## Special functions (08 R183) -/

/-- 2^x, exact for an integer x. -/
def exp2Fp : Fp → Fp
  | .nan => .nan
  | .inf true => .fin (Frac.ofInt 0)
  | .inf false => .inf false
  | .fin a =>
    if Frac.lt (Frac.ofInt 200) a then .inf false
    else if Frac.lt a (Frac.ofInt (-200)) then .fin (Frac.ofInt 0)
    else if a.num % a.den = 0 then .fin (Frac.scaled false 1 (a.snum / a.den))
    else
      let y := toFix a
      .fin (exp2Frac (y.fdiv (2 ^ fixBits : Nat)) (y.emod (2 ^ fixBits : Nat)).toNat)

/-- log₂ x, exact for a power of two. -/
def log2Fp : Fp → Fp
  | .nan => .nan
  | .inf true => .nan
  | .inf false => .inf false
  | .fin a =>
    if a.num = 0 then .inf true else if a.neg then .nan else
    let e := a.log2Floor
    let m := a.mul (Frac.scaled false 1 (-e))
    if m.num = m.den then .fin (Frac.ofInt e)
    else
      let t := (m.num - m.den) * 2 ^ fixBits / m.den
      .fin (ofFix (e * (2 ^ fixBits : Nat) + log2p1Fix t))

/-- 1/x. -/
def rcpFp : Fp → Fp
  | .nan => .nan
  | .inf neg => .fin { neg, num := 0, den := 1 }
  | .fin a => if a.num = 0 then .inf a.neg else .fin { neg := a.neg, num := a.den, den := a.num }

/-- 1/√x, by an integer square root with a sticky bit. -/
def rsqrtFp : Fp → Fp
  | .nan => .nan
  | .inf true => .nan
  | .inf false => .fin (Frac.ofInt 0)
  | .fin a =>
    if a.num = 0 then .inf a.neg else if a.neg then .nan else
    let n := a.den * 2 ^ 600 / a.num
    let y := isqrt n
    if y * y = n ∧ a.den * 2 ^ 600 % a.num = 0 then .fin (Frac.scaled false y (-300))
    else .fin (Frac.scaled false (2 * y + 1) (-301))

/-- 1/(1 + e^(−x)). -/
def sigmFp : Fp → Fp
  | .nan => .nan
  | .inf true => .fin (Frac.ofInt 0)
  | .inf false => .fin (Frac.ofInt 1)
  | .fin a =>
    if Frac.lt (Frac.ofInt 200) a.abs then .fin (Frac.ofInt (if a.neg then 0 else 1)) else
    let e := expFrac a.abs.opp
    let one : Frac := Frac.ofInt 1
    if a.neg then .fin (e.div (one.add e)) else .fin (one.div (one.add e))

/-- tanh x; a zero keeps its sign. -/
def tanhFp : Fp → Fp
  | .nan => .nan
  | .inf neg => .fin { neg, num := 1, den := 1 }
  | .fin a =>
    if a.num = 0 then .fin a
    else if Frac.lt (Frac.ofInt 100) a.abs then .fin { neg := a.neg, num := 1, den := 1 } else
    let e := expFrac (Frac.mul (Frac.ofInt (-2)) a.abs)
    let one : Frac := Frac.ofInt 1
    .fin { (one.add e.opp).div (one.add e) with neg := a.neg }

/-- ln(1 + e^x). -/
def softpFp : Fp → Fp
  | .nan => .nan
  | .inf true => .fin (Frac.ofInt 0)
  | .inf false => .inf false
  | .fin a =>
    if Frac.lt (Frac.ofInt 200) a.abs then .fin (if a.neg then Frac.ofInt 0 else a) else
    let l := ofFix (log1pFix (toFix (expFrac a.abs.opp)).toNat)
    if a.neg then .fin l else .fin (a.abs.add l)

/-! ## Combiners (10 R212) -/

/-- log₂(2^a + 2^b), correctly rounded (R212, code 8). -/
def lseFp : Fp → Fp → Fp
  | .nan, _ | _, .nan => .nan
  | .inf false, _ | _, .inf false => .inf false
  | .inf true, b => b
  | a, .inf true => a
  | .fin a, .fin b =>
    let hi := if a.lt b then b else a
    let lo := if a.lt b then a else b
    let d := lo.add hi.opp
    if d.num = 0 then .fin (hi.add (Frac.ofInt 1))
    else if Frac.lt d (Frac.ofInt (-400)) then .fin (if hi.num = 0 then Frac.ofInt 0 else hi)
    else
      let y := toFix d
      let t := (toFix (exp2Frac (y.fdiv (2 ^ fixBits : Nat)) (y.emod (2 ^ fixBits : Nat)).toNat)).toNat
      .fin (hi.add (ofFix (log2p1Fix t)))

/-- a ⊕ b of a combiner code on 32-bit lanes of a type (R212); an affine pair is combined by `affineJoin`. -/
def combine (comb : Nat) (t : Ty) (a b : Nat) : Nat :=
  if t = .f32 then
    match comb with
    | 0 => f32Bits ((f32 a).add (f32 b))
    | 1 => f32Bits ((f32 a).mul (f32 b))
    | 2 => f32Bits ((f32 a).max (f32 b))
    | 3 => f32Bits ((f32 a).min (f32 b))
    | _ => f32Bits (lseFp (f32 a) (f32 b))
  else
    match comb with
    | 0 => writeInt t 32 (readInt t a + readInt t b)
    | 1 => writeInt t 32 (readInt t a * readInt t b)
    | 2 => writeInt t 32 (max (readInt t a) (readInt t b))
    | 3 => writeInt t 32 (min (readInt t a) (readInt t b))
    | 4 => a &&& b
    | 5 => a ||| b
    | _ => a ^^^ b

/-- The identity of a combiner (R212). -/
def identity (comb : Nat) (t : Ty) : Nat :=
  if t = .f32 then
    match comb with
    | 0 => 0
    | 1 => 0x3F800000
    | 3 => 0x7F800000
    | _ => 0xFF800000
  else
    match comb with
    | 0 => 0
    | 1 => 1
    | 2 => writeInt t 32 (minInt t)
    | 3 => writeInt t 32 (maxInt t)
    | 4 => 0xFFFFFFFF
    | _ => 0

/-- (a₁, b₁) ⊕ (a₂, b₂) = (a₂ × a₁, a₂ × b₁ + b₂) on f32 pairs (R212, code 7). -/
def affineJoin (p q : Nat × Nat) : Nat × Nat :=
  (f32Bits ((f32 q.1).mul (f32 p.1)), f32Bits (Fp.fma (f32 q.1) (f32 p.2) (f32 q.2)))

/-- The identity pair (1.0, +0). -/
def affineIdentity : Nat × Nat := (0x3F800000, 0)

/-! ## The canonical association order (04 R102, R103) -/

/-- Join of two positions, either of which may be absent. -/
def joinWith {α : Type} (op : α → α → α) : Option α → Option α → Option α
  | none, b => b
  | a, none => a
  | some a, some b => some (op a b)

/-- block(lo, 2^k) over positions given as a list of present values (R102). -/
def block {α : Type} (op : α → α → α) (v : List (Option α)) : Nat → Nat → Option α
  | 0, lo => (v[lo]?).join
  | k + 1, lo => joinWith op (block op v k lo) (block op v k (lo + 2 ^ k))

/-- The exponent of P, the least power of two with P ≥ n. -/
def log2Ceil (n : Nat) : Nat := if n ≤ 1 then 0 else Nat.log2 (n - 1) + 1

/-- The bits of j from bit `k - 1` down, as blocks taken left to right: prefix(j) of R102. -/
def prefixFrom {α : Type} (op : α → α → α) (v : List (Option α)) (j : Nat) : Nat → Nat → Option α → Option α
  | 0, _, acc => acc
  | k + 1, lo, acc =>
    if j / 2 ^ k % 2 = 1 then prefixFrom op v j k (lo + 2 ^ k) (joinWith op acc (block op v k lo))
    else prefixFrom op v j k lo acc

/-- prefix(j): positions 0 … j−1 (R102). -/
def prefixOf {α : Type} (op : α → α → α) (v : List (Option α)) (j : Nat) : Option α :=
  prefixFrom op v j (log2Ceil v.length + 1) 0 none

/-- The suffix of positions lo … P−1 with P = 2^kP: the block at lo of the largest size dividing lo, then the rest,
joined from the last block to the first (R102). -/
def suffixFrom {α : Type} (op : α → α → α) (v : List (Option α)) (kP : Nat) : Nat → Nat → Option α
  | 0, _ => none
  | fuel + 1, lo =>
    if 2 ^ kP ≤ lo then none else
    let k := if lo = 0 then kP else (List.range kP).foldl (fun best i => if lo % 2 ^ (i + 1) = 0 then i + 1 else best) 0
    joinWith op (block op v k lo) (suffixFrom op v kP fuel (lo + 2 ^ k))

/-- suffix(j): positions j … P−1 (R102). -/
def suffixOf {α : Type} (op : α → α → α) (v : List (Option α)) (j : Nat) : Option α :=
  suffixFrom op v (log2Ceil v.length) (log2Ceil v.length + 1) j

/-- The reduction block(0, P) (R103). -/
def reduceOf {α : Type} (op : α → α → α) (v : List (Option α)) : Option α := block op v (log2Ceil v.length) 0

/-- The cavity at position i (R103). -/
def cavityOf {α : Type} (op : α → α → α) (v : List (Option α)) (i : Nat) : Option α :=
  joinWith op (prefixOf op v i) (suffixOf op v (i + 1))

/-! ## E2M1 scales and quantisation (04 R89, R90, R97 to R99) -/

/-- The value of an E3M5 scale byte; 0xFF is the group NaN (R89). -/
def scaleValue (s : Nat) : Option Frac :=
  if s = 0xFF then none
  else if s < 0x20 then some { neg := false, num := s, den := 128 }
  else some (Frac.scaled false (32 + s % 32) ((s / 32 : Nat) - 3 - 5 : Int))

/-- Element × scale × band, exact; NaN under a group NaN (R90). A band of NaN or infinity follows R96. -/
def e2m1Value (code scale band : Nat) : Fp :=
  match scaleValue scale with
  | none => .nan
  | some s => ((decodeFp .e2m1 code).mul (.fin s)).mul (decodeFp .bf16 band)

/-- The least bf16 code whose value is at least a positive fraction (rounding toward +∞, R97). -/
def bandOf (amax : Frac) : Nat :=
  max 1 (min (FFmt.ofTy .bf16).maxCode ((FFmt.ofTy .bf16).roundMag .rup { amax with neg := false, den := amax.den * 186 }))

/-- The least E3M5 scale byte whose value is at least a positive ratio; 0xFE above 31 (R98). -/
def scaleOf (ratio : Frac) : Nat :=
  if Frac.lt (Frac.ofInt 31) ratio then 0xFE else
  let e := max ratio.log2Floor (-2)
  let n := roundUnits .rup ratio (e - 5)
  max 1 (((e + 2).toNat) * 32 + n)

/-- One element of a group quantised against s × b in a mode, saturated at ±6, zeros as +0 (R98). -/
def quantElement (mode : Mode) (v : Fp) (s b : Frac) : Nat :=
  match v with
  | .nan => 0
  | .inf neg => if neg then 0xF else 0x7
  | .fin a =>
    let f := FFmt.ofTy .e2m1
    f.withSign a.neg (min f.maxCode (f.roundMag mode (a.div (s.mul b))))

/-- The finite magnitude of a datum. -/
def finiteMag : Fp → Option Frac
  | .fin a => some a.abs
  | _ => none

/-- The largest finite magnitude of a list, 0 when it has none (R97, R98). -/
def amaxOf (vs : List Fp) : Frac :=
  vs.foldl (fun m v => match finiteMag v with
    | some a => if m.lt a then a else m
    | none => m) (Frac.ofInt 0)

/-- Quantise one group of eight against a band value: the scale byte and the element codes (R98). -/
def quantGroup (mode : Mode) (band : Frac) (vs : List Fp) : Nat × List Nat :=
  if vs.any Fp.isNan then (0xFF, vs.map fun _ => 0)
  else
    let amax := amaxOf vs
    let hasInf := vs.any fun v => match v with | .inf _ => true | _ => false
    if amax.num = 0 then
      if hasInf then (0xFE, vs.map fun v => match v with | .inf neg => if neg then 0xF else 0x7 | _ => 0)
      else (0x00, vs.map fun _ => 0)
    else
      let s := scaleOf (amax.div ((Frac.ofInt 6).mul band))
      let sv := (scaleValue s).getD (Frac.ofInt 1)
      (s, vs.map fun v => quantElement mode v sv band)

/-- a ranks above b by magnitude (R99): NaN above every number, then absolute value; equal ranks go to the lower
index, which the caller keeps as the earlier element. -/
def outranks : Fp → Fp → Bool
  | .nan, .nan => false
  | .nan, _ => true
  | _, .nan => false
  | .inf _, .inf _ => false
  | .inf _, .fin _ => true
  | .fin _, .inf _ => false
  | .fin a, .fin b => b.abs.lt a.abs

end Sys2Proof.Machine
end

