-- ==== Sys2Proof/Machine/Flags.lean ====
section
/-!
DEFINITION. Machine/Flags.lean: the condition codes. The device has no status flags: no operation sets one (04 R86;
07 R143; 08 R167). What other machines keep in flags is here the result of a comparison under a condition code, of
branches (06 R127), of `cmpset` (07 R147) and of `vcmp` (08 R172).
-/

namespace Sys2Proof.Machine

/-- The condition of an L-format code on values read by their type: 0 ne, 1 eq, 2 lt, 3 ge (06 R127). -/
def branchHolds (cond : Nat) (a b : Int) : Bool :=
  match cond with
  | 0 => a ≠ b
  | 1 => a = b
  | 2 => a < b
  | _ => b ≤ a

/-- The condition codes of `cmpset` and `vcmp` on integers: 0 eq, 1 ne, 2 lt, 3 ge, 4 le, 5 gt (07 R147). -/
def intHolds (cond : Nat) (a b : Int) : Bool :=
  match cond with
  | 0 => a = b
  | 1 => a ≠ b
  | 2 => a < b
  | 3 => b ≤ a
  | 4 => a ≤ b
  | _ => b < a

/-- The same codes on f32: +0 equals −0; a NaN makes ne true and every other condition false (08 R172). -/
def fpHolds (cond : Nat) (a b : Fp) : Bool :=
  if a.isNan || b.isNan then cond = 1 else
  match cond with
  | 0 => a.eqv b
  | 1 => !a.eqv b
  | 2 => a.lt b
  | 3 => b.lt a || a.eqv b
  | 4 => a.lt b || a.eqv b
  | _ => b.lt a

/-- A condition on two lanes of a type. -/
def laneHolds (cond : Nat) (t : Ty) (a b : Nat) : Bool :=
  if t = .f32 then fpHolds cond (f32 a) (f32 b) else intHolds cond (readInt t a) (readInt t b)

end Sys2Proof.Machine
end

