-- ==== Sys2Proof/Config.lean ====
section
/-!
DEFINITION. Config.lean: the values that the spec leaves to a device or leaves open. Each is a constant with no body, so
that nothing can be proved of its value; a claim about it holds whatever it is (log 3).
-/

namespace Sys2Proof.Config

/-- The place, among operations that reach an engine or the hub in one clk, of the `n`-th arrival (12 R261, R280: the
order is not defined). -/
opaque arrivalTie : Nat → Nat

/-- The clk, counted from its issue, at which the `n`-th far read is performed (11 R245: which clk between issue and
arrival is not defined). -/
opaque farReadDelay : Nat → Nat

/-- Which of several writes to one byte, or which of a source's old and new byte, the `n`-th unordered copy leaves
(11 R248: not defined). -/
opaque copyChoice : Nat → Bool

/-- What a discard, the `n`-th free value, leaves in the byte at an address of scratch that the discarded instance had written
(02 R51: not defined). -/
opaque discardedByte : Nat → Nat → BitVec 8

/-- What the `n`-th standard application leaves in accumulator a3, slot w3 and ring 15 of a cell, by a place of these (13 R302:
their contents are not defined, nor is which of them it writes). -/
opaque standardLeaves : Nat → Nat → Nat

/-- The running time, in clk, of a standard lesson of an operator number on a segment of some seats (13 R302: the image
of a standard lesson is not architecture). -/
opaque standardTime : Nat → Nat → Nat

/-- The number of instruction words of a standard lesson of an operator number (13 R302: not architecture). -/
opaque standardLength : Nat → Nat

/-- The stepping that configuration word 0 reads (12 R281). -/
opaque stepping : BitVec 16

/-- The newest and oldest version of each negotiated format, 0 to 3, that the device offers (27 R417). -/
opaque offeredMax : Nat → BitVec 16
/-- See `offeredMax`. -/
opaque offeredMin : Nat → BitVec 16

/-- The power in watts that the module draws at the `n`-th sample, and the energy since power-on in joules and the
temperatures that telemetry reads (26 R411, 27 R419). -/
opaque modulePower : Nat → Nat
/-- See `modulePower`. -/
opaque moduleEnergy : Nat → Nat
/-- See `modulePower`. -/
opaque moduleTemperature : Nat → Nat

/-- Whether a signature over a digest is good under the device's verification key (26 R404, R408). -/
opaque signatureGood : List Byte → List Byte → Bool

/-- The debug level that the `n`-th presented token names, 1 observe or 2 intrusive, and whether it verifies under the key that the
lifecycle asks for (26 R408: a token's form is not stated). -/
opaque token : Nat → Nat × Bool

/-- Bytes that the device's identity key signs or that its certificates hold, of a kind and a nonce (26 R407). -/
opaque identityBytes : Nat → Nat → List Byte

/-- The bytes that a peer device sends back for the `n`-th read, or the datum it holds for the `n`-th combination
(22: another device's memory). -/
opaque peerBytes : Nat → List Byte

/-- Whether the destination device of the `n`-th peer command has no window that takes it (22 R369: another device's state). -/
opaque peerRefuses : Nat → Bool

/-- Whether the members' layouts of the `n`-th collective agree (21 R362), the time that its `k`-th step takes (R364), and
the coordinate of a member that is lost (R368). -/
opaque peersAgree : Nat → Bool
/-- See `peersAgree`. -/
opaque stepTime : Nat → Nat
/-- See `peersAgree`. -/
opaque lostMember : Nat → Nat
/-- Whether the digest that a peer sends with a transfer of the `n`-th step differs from its bytes' (21 R366). -/
opaque digestDiffers : Nat → Bool

/-- The start clk, and the end clk where no expression has finished or ended, in the completion record of a record that starts
no launch (23 R376; 25 R402: not stated), by the record's position. -/
opaque noStart : Nat → BitVec 64
/-- See `noStart`. -/
opaque noEnd : Nat → BitVec 64

/-- Byte `k` of the value, at place `p`, of an operand that the `n`-th reverse reads although nothing recorded it, or of a
contribution that a context's own adjoint operator gives (19 R345, R352: not stated). -/
opaque reverseByte : Nat → Nat → Nat → BitVec 8

/-- Byte `k` of the producer words, ring states and weight-entry states that the `n`-th eviction writes (23 R381: their layout in
the eviction area is not stated). -/
opaque evictByte : Nat → Nat → BitVec 8

/-- The number and the formats that training the link of a plane takes, and whether the link trains (27 R415, R418). -/
opaque linkTraining : Nat → Nat × Nat × Bool

end Sys2Proof.Config
end

