-- ==== Sys2Proof/Machine/State.lean ====
section
/-!
DEFINITION. Machine/State.lean: everything the spec gives the machine, as plain data, and the state right after reset.
The comment of a field names the rule that gives it; INVENTORY.md lists them all with their reset values.
-/

namespace Sys2Proof.Machine

/-- Data by number, in rising order of the number, no number twice. -/
abbrev Assoc (α : Type) := List (Nat × α)

/-- Memory: bytes by address in canonical form, addresses strictly rising and no byte 0 listed; an unlisted byte reads 0
(log 2). -/
abbrev Memory := List Host.Cell

/-! ## A lesson instance -/

/-- An entry of the loop stack (07, "Zero-overhead loops"). -/
structure LoopEntry where
  ctr : Nat
  start : Nat
  stop : Nat
deriving DecidableEq, Repr

/-- The architectural registers of an instance (01 R13, 02 R49), the loop stack (07) and the freed flags of R124. -/
structure Regs where
  x : Vector Word 32
  v : Vector VecVal 32
  k : Vector (BitVec 16) 8
  lc : Vector Lane 3
  loops : List LoopEntry
  freedX : BitVec 32
  freedV : BitVec 32
  freedK : BitVec 8
deriving DecidableEq, Repr

/-- What an instance sees of its place: the special registers of 01 R22 at its start, and where it stands. -/
structure Place where
  ctx : Nat
  slot : Nat
  cell : Nat
  seat : Nat
  seglen : Nat
  seg : Nat
  launch : Nat
  opnum : Nat
  cellcount : Nat
  part : Nat
  symbol : Word
  nest : Nat
deriving DecidableEq, Repr

/-- The state of a weight entry and its data (09 R189). -/
structure WEntry where
  valid : Bool
  comp : Bool
  ty : Ty
  band : BitVec 16
  source : Nat
  data : List Byte
deriving DecidableEq, Repr

/-- The hidden producer word of a header (19 R346). -/
inductive Producer where
  | none
  | produced (entry : Nat)
  | opaqueTile
deriving DecidableEq, Repr

/-- A ring's state once initialised (11 R240); its free count is entries − filled. -/
structure Ring where
  base : Nat
  size : Nat
  entries : Nat
  head : Nat
  tail : Nat
  filled : Nat
deriving DecidableEq, Repr

/-- A staged header write (02 R51, 06 R142): fields written, by header index. -/
structure HdrDelta where
  index : Nat
  alloc : Option Word
  freed : Bool
  band : Option (BitVec 16)
  shape : Option Word
  clearDirty : Bool
  setDirty : Bool
  producer : Option Producer
deriving DecidableEq, Repr

/-- An operand of a copybook entry before commit (19 R344): its flag, its tile, and for a save the place of its copy in
the segment's save stage. -/
structure CbOperand where
  flag : Nat
  handle : Nat
  save : Option Nat
  low : Nat
deriving DecidableEq, Repr

/-- A staged copybook entry (19 R343): word 0 without its sequence number, its operands, and a mark's tag. -/
structure CbEntry where
  word0 : Word
  ops : List CbOperand
  raw : Word
  lane : Nat
  cell : Nat
  seat : Nat
  opnum : Nat
  dest : Option Nat
  hasOpaque : Bool
deriving DecidableEq, Repr

/-- One end of a copy stream (11 R247): endpoint, run and the dimensions' counts and strides. -/
structure Stream where
  endpoint : Word
  run : Nat
  dims : List (Nat × Int)
deriving DecidableEq, Repr

/-- A copy descriptor (11 R247) with the control word's fields, as its command carries it. -/
structure Desc where
  ctl : Word
  src : Stream
  dst : Stream
deriving DecidableEq, Repr

/-- A staged far effect of an instance (02 R51), in issue order. -/
inductive StagedFar where
  /-- `fst`: lease entry, offset, width in bytes, value, stream (11 R245, R257) -/
  | fst (entry off width : Nat) (value : Word) (stream : Nat)
  /-- a far or peer copy command; `red` for `copyred` -/
  | copy (red : Bool) (d : Desc) (stream : Nat)
  /-- `tsend`: counter, threshold and descriptor (11 R256) -/
  | tsend (ctr thr : Nat) (d : Desc) (stream : Nat)
  | ctrset (ctr : Nat) (value : Lane) (stream : Nat)
  | ctradd (ctr : Nat) (value : Lane) (stream : Nat)
  /-- `syscall`: the marker record's words 1 to 4 (12 R279, 23 R422) -/
  | syscall (words : List Word)
  | evsig (event : Nat)
  | cfgwr (sel : Nat) (value : Word)
  /-- a park record: its far address and its words (10 R227) -/
  | park (addr : Nat) (words : List Word)
  /-- the bytes that the standard operator `store` writes, at their checked address (13 R297) -/
  | stored (addr : Nat) (bytes : List Byte)
  /-- a fence on staged writes (11 R258 [2]); it is no write -/
  | barrier
deriving DecidableEq, Repr

/-- Everything an instance holds until its segment commits (02 R51, R53; 12 R275, R276; 19 R347). -/
structure Stage where
  syms : Assoc Word
  far : List StagedFar
  hdrs : List HdrDelta
  acc : Assoc Lane
  weights : Assoc WEntry
  lane : List CbEntry
  saves : List (List Byte)
  marks : List (Nat × Nat)
  grads : Memory
  gradGranules : List Nat
  /-- headers of other cells that `settle` frees at commit: cell and index (09 R204) -/
  remoteFrees : List (Nat × Nat)
  /-- headers of other cells that `reverse` allocates at commit: cell and header write (20 R355) -/
  remoteAllocs : List (Nat × HdrDelta)
  /-- bytes of scratch that it has written at once: cell, address and how many; what a discard leaves in them is not defined -/
  wrote : List (Nat × Nat × Nat)
deriving DecidableEq, Repr

/-- What an instance waits for, when it waits for an event. -/
inductive Wait where
  | sweep
  | farRead (req : Nat)
  | syncOp (op : Nat)
  | segBell
  | queueOp (op : Nat)
  | gang
  | unfold
  | commit
deriving DecidableEq, Repr

/-- Whether an instance issues. -/
inductive Status where
  | running
  | waiting (w : Wait)
  /-- halted by `brk` under intrusive debug (12 R279) -/
  | halted
  /-- it has raised a trap in this clk, and ends with the clk (06 R134) -/
  | trapped
deriving DecidableEq, Repr

/-- A lesson instance (01 R13). -/
structure Inst where
  place : Place
  hdr : Header
  /-- which of the cell's two lesson buffers it runs from (01 R21) -/
  buf : Nat
  pc : Nat
  committed : Bool
  /-- it has executed `commit` or `done`, or its pc has reached n (10 R208) -/
  finished : Bool
  /-- `done` was the way it finished: it ends when the commit step completes (07 R160) -/
  ends : Bool
  status : Status
  /-- the clk of its next issue, none while it waits for an event -/
  wake : Option Nat
  regs : Regs
  /-- the clk at which each pending register is ready (01 R15), by class code × 64 + number -/
  busy : Assoc Nat
  stage : Stage
  /-- the output count declared by `need` (02 R53) -/
  declared : Option Nat
  /-- collectives issued (10 R208), and what the pending one brings: its word, its vector, its scalar -/
  colls : Nat
  collWord : Word
  collVec : VecVal
  collVal : Word
  /-- receive queues from the left and the right neighbour (10 R217), and vectors on their way -/
  rcvLeft : List VecVal
  rcvRight : List VecVal
  comingLeft : Nat
  comingRight : Nat
  /-- gang size while ganged (09 R195), and joining -/
  gang : Option Nat
  joining : Option Nat
  /-- current stream and next sequence numbers (11 R257) -/
  stream : Nat
  seqs : Assoc Nat
  /-- granule ranges of the tiles valid at its start (02 R52) -/
  prot : List (Nat × Nat)
  /-- the last far access released when a `bell` with rel = 1 was issued (12 R272) -/
  relMark : Option Nat
  /-- the clk at which the stall in progress began (07 R159) -/
  waitSince : Option Nat
  started : Nat
  issued : Nat
deriving DecidableEq, Repr

/-! ## A cell -/

/-- A lesson buffer: operator number, header word and instruction words (01 R21, 02 R45). -/
structure LessonBuf where
  opnum : Nat
  header : Nat
  words : List Nat
deriving DecidableEq, Repr

/-- An operation in the matrix unit (09 R194, R196). -/
structure MxOp where
  inst : Nat
  acc : Nat
  entry : Nat
  ty : Ty
  /-- accumulate from +0 (09 R193) -/
  zero : Bool
  /-- clk for latching and for a remote X tile before the first row -/
  extra : Nat
  issuedAt : Nat
  /-- the clk of its first row, once known (the limiter may delay it) -/
  first : Option Nat
  rows : Nat
  /-- it was issued behind another operation: it holds the queued place until its first row -/
  queued : Bool
  /-- a gang's operation, and for the head its X tile: header word 0, handle and granules as at issue -/
  gang : Bool
  xWord0 : Word
  xHandle : Nat
  xData : List Byte
deriving DecidableEq, Repr

/-- The state that a context keeps in a cell (01 R20, R21, R32; 06 R141; 09 R189; 11 R240; 12 R282; 19 R346). -/
structure CellCtx where
  hdrs : Assoc (Word × Word)
  prods : Assoc Producer
  rings : Assoc Ring
  acc : Assoc Lane
  weights : Assoc WEntry
  /-- the entry that the matrix unit has latched (09 R189) -/
  latched : Option Nat
  mx : List MxOp
  mxFree : Nat
  perf : Vector Word 8
  buf0 : Option LessonBuf
  buf1 : Option LessonBuf
  cur : Nat
  /-- the clk at which each bank of the side is next free (01 R18) -/
  banks : Vector Nat 4
deriving DecidableEq, Repr

/-! ## The row, segments and launches -/

/-- A seat of a row: its symbol word (02 R33), the launch that holds it, the segment it is bound to (R40), whether it is
frozen (03 R70), and the segment a reservation is for (R68). -/
structure SeatState where
  sym : Word
  launch : Nat
  busy : Option Nat
  frozen : Bool
  reserved : Option Nat
  /-- the application that opens here has met an uncorrectable error (24 R395) -/
  struck : Bool
deriving DecidableEq, Repr

/-- The phases of a bound segment (02 R46, R55, R57; 19 R349). -/
inductive SegPhase where
  | loading
  | running
  | waitingSeats
  | waitingLog
  /-- its commit step would begin but for frozen seats (03 R70) -/
  | waitingWave
  | committing
  | tail
deriving DecidableEq, Repr

/-- A bound segment (02 R38, R43 to R61). -/
structure Segment where
  ctx : Nat
  slot : Nat
  launch : Nat
  opnum : Nat
  /-- the cell of seat 0: instances stay in their cells (03 R69) -/
  openCell : Nat
  seglen : Nat
  /-- the seat that now holds the open (03 R69) -/
  openSeat : Nat
  level : Nat
  record : Bool
  /-- the symbol words at binding (10 R224) -/
  syms : List Word
  header : Nat
  words : List Nat
  /-- the latency of its memory copy (14 R307), its far address, and the load attempt -/
  memTime : Nat
  address : Nat
  attempt : Nat
  /-- beats of the image -/
  beats : Nat
  /-- the clk at which a seat that loads has checked its image, and the seats that exchange buffers -/
  loadAt : Assoc Nat
  loads : List Nat
  phase : SegPhase
  engaged : Bool
  /-- clean and failed reports (02 R46) -/
  clean : List Nat
  failed : Bool
  /-- sweeps completed, the offsets and total once known (02 R53) -/
  sweeps : Nat
  needStarted : Bool
  offsets : Option (List Nat)
  total : Nat
  unfolded : Bool
  /-- seats reserved for its growth (03 R68) -/
  granted : Bool
  /-- seats of park candidates whose record could not be written (03 R75) -/
  parkTried : List Nat
  /-- passes released by it and not yet handed on (12 R268) -/
  releases : List Nat
  /-- a standard operator, which runs as one rewrite (13 R302) -/
  standard : Bool
  result : Option (List Word)
deriving DecidableEq, Repr

/-- A range entry of the hub (24 R389). -/
structure Range where
  base : Nat
  length : Nat
  rd : Bool
  wr : Bool
  vbase : Nat
deriving DecidableEq, Repr

/-- How far a launch has come (23 R375 to R378, 24 R387, 02 R37). -/
inductive LaunchPhase where
  | queued
  | waitingUnit
  | setup
  | ready
  | started
  | placed
  | running
  | finishing
  | retired
deriving DecidableEq, Repr

/-- A copy of a lesson in a tree cell's cache (01 R28). -/
structure LessonCopy where
  opnum : Nat
  header : Nat
  words : List Nat
  /-- the clk at which the copy had passed the tree cell: it is held from then on -/
  heldAt : Nat
deriving DecidableEq, Repr

/-- A launch: its record, its place in its queue, its dependences and its lease (23 R375, R378; 24 R385, R389). -/
structure Launch where
  ctx : Nat
  slot : Nat
  queue : Nat
  pos : Nat
  record : List Word
  level : Nat
  phase : LaunchPhase
  deps : List Nat
  ranges : List Range
  setupBegan : Nat
  /-- virtual addresses of pages found not resident, as noticed (24 R388) -/
  pendingPages : List Nat
  startClk : Option Nat
  endClk : Nat
  status : Option Nat
  statusClk : Nat
  statusSeat : Nat
  firstCard : Nat
  /-- released far writes and commands that have not completed (11 R253) -/
  outstanding : Nat
  digest : Word
  /-- a status with which it completes nevertheless (21 R368) -/
  noted : Option Nat
deriving DecidableEq, Repr

/-- A park of the storage manager in progress, an unpark and a tidy copy (03 R75, R77, R80). -/
inductive Move where
  /-- the candidate's seats, the park area's address and the segment that needs seats -/
  | park (openSeat closeSeat addr requester : Nat)
  /-- the seat of the parked symbol and the symbols of its record -/
  | unpark (seat n : Nat)
  /-- the seat and the handle that it holds -/
  | tidy (seat old : Nat)
deriving DecidableEq, Repr

/-- What a planning step has planned, and the shift wave that follows it (03 R67 to R71): the moves from seat to seat, the
growing segments it serves, whether the wave has started and how long it takes, the storage moves that begin with it, and
the allowances that its end brings, by instance (10 R226). -/
structure Wave where
  moves : List (Nat × Nat)
  serves : List Nat
  started : Bool
  duration : Nat
  begins : List Move
  allow : List (Nat × Nat)
deriving DecidableEq, Repr

/-- A launch queue (23 R375, R377; 25 R397). A record waits with its position. -/
structure LQueue where
  die : List (Nat × List Word)
  ringHead : Nat
  ringCount : Nat
  base : Word
  size : Nat
  drops : Nat
  nextPos : Nat
  level : Nat
  /-- launches, fences and levels taken from the head and not yet retired, in order: position, launch or none -/
  pending : List (Nat × Option Nat)
  done : List (Nat × List Word)
deriving DecidableEq, Repr

/-- A pass (12 R266): its holder context, its release, its faulted flag and the operations that wait. -/
structure Pass where
  holder : Option Nat
  /-- a release is pending; it covers the context's far writes up to a number (R268) -/
  pending : Option Nat
  faulted : Bool
  waiters : List Nat
deriving DecidableEq, Repr

/-- A partition (01 R23, 02 R38, 23 R375 to R382, 27 R413, R414). -/
structure Part where
  cellcount : Nat
  clkBase : Nat
  running : Option Nat
  queues : Vector LQueue 4
  depUnit : List Nat
  sweeping : Bool
  sweepNo : Nat
  /-- ready applications that the sweep under way has found: open and close seats (02 R41) -/
  found : List (Nat × Nat)
  wave : Option Wave
  moves : List Move
  /-- launches that wait for their placement, in the order of their starts (03 R65) -/
  placing : List Nat
  /-- requests for an allowance: instance, allowance and the clk of arrival (10 R226) -/
  unfolds : List (Nat × Nat × Nat)
  /-- pre-emption: its step and the clk it began (23 R381) -/
  preempt : Option (Nat × Nat)
  incoming : Option Nat
  /-- the context that the switch under way evicts (23 R381) -/
  leaving : Option Nat
  turnStart : Nat
  /-- the clk at which the roll-call wave under way ends (17 R330) -/
  rollCall : Option Nat
  idleSince : Option Nat
  gated : Bool
  /-- the sweeps that hold tree buffers: segment, clk admitted (01 R26, R27) -/
  sweepsHeld : List (Nat × Nat)
  sweepsWaiting : List (Nat × Nat)
  /-- the passes, which the contexts of the partition share (12 R266) -/
  passes : Assoc Pass
deriving DecidableEq, Repr

/-! ## Contexts -/

/-- A record of the park area (10 R228). -/
structure ParkRec where
  addr : Nat
  bytes : Nat
  staged : Bool
  launch : Nat
  seg : Nat
  /-- written by the storage manager (03 R74), not by `park` -/
  manager : Bool
deriving DecidableEq, Repr

/-- An armed send with the range entries it has captured (11 R256, 22 R370). -/
structure Armed where
  ctr : Nat
  thr : Nat
  desc : Desc
  cell : Nat
  launch : Nat
  seg : Nat
  stream : Nat
  ranges : List Range
deriving DecidableEq, Repr

/-- A context's life (23 R373, R380). -/
inductive CtxState where
  | absent | resident | evicted | faulted
deriving DecidableEq, Repr

/-- What the roll-call counters of a context's tree cells have counted as sent: symbols, instances started, commands queued
and requests (17 R329). What they have counted as received is that less what is under way. -/
structure RollCount where
  symbols : Nat
  insts : Nat
  copies : Nat
  requests : Nat
deriving DecidableEq, Repr

/-- A context (23 R380 to R384 and the rules it gathers). -/
structure Ctx where
  blockAddr : Word
  cmdStatus : Word
  state : CtxState
  slot : Nat
  block : List Word
  home : Nat
  side : Nat
  row : Assoc SeatState
  counters : Assoc Lane
  events : Assoc Lane
  user : Assoc Word
  sync : Memory
  armed : List Armed
  reserved : Nat
  parks : List ParkRec
  queue6 : List (List Word)
  queue7 : List (List Word)
  /-- records that an uncommitted `qpop` holds: queue, instance, record -/
  held : List (Nat × Nat × List Word)
  suspended : Bool
  /-- it holds a physical side of its cells, the side `side` (23 R382) -/
  holds : Bool
  /-- its eviction area holds its state (23 R381) -/
  saved : Bool
  /-- a destroy or a reset of its counters waits for quiescence (23 R380) -/
  dying : Bool
  resetting : Bool
  roll : RollCount
  /-- the totals of the last roll-call wave, when it was clean (17 R330) -/
  lastWave : Option RollCount
  turnOut : Nat
  logWaiters : List Nat
  cells : Assoc CellCtx
deriving DecidableEq, Repr

/-! ## Engines and the hub -/

/-- An operation on its way to or at a synchronisation engine, or waiting there (12 R261). -/
structure SyncOp where
  inst : Nat
  seg : Nat
  ctx : Nat
  engine : Nat
  travel : Nat
  instr : Instr
  addr : Nat
  operand : Word
  operand2 : Word
  reply : Word
  /-- the sync trap that its reply brings, by cause (12 R283) -/
  trap : Option Nat
  /-- the clk at which its engine performs it, once it has arrived -/
  slot : Option Nat
  performed : Bool
deriving DecidableEq, Repr

/-- A generation of a bell of scope 1 or 2 (12 R270): its key, count and arrivals in order. -/
structure BellGen where
  key : Nat
  count : Nat
  arrivals : List Nat
deriving DecidableEq, Repr

/-- A released far write on its way to its controller, or to the counter file (11 R245, R251, R254; 24 R390). -/
inductive FarWork where
  | bytes (entry off : Nat) (data : List Byte)
  | physical (addr : Nat) (data : List Byte)
  | counter (set : Bool) (c : Nat) (value : Lane)
deriving DecidableEq, Repr

/-- A far write, by number: its ranges, the clk from its start to its performance, and the far accesses that must be
performed before it starts (11 R257, R258). -/
structure FarWrite where
  ctx : Nat
  launch : Nat
  seg : Nat
  /-- the operator number and the open's seat of its segment, for the report card -/
  opnum : Nat
  openSeat : Nat
  inst : Nat
  work : FarWork
  ranges : List Range
  time : Nat
  after : List Nat
  scheduled : Bool
deriving DecidableEq, Repr

/-- A far read in flight (11 R245): the clk at which it is performed and at which its value arrives; counted from its start
while it waits for the accesses before it in its stream (R257). -/
structure FarRead where
  inst : Nat
  pc : Nat
  instr : Instr
  entry : Nat
  off : Nat
  performAt : Nat
  arriveAt : Nat
  stream : Nat
  after : List Nat
  scheduled : Bool
  value : Option Word
deriving DecidableEq, Repr

/-- A copy command at an engine (11 R249 to R252). -/
structure Command where
  ctx : Nat
  launch : Nat
  seg : Nat
  /-- the operator number and the open's seat of its segment, for the report card -/
  opnum : Nat
  openSeat : Nat
  inst : Nat
  cell : Nat
  quarter : Nat
  engine : Nat
  red : Bool
  desc : Desc
  ranges : List Range
  stream : Nat
  after : List Nat
  /-- it has been released, or it is a fired send's -/
  released : Bool
  send : Bool
  readyAt : Nat
  running : Bool
  sourceRead : Bool
  /-- bytes read from the source so far, whether a poisoned granule was among them, and bytes written to a ring -/
  data : List Byte
  poisoned : Bool
  /-- its source met a lease fault after these bytes (24 R390) -/
  short : Bool
  filled : Nat
  cancelled : Bool
deriving DecidableEq, Repr

/-- A queue operation at the hub (12 R280). -/
structure QueueOp where
  inst : Nat
  ctx : Nat
  push : Bool
  queue : Nat
  record : List Word
  addr : Nat
  ok : Bool
deriving DecidableEq, Repr

/-- The current-slew limiter of a quarter (15 R308, R309; 26 R411, R412). -/
structure Limiter where
  ceiling : Nat
  /-- admitted units: context and logical cell -/
  admitted : List (Nat × Nat)
  /-- requests that wait: their units, lowest cell first, and the clk each is ready -/
  waiting : List (List (Nat × Nat) × Nat)
  /-- whether a step is in the agenda -/
  stepping : Bool
  unitLimit : Nat
  /-- units that stream filler rows in the step under way -/
  fillers : Nat
  fillerRows : Word
  addedClk : Word
deriving DecidableEq, Repr

/-- What a step of a collective does along its mesh axis (21 R361). A partial axis that is replicated afterwards takes two
steps, `reduceWhole` and `gatherWhole`. -/
inductive CollKind where
  | reduceScatter (dim : Nat)
  | reduceWhole
  | gatherWhole
  | allGather (dim : Nat)
  | slice (dim : Nat)
  | allToAll (src dst : Nat)
deriving DecidableEq, Repr

/-- A step of a collective: its mesh axis and what it does. -/
structure CollStep where
  axis : Nat
  kind : CollKind
deriving DecidableEq, Repr

/-- A collective that an `xchg` of this member runs (21 R358 to R368): the layout that both sides share, the local block and
its dimensions as they stand, the steps to go, the clk of the last beat, and a lost member's coordinate. -/
structure Collective where
  inst : Nat
  seg : Nat
  ctx : Nat
  launch : Nat
  level : Nat
  entry : Nat
  dest : Nat
  base : Nat
  mesh : List Nat
  coord : List Nat
  comb : Nat
  ty : Ty
  dims : List Nat
  data : List Byte
  steps : List CollStep
  /-- its number among the collectives of its context on this mesh (R362) -/
  number : Nat
  stepNo : Nat
  /-- a step is under way; it pauses between steps while its context is pre-empted (R364) -/
  stepping : Bool
  lastBeat : Nat
  lost : List Nat
deriving DecidableEq, Repr

/-! ## The device -/

/-- What the boot status register says of the boot (26 R403). -/
inductive Boot where
  | rom | waitingImage | verifying | firmware | halted
deriving DecidableEq, Repr

/-- The lifecycle (26 R408). -/
inductive Lifecycle where
  | blank | provisioned | deployed | returned
deriving DecidableEq, Repr

/-- The debug level, fixed at boot (26 R408). -/
inductive DebugLevel where
  | none | observe | intrusive
deriving DecidableEq, Repr

/-- The power states that the power command sets; idle-gated is a partition's (26 R409). -/
inductive Power where
  | active | retention | off
deriving DecidableEq, Repr

/-- A scale-up link: whether it is up, and the format that it trained (27 R415, R418). -/
structure Link where
  up : Bool
  format : Nat
deriving DecidableEq, Repr

/-- Telemetry: correctable and uncorrectable errors by store class, energy, temperature, fabric events and report-card
entries lost (27 R419). -/
structure Telemetry where
  correctable : Vector Word 7
  uncorrectable : Vector Word 7
  energy : Word
  temperature : Word
  fabric : Word
  lost : Word
deriving DecidableEq, Repr

/-- The SPDM responder's answer to the last request (26 R407). -/
inductive SpdmAnswer where
  | none
  | version (spdm : Nat)
  | capabilities
  | algorithms
  | digests (bytes : List Byte)
  | certificate (bytes : List Byte)
  | signed (nonce : Nat) (measurements : List (List Byte)) (signature : List Byte)
  | refused
deriving DecidableEq, Repr

/-- The device as a whole: grade and form (00 R1; 01 R11), boot, lifecycle, debug and power (26), partitions, formats,
links and telemetry (27), and the host port (23 R372, R373). -/
structure Device where
  lx36 : Bool
  isModule : Bool
  strips : Vector (BitVec 32) 4
  boot : Boot
  verifyCause : Nat
  lifecycle : Lifecycle
  debug : DebugLevel
  debugger : Bool
  /-- the level that a presented token names, until the boot reads it -/
  token : Option DebugLevel
  power : Power
  imageLength : Word
  imageBuffer : Memory
  flash : Memory
  flashLength : Nat
  /-- the running image: its highest host interface format, its svn and its digest -/
  hif : Nat
  svn : Nat
  digest : List Byte
  rollback : Nat
  identityKey : Bool
  firmwareSince : Nat
  cap : Word
  layout : Nat
  chosen : Word
  /-- a choice of formats stands (27 R417) -/
  choice : Bool
  number : Nat
  links : Vector Link 16
  live : Telemetry
  shown : Telemetry
  /-- the CXL.mem window in GiB at the top of HBM -/
  window : Nat
  /-- MSI-X vectors raised -/
  msix : BitVec 64
  nonce : Nat
  answer : SpdmAnswer
  /-- drop counts of the management and fleet pages, by slot × 2 + (q − 4) (25 R400) -/
  virtualDrops : Vector Nat 8
  /-- residency reports sent, last first: plane and words (27 R416) -/
  reports : List (Nat × List Word)
  /-- parked replies sent, last first: context and collective (21 R364) -/
  parkedReplies : List (Nat × Nat)
deriving DecidableEq, Repr

/-- An event of the agenda: its clk, the tie among the events of one clk, and the step. -/
structure Timed where
  at_ : Nat
  tie : Nat
  ev : Instr
deriving DecidableEq, Repr

/-- The machine. -/
structure State where
  clk : Nat
  /-- the model's own counters: of free values (log 3) and of numbers given to segments, launches and operations -/
  fresh : Nat
  ids : Nat
  /-- the instance whose word is being executed -/
  actor : Option Nat
  agenda : List Timed
  dev : Device
  mem : Memory
  poison : List Nat
  scr : Memory
  ctxs : Assoc Ctx
  parts : Assoc Part
  insts : Assoc Inst
  segs : Assoc Segment
  launches : Assoc Launch
  syncOps : Assoc SyncOp
  engineFree : Vector Nat 4
  baton : Nat × Nat
  batonQ : List (Nat × Nat)
  bells : List BellGen
  farWrites : Assoc FarWrite
  farReads : Assoc FarRead
  commands : Assoc Command
  queueOps : Assoc QueueOp
  limiters : Vector Limiter 4
  /-- lesson caches by tree cell, most recently used first (01 R28) -/
  caches : Assoc (List LessonCopy)
  colls : Assoc Collective
  /-- collectives bound so far, by context and mesh (21 R362) -/
  collCounts : List ((Nat × Nat × List Nat) × Nat)
  /-- the model's own: what ends with the current clk, instances that have raised a trap in it and launches that a status has
  ended in it (24 R392; log 49) -/
  trapped : List Nat
  ending : List Nat
deriving DecidableEq, Repr

/-! ## Reset -/

/-- Telemetry that has counted nothing. -/
def Telemetry.zero : Telemetry :=
  { correctable := Vector.replicate 7 0#64, uncorrectable := Vector.replicate 7 0#64, energy := 0#64, temperature := 0#64,
    fabric := 0#64, lost := 0#64 }

/-- A limiter after partition reset: its ceiling is 0 (15 R308; 27 R414), its unit limit the working cells (26 R411). -/
def Limiter.reset : Limiter :=
  { ceiling := 0, admitted := [], waiting := [], stepping := false, unitLimit := 2048, fillers := 0, fillerRows := 0#64,
    addedClk := 0#64 }

/-- The device at power-on: an LX-40 module, blank, with an empty flash slot, its ROM running (26 R403 to R409; log 6). -/
def Device.reset : Device :=
  { lx36 := false, isModule := true, strips := Vector.replicate 4 0xFFFFFFFF#32, boot := .rom, verifyCause := 0,
    lifecycle := .blank, debug := .none, debugger := false, token := none, power := .active, imageLength := 0#64,
    imageBuffer := [], flash := [], flashLength := 0, hif := 0, svn := 0, digest := [], rollback := 0, identityKey := false,
    firmwareSince := 0, cap := 2800#64, layout := 0, chosen := 0#64, choice := false, number := 0,
    links := Vector.replicate 16 { up := false, format := 0 }, live := Telemetry.zero, shown := Telemetry.zero, window := 0,
    msix := 0#64, nonce := 0, answer := .none, virtualDrops := Vector.replicate 8 0, reports := [],
    parkedReplies := [] }

/-- The machine right after power-on: nothing exists but the boot, which is about to begin (26 R405); memory lists nothing,
and the baton stands at engine 0 (log 6). -/
def State.reset : State :=
  { clk := 0, fresh := 0, ids := 0, actor := none, agenda := [{ at_ := 0, tie := 0, ev := .powerOnBoot }],
    dev := Device.reset, mem := [], poison := [], scr := [], ctxs := [], parts := [], insts := [], segs := [],
    launches := [], syncOps := [], engineFree := Vector.replicate 4 0, baton := (0, 0), batonQ := [], bells := [],
    farWrites := [], farReads := [], commands := [], queueOps := [], limiters := Vector.replicate 4 Limiter.reset, caches := [], colls := [],
    collCounts := [], trapped := [], ending := [] }

/-! ## How a step stops -/

/-- Faults of the model: the machine stops. -/
inductive Fault where
  /-- A far access is performed at an address that the spec says does not exist: beyond the 512 GB of HBM, the 1 TiB of the
  locker, or in the reserved space 3 (00 R5, 06 R136). Raised where a far access is performed. Safe. -/
  | noSuchFarAddress (addr : Nat)
deriving DecidableEq, Repr

/-- Refusals of the model. -/
inductive Refusal where
  /-- The row has no meaning yet. Raised by the dispatcher. Safe. -/
  | notModelled (mnemonic : String)
  /-- A lesson instruction is executed while no live instance issues it: a state that no step reaches, since `step` names
  the issuing instance before it executes a word. Raised by `issue`. Safe. -/
  | noIssuer
deriving DecidableEq, Repr

end Sys2Proof.Machine
end

