-- ==== Sys2Proof/Machine/Ops.lean ====
section
/-!
DEFINITION. Machine/Ops.lean: the named operations over the state: data by number, memory, the agenda, the places of the
tree and the corridors, the report card, discard, the end of an expression, and taking a trap (06 R134; 24 R392, R394).
-/

namespace Sys2Proof.Machine

/-! ## Data by number -/

/-- The datum of a number. -/
def lookupA {α : Type} : Assoc α → Nat → Option α
  | [], _ => none
  | (j, v) :: t, k => if j = k then some v else lookupA t k

/-- Set the datum of a number, keeping the rising order. -/
def putA {α : Type} : Assoc α → Nat → α → Assoc α
  | [], k, v => [(k, v)]
  | (j, w) :: t, k, v => if k < j then (k, v) :: (j, w) :: t else if k = j then (k, v) :: t else (j, w) :: putA t k v

/-- Drop the datum of a number. -/
def delA {α : Type} : Assoc α → Nat → Assoc α
  | [], _ => []
  | (j, w) :: t, k => if j = k then delA t k else (j, w) :: delA t k

/-- The datum of a number, or the default. -/
def getD {α : Type} (d : α) (m : Assoc α) (k : Nat) : α := (lookupA m k).getD d

/-- Set the datum of a number; the default is not listed. -/
def setD {α : Type} [DecidableEq α] (d : α) (m : Assoc α) (k : Nat) (v : α) : Assoc α :=
  if v = d then delA m k else putA m k v

/-- Numbers strictly rising. -/
def sortedA {α : Type} : Assoc α → Bool
  | [] => true
  | [_] => true
  | a :: b :: t => decide (a.1 < b.1) && sortedA (b :: t)

/-! ## Memory -/

/-- The canonical form: addresses strictly rising, no byte 0 listed (log 2). -/
def Memory.wf (m : Memory) : Bool := sortedA m && m.all (fun c => c.2 ≠ 0#8)

/-- The byte at an address; an unlisted byte reads 0. -/
def readByte (m : Memory) (a : Nat) : Byte := getD 0#8 m a

/-- Write one byte. -/
def writeByte (m : Memory) (a : Nat) (v : Byte) : Memory := setD 0#8 m a v

/-- `n` bytes from an address on. -/
def readBytes (m : Memory) (a : Nat) : Nat → List Byte
  | 0 => []
  | n + 1 => readByte m a :: readBytes m (a + 1) n

/-- Write bytes from an address on. -/
def writeBytes (m : Memory) (a : Nat) : List Byte → Memory
  | [] => m
  | b :: bs => writeBytes (writeByte m a b) (a + 1) bs

/-- A little-endian number of `n` bytes (00 R7). -/
def readNat (m : Memory) (a n : Nat) : Nat := wordOfBytes (readBytes m a n)

/-- Write a number as `n` little-endian bytes (00 R7). -/
def writeNat (m : Memory) (a n v : Nat) : Memory := writeBytes m a (bytesOfWord n v)

/-- `n` little-endian 64-bit words. -/
def readWords (m : Memory) (a : Nat) : Nat → List Word
  | 0 => []
  | n + 1 => BitVec.ofNat 64 (readNat m a 8) :: readWords m (a + 8) n

/-- Write 64-bit words. -/
def writeWords (m : Memory) (a : Nat) : List Word → Memory
  | [] => m
  | w :: ws => writeWords (writeNat m a 8 w.toNat) (a + 8) ws

/-! ## The far spaces (00 R5; 06 R136; 23 R373) -/

/-- The space of a 48-bit far address: 0 hbm, 1 locker, 2 host, 3 reserved. -/
def spaceOf (a : Nat) : Nat := bits a 47 46

/-- Whether bytes [a, a + n) exist: 512 GB of HBM, 1 TiB of locker, host memory of 46 address bits (00 R5). -/
def farExists (a n : Nat) : Bool :=
  let off := a % 2 ^ 46
  match spaceOf a with
  | 0 => off + n ≤ 512000000000
  | 1 => off + n ≤ 2 ^ 40
  | 2 => off + n ≤ 2 ^ 46
  | _ => false

/-- The first-granule latency of a space in the "Copy timing" table (11 R251). -/
def spaceLatency (a : Nat) : Nat :=
  match spaceOf a with
  | 0 => 400
  | 1 => 600
  | _ => 1500

/-! ## Parts of the state -/

/-- A cell that no lesson of its context has touched. -/
def CellCtx.empty : CellCtx :=
  { hdrs := [], prods := [], rings := [], acc := [], weights := [], latched := none, mx := [], mxFree := 0,
    perf := Vector.replicate 8 0#64, buf0 := none, buf1 := none, cur := 0, banks := Vector.replicate 4 0 }

/-- A context that does not exist. -/
def Ctx.absentCtx : Ctx :=
  { blockAddr := 0#64, cmdStatus := 0#64, state := .absent, slot := 0, block := [], home := 0, side := 0, row := [],
    counters := [], events := [], user := [], sync := [], armed := [], reserved := 0,
    parks := [], queue6 := [], queue7 := [], held := [], suspended := false,
    holds := false, saved := false, dying := false, resetting := false, roll := ⟨0, 0, 0, 0⟩, lastWave := none, turnOut := 0, logWaiters := [], cells := [] }

/-- An empty seat. -/
def SeatState.free : SeatState := { sym := 0#64, launch := 0, busy := none, frozen := false, reserved := none, struck := false }

/-- An invalid weight entry (09 R189). -/
def WEntry.invalid : WEntry := { valid := false, comp := false, ty := .bf16, band := 0x3F80#16, source := 0, data := [] }

/-- A free pass (12 R266). -/
def Pass.free : Pass := { holder := none, pending := none, faulted := false, waiters := [] }

/-- Nothing staged. -/
def Stage.empty : Stage :=
  { syms := [], far := [], hdrs := [], acc := [], weights := [], lane := [], saves := [], marks := [], grads := [],
    gradGranules := [], remoteFrees := [], remoteAllocs := [], wrote := [] }

/-- An empty launch queue (23 R375; 27 R414). -/
def LQueue.empty : LQueue :=
  { die := [], ringHead := 0, ringCount := 0, base := 0#64, size := 0, drops := 0, nextPos := 0, level := 0,
    pending := [], done := [] }

/-- A partition after its reset (27 R414). -/
def Part.empty (cellcount clk : Nat) : Part :=
  { cellcount, clkBase := clk, running := none, queues := Vector.replicate 4 LQueue.empty,
    depUnit := [], sweeping := false, sweepNo := 0, found := [], wave := none, moves := [], placing := [], unfolds := [],
    preempt := none, incoming := none, leaving := none, turnStart := clk, rollCall := none, idleSince := some clk, gated := false, sweepsHeld := [],
    sweepsWaiting := [], passes := [] }

/-- A context; one that was never created is absent. -/
def State.ctx (s : State) (c : Nat) : Ctx := getD Ctx.absentCtx s.ctxs c

/-- Set a context. -/
def State.setCtx (s : State) (c : Nat) (v : Ctx) : State := { s with ctxs := setD Ctx.absentCtx s.ctxs c v }

/-- Change a context. -/
def State.modCtx (s : State) (c : Nat) (f : Ctx → Ctx) : State := s.setCtx c (f (s.ctx c))

/-- A context's state in a cell. -/
def State.cell (s : State) (c cell : Nat) : CellCtx := getD CellCtx.empty (s.ctx c).cells cell

/-- Change a context's state in a cell. -/
def State.modCell (s : State) (c cell : Nat) (f : CellCtx → CellCtx) : State :=
  s.modCtx c fun x => { x with cells := setD CellCtx.empty x.cells cell (f (getD CellCtx.empty x.cells cell)) }

/-- An instance that lives. -/
def State.inst? (s : State) (i : Nat) : Option Inst := lookupA s.insts i

/-- Count a request of a context for roll call (17 R329). -/
def State.countRequest (s : State) (c : Nat) : State :=
  s.modCtx c fun x => { x with roll := { x.roll with requests := x.roll.requests + 1 } }

/-- Set an instance. -/
def State.setInst (s : State) (i : Nat) (v : Inst) : State := { s with insts := putA s.insts i v }

/-- Change an instance, if it lives. -/
def State.modInst (s : State) (i : Nat) (f : Inst → Inst) : State :=
  match s.inst? i with
  | some v => s.setInst i (f v)
  | none => s

/-- Change a segment, if it is bound. -/
def State.modSeg (s : State) (g : Nat) (f : Segment → Segment) : State :=
  match lookupA s.segs g with
  | some v => { s with segs := putA s.segs g (f v) }
  | none => s

/-- Change a launch. -/
def State.modLaunch (s : State) (l : Nat) (f : Launch → Launch) : State :=
  match lookupA s.launches l with
  | some v => { s with launches := putA s.launches l (f v) }
  | none => s

/-- A partition by its slot. -/
def State.part (s : State) (slot : Nat) : Part := getD (Part.empty 0 0) s.parts slot

/-- Change a partition that the layout has. -/
def State.modPart (s : State) (slot : Nat) (f : Part → Part) : State :=
  match lookupA s.parts slot with
  | some v => { s with parts := putA s.parts slot (f v) }
  | none => s

/-- A seat of a context's row. -/
def Ctx.seat (x : Ctx) (p : Nat) : SeatState := getD SeatState.free x.row p

/-- Set a seat of a row. -/
def Ctx.setSeat (x : Ctx) (p : Nat) (v : SeatState) : Ctx := { x with row := setD SeatState.free x.row p v }

/-- The instances of a segment, by number. -/
def State.segInsts (s : State) (g : Nat) : List (Nat × Inst) := s.insts.filter fun i => i.2.place.seg = g

/-- The instance of a seat of a segment. -/
def State.seatInst (s : State) (g seat : Nat) : Option (Nat × Inst) :=
  s.insts.find? fun i => i.2.place.seg = g && i.2.place.seat = seat

/-- A number of the model's own, and the state that has given it. -/
def State.newId (s : State) : Nat × State := (s.ids + 1, { s with ids := s.ids + 1 })

/-- The number of the next free value (log 3). -/
def State.newFree (s : State) : Nat × State := (s.fresh, { s with fresh := s.fresh + 1 })

/-! ## The agenda -/

/-- Put an event in its place: by clk, then tie, after those already there. -/
def insertTimed (t : Timed) : List Timed → List Timed
  | [] => [t]
  | u :: us => if t.at_ < u.at_ || (t.at_ = u.at_ && t.tie < u.tie) then t :: u :: us else u :: insertTimed t us

/-- Schedule an event at a clk. -/
def State.schedule (s : State) (at_ : Nat) (ev : Instr) : State :=
  { s with agenda := insertTimed { at_, tie := 0, ev } s.agenda }

/-- Schedule an event before the others of its clk. -/
def State.scheduleFirst (s : State) (at_ : Nat) (ev : Instr) : State :=
  { s with agenda := (s.agenda.filter fun t => t.at_ < at_) ++ { at_, tie := 0, ev } :: s.agenda.filter fun t => at_ ≤ t.at_ }

/-- Schedule an arrival whose place among arrivals of the same clk is not defined: a free value orders it (log 3). -/
def State.scheduleArrival (s : State) (at_ : Nat) (ev : Instr) : State :=
  { s with fresh := s.fresh + 1, agenda := insertTimed { at_, tie := Config.arrivalTie s.fresh, ev } s.agenda }

/-- Drop the events that a test holds of. -/
def State.unschedule (s : State) (p : Instr → Bool) : State := { s with agenda := s.agenda.filter fun t => !p t.ev }

/-- An idle partition that is gated leaves that state (26 R409): it is idle from now on. -/
def State.ungate (s : State) (slot : Nat) : State :=
  if (s.part slot).gated then
    (s.modPart slot fun p => { p with gated := false, idleSince := some s.clk }).schedule (s.clk + 330000) (.idleGateEntry slot)
  else s

/-! ## Places of cells (01 R9 to R12, R24, R25, R29, R30) -/

/-- Working cells per quarter (00 R1). -/
def State.perQuarter (s : State) : Nat := if s.dev.lx36 then 1792 else 2048

/-- The first device-wide cell of a partition slot (23 R373). -/
def State.firstCell (s : State) (slot : Nat) : Nat := slot * s.perQuarter

/-- The device-wide number of a partition's logical cell. -/
def State.devCell (s : State) (slot cell : Nat) : Nat := s.firstCell slot + cell

/-- The quarter of a device-wide cell. -/
def State.quarterOf (s : State) (dc : Nat) : Nat := dc / s.perQuarter

/-- The physical strip of the i-th active strip: the i-th set bit of the mask (01 R11). -/
def physStrip (mask : BitVec 32) (i : Nat) : Nat :=
  ((List.range 32).filter fun r => mask.getLsbD r).getD i 31

/-- The physical strip (corridor row) of a device-wide cell (01 R11, R29). -/
def State.rowOf (s : State) (dc : Nat) : Nat :=
  physStrip (s.dev.strips[s.quarterOf dc % 4]'(Nat.mod_lt _ (by decide))) (dc % s.perQuarter / 64)

/-- The bench of a cell within its strip (corridor column) (01 R12, R29). -/
def State.colOf (s : State) (dc : Nat) : Nat := dc % s.perQuarter % 64 / 8

/-- A cell's position in its quarter's tree, by physical strip. -/
def State.treePos (s : State) (dc : Nat) : Nat := s.rowOf dc * 64 + dc % s.perQuarter % 64

/-- The level of the lowest tree cell above both of two device-wide cells; 6 is the crown (01 R24, R25). -/
def State.treeLevel (s : State) (a b : Nat) : Nat :=
  if s.quarterOf a ≠ s.quarterOf b then 6 else
  let p := s.treePos a
  let q := s.treePos b
  if p / 8 = q / 8 then 1 else if p / 32 = q / 32 then 2 else if p / 128 = q / 128 then 3
  else if p / 512 = q / 512 then 4 else 5

/-- The time of a two-way sweep to a level (01 R25). -/
def twoWay (h : Nat) : Nat := if h ≥ 6 then 64 else 8 * h

/-- The time of a one-way sweep to a level (01 R25). -/
def oneWay (h : Nat) : Nat := if h ≥ 6 then 32 else 4 * h

/-- The level of a segment's highest used tree cell (01 R25). -/
def State.segLevel (s : State) (g : Segment) : Nat :=
  s.treeLevel (s.devCell g.slot g.openCell) (s.devCell g.slot (g.openCell + g.seglen - 1))

/-- The absolute difference. -/
def dist (a b : Nat) : Nat := if a < b then b - a else a - b

/-- The first-granule latency of a remote tile read between device-wide cells (01 R30). -/
def State.remoteLatency (s : State) (a b : Nat) : Nat :=
  if a = b then 5
  else if s.quarterOf a = s.quarterOf b then
    if s.rowOf a = s.rowOf b && s.colOf a = s.colOf b then 8
    else 8 + 2 * (dist (s.rowOf a) (s.rowOf b) + dist (s.colOf a) (s.colOf b))
  else 8 + 2 * s.rowOf a + 48 + 2 * s.rowOf b

/-- Copy engine e of a quarter: the corridor time between its router and a cell's (01 R29). -/
def State.enginePath (s : State) (quarter e dc : Nat) : Nat :=
  if s.quarterOf dc = quarter then 2 * (dist (2 * e) (s.rowOf dc) + dist 7 (s.colOf dc))
  else 2 * (2 * e) + 48 + 2 * s.rowOf dc

/-! ## Scratch (01 R16, R17; 23 R382) -/

/-- The key of a byte of a physical side of a device-wide cell. -/
def scrKey (dc side a : Nat) : Nat := (dc * 2 + side) * 65536 + a

/-- The key of a byte of a context's side in a logical cell. -/
def State.scrAddr (s : State) (c cell a : Nat) : Nat :=
  scrKey (s.devCell (s.ctx c).slot cell) (s.ctx c).side a

/-- The size of a side in bytes (01 R16). -/
def sideBytes : Nat := 40960

/-! ## Context block and words of a context (23 R380) -/

/-- A word of the context block as last read. -/
def Ctx.blockWord (x : Ctx) (i : Nat) : Nat := (x.block.getD i 0#64).toNat

/-- The sync window's length L (12 R260; 23 R380). -/
def Ctx.syncLen (x : Ctx) : Nat := 4096 * (bits (x.blockWord 0) 38 35 + 1)

/-- The pass count P (12 R266; 23 R380). -/
def Ctx.passCount (x : Ctx) : Nat := if bit (x.blockWord 0) 39 then bits (x.blockWord 0) 47 40 + 1 else 0

/-- The `rdclk` value of a partition (12 R279). -/
def State.rdclk (s : State) (slot : Nat) : Nat := s.clk - (s.part slot).clkBase

/-! ## The report card (24 R394) -/

/-- What a report-card entry says. -/
structure Card where
  status : Nat
  cause : Nat
  kind : Nat
  opnum : Nat
  openSeat : Nat
  word : Nat
  seat : Nat
  index : Nat
  addr : Nat
  launch : Nat
  bytes : Nat
deriving DecidableEq, Repr

/-- An entry with a status alone. -/
def Card.ofStatus (status kind : Nat) : Card :=
  { status, cause := 0, kind, opnum := 0, openSeat := 0, word := 0, seat := 0, index := 0, addr := 0, launch := 0, bytes := 0 }

/-- The eight words of an entry (24 R394). -/
def Card.words (k : Card) (c : Nat) (queue pos clk number : Nat) : List Word :=
  [BitVec.ofNat 64 (k.status * 2 ^ 48 + k.cause % 256 * 2 ^ 40 + k.kind * 2 ^ 32 + k.opnum % 65536 * 2 ^ 16 + k.openSeat % 65536),
   BitVec.ofNat 64 k.word,
   BitVec.ofNat 64 (k.seat % 65536 * 2 ^ 48 + k.index % 256 * 2 ^ 40),
   BitVec.ofNat 64 k.addr, BitVec.ofNat 64 pos, BitVec.ofNat 64 clk,
   BitVec.ofNat 64 (k.bytes % 2 ^ 32 * 2 ^ 32 + queue * 256 + c), BitVec.ofNat 64 number]

/-- Append an entry to a context's report card; a full ring drops it and counts it lost (24 R394). The ring's size is
checked to be one of R394's; the first number of a launch's entries is kept for its completion record. -/
def State.report (s : State) (c : Nat) (k : Card) : State :=
  let x := s.ctx c
  let base := x.blockWord 5 % 2 ^ 48
  let size := readNat s.mem base 8
  let head := readNat s.mem (base + 8) 8
  let tail := readNat s.mem (base + 16) 8
  let number := readNat s.mem (base + 32) 8
  let l := lookupA s.launches k.launch
  if size < 64 ∨ 65536 < size then s
  else if (tail + 2 ^ 64 - head) % 2 ^ 64 ≥ size then
    let lost := s.dev.live.lost + 1#64
    { s with mem := writeNat s.mem (base + 24) 8 (readNat s.mem (base + 24) 8 + 1), dev := { s.dev with live := { s.dev.live with lost } } }
  else
    let ws := k.words c ((l.map (·.queue)).getD 0) ((l.map (·.pos)).getD 0) (s.rdclk x.slot) number
    let m := writeWords s.mem (base + 64 + 64 * (tail % size)) ws
    let m := writeNat m (base + 16) 8 ((tail + 1) % 2 ^ 64)
    let m := writeNat m (base + 32) 8 (number + 1)
    { s with mem := m }.modLaunch k.launch fun v => if v.firstCard = 0 then { v with firstCard := number } else v

/-! ## Sweep buffers (01 R26, R27; 10 R211) -/

/-- Sizes of the ranges of tree cells by level, and of their children's ranges (01, "Tree cells per quarter"). -/
def levelSize : Nat → Nat
  | 1 => 8 | 2 => 32 | 3 => 128 | 4 => 512 | 5 => 2048 | _ => 8192

/-- The tree cells that a segment uses: those of which two or more children hold seats of it (01 R25), by level and
index. -/
def State.usedCells (s : State) (g : Segment) : List (Nat × Nat) :=
  let pos (c : Nat) : Nat := let dc := s.devCell g.slot c; s.quarterOf dc * 2048 + s.treePos dc
  let a := pos g.openCell
  let b := pos (g.openCell + g.seglen - 1)
  [1, 2, 3, 4, 5, 6].flatMap fun l =>
    let size := levelSize l
    let child := if l = 1 then 1 else levelSize (l - 1)
    ((List.range (b / size + 1 - a / size)).filterMap fun k =>
      let c := a / size + k
      let lo := max a (c * size)
      let hi := min b (c * size + size - 1)
      if lo / child ≠ hi / child then some (l, c) else none)

/-- A sweep's key: a segment's collective sweep or its need sweep. -/
def sweepKey (g : Nat) (need : Bool) : Nat := 2 * g + bitNat need

/-- Whether two used-cell lists with holders leave a buffer in every cell (each cell has two, 01 R26). -/
def buffersFree (used : List (Nat × Nat)) (held : List (List (Nat × Nat))) : Bool :=
  used.all fun c => (held.filter fun h => h.contains c).length < 2

/-- Insert a sweep in the order of its segment's open cell. -/
def insertByCell (s : State) (k : Nat) : List Nat → List Nat
  | [] => [k]
  | j :: js =>
    let cellOf (k : Nat) : Nat := ((lookupA s.segs (k / 2)).map (·.openCell)).getD 0
    if cellOf k < cellOf j then k :: j :: js else j :: insertByCell s k js

/-- The event that ends a sweep. -/
def State.sweepEvent (s : State) (k : Nat) : Instr :=
  if k % 2 = 1 then .needSweepComplete (k / 2)
  else .sweepResult (k / 2) (((lookupA s.segs (k / 2)).map (·.sweeps)).getD 0 + 1)

/-- Admit waiting sweeps of a partition to tree buffers: those admitted in this clk are placed again with the waiting
ones, leftmost segment first, so that the two leftmost are served (01 R27). An admitted sweep ends after its two-way time
(10 R211). -/
def State.admitSweeps (s : State) (slot : Nat) : State :=
  let p := s.part slot
  let old := p.sweepsHeld.filter fun h => h.2 ≠ s.clk
  let again := (p.sweepsHeld.filter fun h => h.2 = s.clk).map (·.1)
  let cands := (again ++ p.sweepsWaiting.map (·.1)).foldl (fun l k => insertByCell s k l) []
  let used (k : Nat) : List (Nat × Nat) := ((lookupA s.segs (k / 2)).map s.usedCells).getD []
  let r := cands.foldl (fun (acc : List (Nat × Nat) × List (Nat × Nat)) k =>
    if buffersFree (used k) ((old ++ acc.1).map fun h => used h.1) then (acc.1 ++ [(k, s.clk)], acc.2)
    else (acc.1, acc.2 ++ [(k, s.clk)])) (([], []) : List (Nat × Nat) × List (Nat × Nat))
  let waited := r.2.filter fun k => !(p.sweepsWaiting.map (·.1)).contains k.1
  let s := again.foldl (fun s k => s.unschedule fun e => e = s.sweepEvent k) s
  let s := s.modPart slot fun q => { q with sweepsHeld := old ++ r.1, sweepsWaiting := r.2 }
  let s := waited.foldl (fun s k =>
    (s.segInsts (k.1 / 2)).foldl (fun s i => s.modCell i.2.place.ctx i.2.place.cell fun x =>
      { x with perf := x.perf.set 5 (x.perf[5] + 1#64) }) s) s
  r.1.foldl (fun s k =>
    match lookupA s.segs (k.1 / 2) with
    | some g => s.schedule (s.clk + twoWay (s.segLevel g)) (s.sweepEvent k.1)
    | none => s) s

/-! ## Discard (02 R59) -/

/-- The seats of a launch or segment that a test picks, changed. -/
def Ctx.mapSeats (x : Ctx) (f : SeatState → SeatState) : Ctx :=
  { x with row := x.row.foldr (fun p m => if f p.2 = SeatState.free then m else (p.1, f p.2) :: m) [] }

/-- Put the records that the instances of a segment hold back as the oldest of their user queues (12 R280). -/
def Ctx.returnHeld (x : Ctx) (insts : List Nat) : Ctx :=
  let mine := x.held.filter fun h => insts.contains h.2.1
  { x with
    held := x.held.filter fun h => !insts.contains h.2.1
    queue6 := (mine.filter fun h => h.1 = 6).map (fun h => h.2.2) ++ x.queue6
    queue7 := (mine.filter fun h => h.1 = 7).map (fun h => h.2.2) ++ x.queue7 }

/-- While a pre-emption waits for what still runs, the partition looks again (23 R381). -/
def State.nudge (s : State) (slot : Nat) : State :=
  match (s.part slot).preempt with
  | some (3, _) => s.schedule s.clk (.rollCallWave slot)
  | _ => s

/-- Segments of a context that wait for a cell may load into it (02 R48): the load is tried again. -/
def State.wakeLoads (s : State) (ctx cell : Nat) : State :=
  (s.segs.filter fun g => g.2.ctx = ctx && g.2.phase = .loading && g.2.openCell ≤ cell && cell < g.2.openCell + g.2.seglen &&
      !g.2.clean.contains (cell - g.2.openCell)).foldl
    (fun s g => s.schedule s.clk (.lessonImageReceived g.1 (cell - g.2.openCell))) s

/-- A segment goes, when no instance of it is left: its seats cease to be busy. -/
def State.dropSegment (s : State) (g : Nat) : State :=
  match lookupA s.segs g with
  | none => s
  | some seg =>
    let s := s.modCtx seg.ctx fun x => x.mapSeats fun p => if p.busy = some g then { p with busy := none } else p
    ({ s with segs := delA s.segs g }.schedule s.clk (.completionRecordWrite seg.launch)).nudge seg.slot

/-- An instance of a committed segment ends: its slot is free; the segment goes with its last instance (07 R160). -/
def State.endTail (s : State) (id : Nat) (v : Inst) : State :=
  let s := { s with insts := delA s.insts id }
  let s := if (s.segInsts v.place.seg).isEmpty then s.dropSegment v.place.seg else s
  s.wakeLoads v.place.ctx v.place.cell

/-- What a discard leaves in the bytes of scratch that an instance wrote at once is not defined (02 R51): each holds a free value
(log 3). -/
def State.blurWrites (s : State) (v : Inst) : State :=
  if v.stage.wrote.isEmpty then s
  else { s with
    fresh := s.fresh + 1
    scr := v.stage.wrote.foldl (fun m r =>
      let a := s.scrAddr v.place.ctx r.1 r.2.1
      writeBytes m a ((List.range r.2.2).map fun k => Config.discardedByte s.fresh (a + k))) s.scr }

/-- Drop an uncommitted segment with everything it staged (02 R51, R59): its instances end; its sweep buffers, pass and
bell waits, staged park records, armed-send places and held queue records are given back (10 R211, R228; 11 R252, R256;
12 R267, R271, R280); its seats cease to be busy and its reservations end (03 R72). -/
def State.discard (s : State) (g : Nat) : State :=
  match lookupA s.segs g with
  | none => s
  | some seg =>
    let mine := s.segInsts g
    let ids := mine.map (·.1)
    let ops := (s.syncOps.filter fun o => o.2.seg = g).map (·.1)
    let waits (k : Nat) : Bool := ((s.part seg.slot).passes.any fun q => q.2.waiters.contains k) || s.bells.any fun b => b.arrivals.contains k
    let parked := ops.filter waits
    let s := mine.foldl (fun s i => s.blurWrites i.2) s
    let sends := mine.foldl (fun n i => n + (i.2.stage.far.filter fun f => match f with | .tsend .. => true | _ => false).length) 0
    let s := s.modCtx seg.ctx fun x =>
      let x := x.mapSeats fun p =>
        { p with busy := if p.busy = some g then none else p.busy, reserved := if p.reserved = some g then none else p.reserved }
      let x := x.returnHeld ids
      { x with
        reserved := x.reserved - sends
        parks := x.parks.filter fun r => !(r.staged && r.seg = g)
        logWaiters := x.logWaiters.filter (· ≠ g) }
    let s := s.modPart seg.slot fun p =>
      { p with sweepsHeld := p.sweepsHeld.filter fun h => h.1 / 2 ≠ g, sweepsWaiting := p.sweepsWaiting.filter fun h => h.1 / 2 ≠ g,
               unfolds := p.unfolds.filter fun u => !ids.contains u.1
               passes := p.passes.map fun q => (q.1, { q.2 with waiters := q.2.waiters.filter fun o => !ops.contains o }) }
    -- the matrix operations of its instances that have not begun are dropped
    let s := mine.foldl (fun s i => s.modCell seg.ctx i.2.place.cell fun x =>
      { x with mx := x.mx.filter fun o => !(o.inst = i.1 && o.first.isNone) }) s
    let s : State := { s with
      insts := s.insts.filter fun i => !ids.contains i.1
      segs := delA s.segs g
      bells := s.bells.map fun b => { b with arrivals := b.arrivals.filter fun o => !ops.contains o }
      syncOps := s.syncOps.filter fun o => !parked.contains o.1
      farReads := s.farReads.filter fun r => !ids.contains r.2.inst
      commands := s.commands.map fun k =>
        (k.1, if k.2.seg = g && !k.2.released then { k.2 with cancelled := true } else k.2)
      colls := s.colls.filter fun k => k.2.seg ≠ g }
    let s := ((s.schedule s.clk (.completionRecordWrite seg.launch)).nudge seg.slot).admitSweeps seg.slot
    mine.foldl (fun s i => s.wakeLoads seg.ctx i.2.place.cell) s

/-! ## The matrix unit's time (09 R194) -/

/-- Operations that have not streamed their last row. -/
def CellCtx.liveMx (x : CellCtx) (clk : Nat) : List MxOp :=
  x.mx.filter fun o => match o.first with | some f => clk < f + o.rows | none => true

/-- The clk after the last row of the operations whose first row is known. -/
def CellCtx.mxEnd (x : CellCtx) : Nat :=
  x.mx.foldl (fun m o => match o.first with | some f => max m (f + o.rows) | none => m) x.mxFree

/-- Whether a gang's member must still pass on a row: it departs 2 clk after its last row (09 R195; 15 R310). -/
def CellCtx.passingRows (x : CellCtx) (clk : Nat) : Bool := !(x.liveMx clk).isEmpty || clk < x.mxEnd + 1

/-! ## The end of an expression (24 R392) -/

/-- Hand a segment's pending releases on with the faulted flag, when its expression ends before commit (12 R268). -/
def State.handReleases (s : State) (c : Nat) (passes : List Nat) : State :=
  passes.foldl (fun s p =>
    (s.modPart (s.ctx c).slot fun x =>
      { x with passes := x.passes.map fun q => if q.1 = p then (q.1, { q.2 with faulted := true }) else q }).schedule
      s.clk (.passHandoff c p)) s

/-- A status ends an expression: the earliest status stands, and of one clk's statuses the one at the lowest open seat (24 R392).
Its segments go with the clk (`State.endOfClk`). A launch that has completed has no status any more: a trap of a tail that runs
on is on the report card alone. -/
def State.endExpression (s : State) (l : Nat) (status openSeat : Nat) : State :=
  match lookupA s.launches l with
  | none => s
  | some v =>
    if v.phase = .retired then s else
    let better := match v.status with
      | none => true
      | some _ => v.statusClk = s.clk && openSeat < v.statusSeat
    let s := s.modLaunch l fun v =>
      if better then { v with status := some status, statusClk := s.clk, statusSeat := openSeat, endClk := s.clk } else v
    { s with ending := if s.ending.contains l then s.ending else s.ending ++ [l] }

/-- A launch that a status has ended: its uncommitted, unengaged segments are discarded, and it completes when the others have
run on (24 R392). -/
def State.dropSegments (s : State) (l : Nat) : State :=
  let victims := (s.segs.filter fun g => g.2.launch = l && !g.2.engaged &&
    g.2.phase ≠ .committing && g.2.phase ≠ .tail).map (·.1)
  (victims.foldl State.discard s).schedule s.clk (.completionRecordWrite l)

/-- What an instance's trap ends. Before commit, the segment is dropped with its staged effects, engaged or not, and its pending
pass releases are handed on with the faulted flag; in a tail the committed effects stand and the instance ends (06 R134). -/
def State.trapEnd (s : State) (i : Nat) : State :=
  match s.inst? i with
  | none => s
  | some v =>
    if v.committed then s.endTail i v
    else
      let releases := ((lookupA s.segs v.place.seg).map (·.releases)).getD []
      (s.handReleases v.place.ctx releases).discard v.place.seg

/-- The end of a clk: what its traps and statuses end, ends. All the statuses of a clk are raised before any of them drops a
segment, so each of them is on the report card (24 R392; log 49). -/
def State.endOfClk (s : State) : State :=
  let s₁ : State := { s with trapped := [], ending := [] }
  s.ending.foldl State.dropSegments (s.trapped.foldl State.trapEnd s₁)

/-- What a trap says: its status code (24 R391), its cause, and the address for the report card. -/
structure TrapInfo where
  status : Nat
  cause : Nat
  addr : Nat
deriving DecidableEq, Repr

/-- A trap's report-card entry: status, cause, word, index, seat and operator number (06 R134; 24 R394). -/
def State.trapReport (s : State) (i : Nat) (t : TrapInfo) : State :=
  match s.inst? i with
  | none => s
  | some v =>
    let seg := lookupA s.segs v.place.seg
    let buf := if v.buf = 0 then (s.cell v.place.ctx v.place.cell).buf0 else (s.cell v.place.ctx v.place.cell).buf1
    s.report v.place.ctx
      { status := t.status, cause := t.cause, kind := 1, opnum := v.place.opnum, openSeat := (seg.map (·.openSeat)).getD 0,
        word := ((buf.map (·.words)).getD []).getD v.pc 0, seat := v.place.seat, index := v.pc, addr := t.addr,
        launch := v.place.launch, bytes := 0 }

/-- Taking a trap: ONE operation for every trap of a lesson (06 R134; 24 R392). The report card has it, the instance stops, its
expression has the status, and what it ends ends with the clk. -/
def State.takeTrap (s : State) (i : Nat) (t : TrapInfo) : State :=
  match s.inst? i with
  | none => s
  | some v =>
    if v.status = .trapped then s
    else
      let openSeat := ((lookupA s.segs v.place.seg).map (·.openSeat)).getD 0
      let s := (s.trapReport i t).modInst i fun v => { v with status := .trapped, wake := none }
      State.endExpression { s with trapped := s.trapped ++ [i] } v.place.launch t.status openSeat

/-- A trap that is raised in several instances: every one is on the report card (09 R207; 10 R209; 24 R392). -/
def State.takeTrapAll (s : State) (is : List Nat) (t : TrapInfo) : State := is.foldl (fun s i => s.takeTrap i t) s

/-- Status codes of traps (24 R391). -/
def stIllegal : Nat := 0x10
/-- freed-register -/
def stFreed : Nat := 0x11
/-- loop-nest -/
def stLoopNest : Nat := 0x12
/-- wait-timeout -/
def stWaitTimeout : Nat := 0x13
/-- need -/
def stNeed : Nat := 0x14
/-- emit-range -/
def stEmitRange : Nat := 0x15
/-- short-emit -/
def stShortEmit : Nat := 0x16
/-- malformed-result -/
def stMalformedResult : Nat := 0x17
/-- protected-granule -/
def stProtected : Nat := 0x18
/-- far-stage-full -/
def stFarStage : Nat := 0x19
/-- post-commit -/
def stPostCommit : Nat := 0x1A
/-- tree-mismatch -/
def stTreeMismatch : Nat := 0x1B
/-- bad-handle -/
def stBadHandle : Nat := 0x1C
/-- bad-header -/
def stBadHeader : Nat := 0x1D
/-- tile-operand -/
def stTileOperand : Nat := 0x1E
/-- gang -/
def stGang : Nat := 0x1F
/-- scratch-range -/
def stScratchRange : Nat := 0x20
/-- ring -/
def stRing : Nat := 0x21
/-- ring fault -/
def stRingFault : Nat := 0x22
/-- far-reference -/
def stFarRef : Nat := 0x23
/-- descriptor -/
def stDescriptor : Nat := 0x24
/-- sync -/
def stSync : Nat := 0x25
/-- record -/
def stRecord : Nat := 0x26
/-- user-trap -/
def stUser : Nat := 0x09
/-- lease fault -/
def stLease : Nat := 0x30
/-- data-error -/
def stDataError : Nat := 0x33
/-- malformed-expression -/
def stMalformedExpr : Nat := 0x02

/-- A trap with a status and a cause. -/
def trapOf (status cause : Nat) : TrapInfo := { status, cause, addr := 0 }

end Sys2Proof.Machine
end

