-- ==== Sys2Proof/Machine/Operands.lean ====
section
/-!
DEFINITION. Machine/Operands.lean: the operand forms: registers with their last uses and the scoreboard, masks, scratch
addresses, tile handles and headers, and issuing one instruction (06 R121 to R134; 01 R13 to R18; 02 R51, R52, R57).
-/

namespace Sys2Proof.Machine

/-! ## Registers (06 R123, R124) -/

/-- The number of a register class in scoreboard keys. -/
def classCode : RegClass → Nat
  | .x => 0 | .v => 1 | .k => 2 | .acc => 3 | .wslot => 4 | .lc => 5

/-- The scoreboard's key of a register. -/
def regKey (r : RegClass × Nat) : Nat := classCode r.1 * 64 + r.2

/-- The registers that an instruction reads, those whose last-use bit is set, and those it writes. -/
structure Uses where
  reads : List (RegClass × Nat)
  lasts : List (RegClass × Nat)
  writes : List (RegClass × Nat)
deriving DecidableEq, Repr

/-- A field with its class, as a list of none or one register. -/
def fieldReg (c : Option RegClass) (n : Nat) : List (RegClass × Nat) :=
  match c with
  | some c => [(c, n)]
  | none => []

/-- A register whose last-use bit is set. -/
def lastReg (b : Bool) (c : Option RegClass) (n : Nat) : List (RegClass × Nat) := if b then fieldReg c n else []

/-- The mask register that a form reads: k0 reads all ones and is never freed (R125, R162). -/
def maskReg (r : Row) (k : Nat) : List (RegClass × Nat) := if r.mask then [(.k, k)] else []

/-- Whether an M-format form writes D: loads and the operations that return an old value. -/
def writesD (p : Nat) : Bool := !(p = 0xA1 || p = 0xA3 || p = 0xBB || p = 0xB3 || p = 0xC9)

/-- The registers that a lesson instruction reads, frees and writes (R124). -/
def usesOf (i : Instr) : Uses :=
  match i.parts with
  | none => ⟨[], [], []⟩
  | some (p, fm) =>
    let w := fm.word p
    let r := rowOf p w
    match fm with
    | .r f =>
      { reads := fieldReg r.a f.a ++ fieldReg r.b f.b ++ fieldReg r.c f.c ++ maskReg r f.mask
        lasts := lastReg f.la r.a f.a ++ lastReg f.lb r.b f.b ++ lastReg f.lc r.c f.c
        -- the matrix unit and the weight entries keep their own times (09 R194)
        writes := if p = 0x70 || p = 0x71 || p = 0x73 then [] else fieldReg r.d f.d }
    | .i f =>
      { reads := fieldReg r.a f.a ++ maskReg r f.mask, lasts := lastReg f.la r.a f.a, writes := fieldReg r.d f.d }
    | .m f =>
      let pair : List (RegClass × Nat) := if isWideCas p w then [(.x, f.d.val + 1)] else []
      { reads := fieldReg r.a f.a ++ (if r.dRead then fieldReg r.d f.d else []) ++ pair ++ maskReg r f.mask
        lasts := lastReg f.la r.a f.a ++ lastReg f.lb r.d f.d
        writes := if writesD p then fieldReg r.d f.d else [] }
    | .l f =>
      { reads := fieldReg r.a f.a ++ fieldReg r.b f.b, lasts := lastReg f.la r.a f.a ++ lastReg f.lb r.b f.b, writes := [] }
    | .q f =>
      { reads := fieldReg r.a f.a ++ fieldReg r.b f.b ++ maskReg r f.mask
        lasts := lastReg f.la r.a f.a ++ lastReg f.lb r.b f.b
        writes := fieldReg r.d f.d }
    | .z f => { reads := fieldReg r.a f.a, lasts := lastReg f.la r.a f.a, writes := fieldReg r.d f.d }

namespace Regs

/-- The registers of a new instance (02 R49). -/
def start : Regs :=
  { x := Vector.replicate 32 0#64, v := Vector.replicate 32 VecVal.fresh, k := Vector.replicate 8 0#16,
    lc := Vector.replicate 3 0#32, loops := [], freedX := 0#32, freedV := 0#32, freedK := 0#8 }

/-- A scalar register; x0 reads 0. -/
def getX (r : Regs) (n : Nat) : Word := if n = 0 then 0#64 else if h : n < 32 then r.x[n] else 0#64

/-- Write a scalar register and make it live; a write to x0 is discarded (07 R143). -/
def setX (r : Regs) (n : Nat) (w : Word) : Regs :=
  if n = 0 then r else
  if h : n < 32 then { r with x := r.x.set n w, freedX := r.freedX &&& ~~~(1#32 <<< n) } else r

/-- A vector register. -/
def getV (r : Regs) (n : Nat) : VecVal := if h : n < 32 then r.v[n] else VecVal.none

/-- Write a vector register and make it live. -/
def setV (r : Regs) (n : Nat) (w : VecVal) : Regs :=
  if h : n < 32 then { r with v := r.v.set n w, freedV := r.freedV &&& ~~~(1#32 <<< n) } else r

/-- A mask register; k0 reads 0xFFFF (07 R162). -/
def getK (r : Regs) (n : Nat) : BitVec 16 := if n = 0 then 0xFFFF#16 else if h : n < 8 then r.k[n] else 0#16

/-- Write a mask register and make it live; a write to k0 is discarded (07 R162). -/
def setK (r : Regs) (n : Nat) (w : BitVec 16) : Regs :=
  if n = 0 then r else
  if h : n < 8 then { r with k := r.k.set n w, freedK := r.freedK &&& ~~~(1#8 <<< n) } else r

/-- A loop counter. -/
def getLc (r : Regs) (n : Nat) : Lane := if h : n < 3 then r.lc[n] else 0#32

/-- Write a loop counter. -/
def setLc (r : Regs) (n : Nat) (w : Lane) : Regs := if h : n < 3 then { r with lc := r.lc.set n w } else r

/-- Whether a register is freed; x0 and k0 never are (06 R124, 07 R162). -/
def isFreed (r : Regs) (q : RegClass × Nat) : Bool :=
  match q.1 with
  | .x => q.2 ≠ 0 && r.freedX.getLsbD q.2
  | .v => r.freedV.getLsbD q.2
  | .k => q.2 ≠ 0 && r.freedK.getLsbD q.2
  | _ => false

/-- Free a register; a last-use bit on x0 or k0 has no effect. -/
def free (r : Regs) (q : RegClass × Nat) : Regs :=
  if q.2 = 0 && q.1 ≠ .v then r else
  match q.1 with
  | .x => { r with freedX := r.freedX ||| (1#32 <<< q.2) }
  | .v => { r with freedV := r.freedV ||| (1#32 <<< q.2) }
  | .k => { r with freedK := r.freedK ||| (1#8 <<< q.2) }
  | _ => r

end Regs

/-- Whether a mask field selects lane `j` (08 R166). -/
def Regs.selects (r : Regs) (mask : Nat) (neg : Bool) (j : Nat) : Bool := (r.getK mask).getLsbD j != neg

/-- Write the selected lanes of a vector register; a lane not written keeps its value, or becomes 0 and invalid when the
register was freed before issue (08 R166). -/
def Regs.mergeV (r : Regs) (d : Nat) (sel : Nat → Bool) (f : Nat → Lane) (ok : Nat → Bool) : Regs :=
  let old := if r.isFreed (.v, d) then VecVal.none else r.getV d
  r.setV d (VecVal.ofFn (fun j => if sel j then f j else old.lane j) (fun j => if sel j then ok j else old.ok j))

/-- The scoreboard's key of a pending write of weight entry i (slot × 8 + entry), and of a pending read of it (09 R194). -/
def weightKey (i : Nat) : Nat := 4 * 64 + i
/-- See `weightKey`. -/
def weightReadKey (i : Nat) : Nat := 4 * 64 + 32 + i

/-- A time that is not known yet: the matrix unit's first row waits for admission or for its gang (15 R308). -/
def unknownClk : Nat := 2 ^ 63

/-- The scoreboard's key of the special-function unit (01 R15). -/
def specialKey : Nat := 600

/-- Whether an instruction runs in the special-function unit (08 R168, R183). -/
def isSpecial (i : Instr) : Bool :=
  match i with
  | .vexp2 _ | .vlog2 _ | .vrcp _ | .vrsqrt _ | .vsigm _ | .vtanh _ | .vsoftp _ => true
  | _ => false

/-- The scoreboard's keys that an instruction waits for (01 R15; 09 R187, R194): its sources and destinations; an `mma`
waits for no accumulator, and for the write of its weight entry alone. -/
def waitKeys (i : Instr) : List Nat :=
  match i with
  | .mma f => [regKey (.x, f.a.val), weightKey (f.b.val * 8 + f.fn.val % 8)]
  | .wld f => [regKey (.x, f.a.val), weightKey (f.d.val * 8 + f.fn.val % 8), weightReadKey (f.d.val * 8 + f.fn.val % 8)]
  | .wcmp f => [regKey (.x, f.a.val), weightKey (f.d.val * 8 + f.fn.val % 8), weightReadKey (f.d.val * 8 + f.fn.val % 8)]
  | _ => (if isSpecial i then [specialKey] else []) ++ ((usesOf i).reads ++ (usesOf i).writes).map regKey

/-- The clk at which an instruction's registers are all ready. -/
def Inst.readyAt (v : Inst) (i : Instr) : Nat :=
  (waitKeys i).foldl (fun m k => max m (getD 0 v.busy k)) 0

/-! ## Control flow at the end of an instruction (07 R153 to R155) -/

/-- Apply the loop-end test to a next program counter (R153). -/
def loopEnd (r : Regs) (next : Nat) : List LoopEntry → Regs × Nat
  | [] => ({ r with loops := [] }, next)
  | e :: es =>
    if next = e.stop then
      let c := r.getLc e.ctr - 1#32
      let r := r.setLc e.ctr c
      if c ≠ 0#32 then ({ r with loops := e :: es }, e.start) else loopEnd r next es
    else ({ r with loops := e :: es }, next)

/-- Pop the entries that a taken transfer leaves: those whose body start lies after the target or whose end lies before
it (R154). -/
def popLeft (next : Nat) : List LoopEntry → List LoopEntry
  | [] => []
  | e :: es => if next < e.start || e.stop < next then popLeft next es else e :: es

/-! ## Issuing an instruction -/

/-- What an instruction's effect comes to. -/
inductive Done where
  /-- it completes; its destination is ready after a latency (01 R15) -/
  | next (s : State) (latency : Nat)
  /-- it transfers control to an index -/
  | jump (s : State) (target : Nat)
  /-- control goes on at an index without the test of R154 -/
  | goto_ (s : State) (target : Nat)
  /-- it stalls and is tried again in the next clk -/
  | stall (s : State)
  /-- it waits for an event that completes it -/
  | wait (s : State) (w : Wait)
  /-- it raises a trap -/
  | trap (s : State) (t : TrapInfo)
  /-- it has settled its instance itself -/
  | settled (s : State)
  /-- the machine stops -/
  | fault (f : Fault)

/-- Whether a tail may issue a primary opcode (02 R57; 12 R278). A tile instruction in the tail of a segment in record
mode may not (09 R187). -/
def tailAllows (p : Nat) (record : Bool) : Bool :=
  p < 0x70 || (p < 0x80 && !record) || (0xA0 ≤ p && p < 0xB0) || p = 0xE0 || p = 0xE4 || p = 0xE5 || p = 0xE6 || p = 0xEB

/-- Whether a primary is one of the ring waits that R159 bounds in a tail. -/
def isRingWait (p : Nat) : Bool := p = 0x24 || p = 0x25 || p = 0xA6 || p = 0xA7

/-- The primary opcode of a lesson instruction; an event has none. -/
def primaryOf (i : Instr) : Nat := match i.parts with | some (p, _) => p | none => 0x100

/-- Free the registers of a list. -/
def freeAll (r : Regs) : List (RegClass × Nat) → Regs
  | [] => r
  | q :: qs => freeAll (r.free q) qs

/-- Note when the registers of a list are ready (01 R15). -/
def busyAll (at_ : Nat) : List (RegClass × Nat) → Assoc Nat → Assoc Nat
  | [], m => m
  | q :: qs, m => busyAll at_ qs (putA m (regKey q) at_)

/-- An instruction has completed: its last uses free their registers but for one it writes, its destinations are ready
after a latency, it counts as issued, and the instance issues at index `next` in the following clk (R124, 01 R15). -/
def Inst.retire (v : Inst) (u : Uses) (clk latency next : Nat) : Inst :=
  { v with
    regs := freeAll v.regs (u.lasts.filter fun q => !u.writes.contains q)
    busy := busyAll (clk + latency) u.writes v.busy
    pc := next, issued := v.issued + 1, status := .running, wake := some (clk + 1), waitSince := none }

/-- Completion at the next index, with the loop-end test (07 R153). -/
def Inst.advance (v : Inst) (u : Uses) (clk latency : Nat) : Inst :=
  let r := loopEnd v.regs (v.pc + 1) v.regs.loops
  { v with regs := r.1 }.retire u clk latency r.2

/-- Completion with a transfer to an index: entries that it leaves are popped, then the loop-end test (07 R153, R154). -/
def Inst.transfer (v : Inst) (u : Uses) (clk target : Nat) (pop : Bool) : Inst :=
  let r := loopEnd v.regs target (if pop then popLeft target v.regs.loops else v.regs.loops)
  { v with regs := r.1 }.retire u clk 1 r.2

/-- The state once an instruction's effect is known; `s₀` is the state that it had before, which a fault leaves. -/
def settle (i : Instr) (id : Nat) (v : Inst) (s₀ : State) : Done → State
  | .next s lat => s.modInst id fun w =>
    let w := w.advance (usesOf i) s.clk lat
    if isSpecial i then { w with busy := putA w.busy specialKey (s.clk + 2) } else w
  | .jump s t => s.modInst id fun w => w.transfer (usesOf i) s.clk t true
  | .goto_ s t => s.modInst id fun w => w.transfer (usesOf i) s.clk t false
  | .stall s =>
    let s := if v.committed && isRingWait (primaryOf i) && v.waitSince.isNone
      then s.schedule (s.clk + 65536) (.waitTimeout id s.clk) else s
    s.modInst id fun w =>
      { w with wake := some (s.clk + 1), waitSince := match w.waitSince with | some c => some c | none => some s.clk }
  | .wait s w =>
    s.modInst id fun x =>
      { x with status := .waiting w, wake := none, waitSince := some s.clk,
               regs := freeAll x.regs ((usesOf i).lasts.filter fun q => !(usesOf i).writes.contains q) }
  | .trap s t => s.takeTrap id t
  | .settled s => s
  | .fault _ => s₀

/-- Whether an instance's segment is in record mode (02 R57; 09 R187). -/
def State.recordMode (s : State) (v : Inst) : Bool := match lookupA s.segs v.place.seg with | some g => g.record | none => false

/-- What an issue answers once the effect is known. -/
def Done.outcome (i : Instr) (id : Nat) (v : Inst) (s : State) : Done → Host.Outcome State Fault Refusal
  | .fault f => .fault f
  | .next t n => .next (settle i id v s (.next t n))
  | .jump t n => .next (settle i id v s (.jump t n))
  | .goto_ t n => .next (settle i id v s (.goto_ t n))
  | .stall t => .next (settle i id v s (.stall t))
  | .wait t w => .next (settle i id v s (.wait t w))
  | .trap t k => .next (settle i id v s (.trap t k))
  | .settled t => .next t

/-- Issue an instruction for the instance that executes: a form that a tail may not issue raises the post-commit trap
(02 R57), a freed source raises the freed-register trap (06 R124), and otherwise the instruction has its effect. -/
def issue (i : Instr) (eff : State → Nat → Inst → Done) (s : State) : Host.Outcome State Fault Refusal :=
  match s.actor with
  | none => .refused .noIssuer
  | some id =>
    match s.inst? id with
    | none => .refused .noIssuer
    | some v =>
      if v.committed && !tailAllows (primaryOf i) (s.recordMode v) then .next (s.takeTrap id (trapOf stPostCommit 0))
      else if (usesOf i).reads.any v.regs.isFreed then .next (s.takeTrap id (trapOf stFreed 0))
      else (eff s id v).outcome i id v s

/-- An effect on the instance's registers alone, ready after a latency. -/
def regEffect (latency : Nat) (f : Inst → Regs) : State → Nat → Inst → Done :=
  fun s id v => .next (s.setInst id { v with regs := f v }) latency

/-- The completion of an instance's pending instruction by an event: the instruction's registers are written and the next
one may issue in the same clk (12 R261; 14). -/
def State.complete (s : State) (id : Nat) (i : Instr) (f : Regs → Regs) : State :=
  s.modInst id fun v =>
    { { v with regs := f v.regs }.advance { usesOf i with lasts := [] } s.clk 0 with wake := some s.clk }

/-! ## Lesson words -/

/-- The buffer that an instance runs from (01 R21). -/
def State.bufOf (s : State) (v : Inst) : Option LessonBuf :=
  if v.buf = 0 then (s.cell v.place.ctx v.place.cell).buf0 else (s.cell v.place.ctx v.place.cell).buf1

/-- The word at an instance's program counter; at index n there is none (06 R131). -/
def State.fetch (s : State) (v : Inst) : Option Nat :=
  match s.bufOf v with
  | some b => b.words[v.pc]?
  | none => none

/-- The pending instruction of an instance: the one at its program counter. -/
def State.pendingInstr (s : State) (v : Inst) : Option Instr :=
  match s.fetch v with
  | some w => match decode w with | .ok i => some i | .error _ => none
  | none => none

/-! ## Banks (01 R16, R18) -/

/-- The bank, counted in the side's order, of a byte address. -/
def bankOf (a : Nat) : Nat := a / 64 % 4

/-- Take a bank for one clk: the delay of an access that finds it taken, which counts as lost clk (01 R18, 12 R282). -/
def State.takeBank (s : State) (c cell a : Nat) : State × Nat :=
  let b := bankOf a
  let free := (s.cell c cell).banks[b]'(Nat.mod_lt _ (by decide))
  let at_ := max free s.clk
  let delay := at_ - s.clk
  (s.modCell c cell fun x =>
    { x with
      banks := x.banks.set b (at_ + 1) (Nat.mod_lt _ (by decide))
      perf := x.perf.set 2 (x.perf[2] + BitVec.ofNat 64 delay) }, delay)

/-! ## Scratch addresses (11 R233) -/

/-- A register plus a signed offset, on 64-bit integers with the register read as signed (R233). -/
def baseOffset (base : Word) (width off : Nat) : Int := base.toInt + signed width off

/-- Check a scratch access: cause 1 outside the side, cause 2 misaligned (R233). -/
def scratchAt (a : Int) (n align : Nat) : Except TrapInfo Nat :=
  if a < 0 ∨ (sideBytes : Int) < a + n then .error (trapOf stScratchRange 1)
  else if a % align ≠ 0 then .error (trapOf stScratchRange 2)
  else .ok a.toNat

/-! ## Tile headers (06 R140 to R142) -/

/-- The fields of a header's word 0 and its owner. -/
structure HdrView where
  valid : Bool
  dirty : Bool
  ty : Ty
  rows : Nat
  cols : Nat
  base : Nat
  count : Nat
  band : BitVec 16
  owner : Nat
  word0 : Word
  word1 : Word
deriving DecidableEq, Repr

/-- Read a header's two words (06 R141). -/
def HdrView.ofWords (w0 w1 : Word) : HdrView :=
  let n := w0.toNat
  { valid := bit n 63, dirty := bit n 62, ty := (Ty.ofCode (bits n 56 52)).getD .i32, rows := bits n 51 44 + 1,
    cols := bits n 43 36 + 1, base := bits n 35 26, count := bits n 25 16, band := BitVec.ofNat 16 n,
    owner := bits w1.toNat 63 56, word0 := w0, word1 := w1 }

/-- Set bits [hi:lo] of a word. -/
def setBits (w : Word) (hi lo v : Nat) : Word :=
  let n := w.toNat
  BitVec.ofNat 64 (n - bits n hi lo * 2 ^ lo + v % 2 ^ (hi + 1 - lo) * 2 ^ lo)

/-- A header's words after a staged write (06 R142, 09 R201 to R203). -/
def HdrDelta.apply (δ : HdrDelta) (owner : Nat) (w : Word × Word) : Word × Word :=
  let w := match δ.alloc with | some a => (a, BitVec.ofNat 64 (owner * 2 ^ 56)) | none => w
  let w0 := match δ.band with | some b => setBits w.1 15 0 b.toNat | none => w.1
  let w0 := match δ.shape with | some x => setBits w0 56 36 (bits x.toNat 56 36) | none => w0
  let w0 := if δ.clearDirty then setBits w0 62 62 0 else w0
  let w0 := if δ.setDirty then setBits w0 62 62 1 else w0
  let w0 := if δ.freed then setBits w0 63 63 0 else w0
  (w0, w.2)

/-- A staged header write that changes nothing. -/
def HdrDelta.none (i : Nat) : HdrDelta :=
  { index := i, alloc := .none, freed := false, band := .none, shape := .none, clearDirty := false, setDirty := false,
    producer := .none }

/-- The two words of a header of the instance's own cell, with its own staged writes (09 R187). -/
def State.ownHeader (s : State) (v : Inst) (idx : Nat) : Word × Word :=
  (v.stage.hdrs.filter fun δ => δ.index = idx).foldl (fun w δ => δ.apply v.place.ctx w)
    (getD (0#64, 0#64) (s.cell v.place.ctx v.place.cell).hdrs idx)

/-- A tile that a handle names: its cell, header index and header. -/
structure Tile where
  cell : Nat
  index : Nat
  hdr : HdrView
deriving DecidableEq, Repr

/-- The handle of a tile (06 R140). -/
def handleOf (cell side idx : Nat) : Nat := cell * 128 + side * 64 + idx

/-- The tile of a handle value, or the bad-handle trap: high bits set, cell at or beyond cellcount, header not valid, or
another owner; a handle of the other side names a header of another context or of none (06 R140, 09 R186, 23 R382). -/
def State.tile (s : State) (v : Inst) (w : Word) : Except TrapInfo Tile :=
  let n := w.toNat
  let cell := bits n 19 7
  let idx := bits n 5 0
  let x := s.ctx v.place.ctx
  if n ≥ 2 ^ 20 ∨ v.place.cellcount ≤ cell ∨ bits n 6 6 ≠ x.home then .error (trapOf stBadHandle 0) else
  let ws := if cell = v.place.cell then s.ownHeader v idx else getD (0#64, 0#64) (s.cell v.place.ctx cell).hdrs idx
  let h := HdrView.ofWords ws.1 ws.2
  if !h.valid || h.owner ≠ v.place.ctx then .error (trapOf stBadHandle 0)
  else .ok { cell, index := idx, hdr := h }

/-- Granules of a tile's stored form: two parts for e2m1 (04 R91, 09 R201). -/
def storedGranules (t : Ty) (rows cols : Nat) : Nat :=
  if t = .e2m1 then (rows * cols + 127) / 128 + (rows * cols + 511) / 512
  else (rows * cols * (Ty.width t / 8) + 63) / 64

/-- Bytes of a tile's stored form: whole granules for e2m1, whose last granule R91 fills with zeros, and the element bytes
alone for every other format (04 R91). -/
def storedLength (t : Ty) (rows cols : Nat) : Nat :=
  if t = .e2m1 then 64 * storedGranules t rows cols else rows * cols * (Ty.width t / 8)

/-- `n` bytes of a context's side in a cell at an address, with the instance's own gradient shadow in its own cell
(12 R276). -/
def State.sideBytes (s : State) (v : Inst) (cell a n : Nat) : List Byte :=
  let raw := readBytes s.scr (s.scrAddr v.place.ctx cell a) n
  if cell = v.place.cell && !v.stage.gradGranules.isEmpty then
    (List.range n).map fun k =>
      if v.stage.gradGranules.contains ((a + k) / 64) then readByte v.stage.grads (a + k) else raw.getD k 0#8
  else raw

/-- The bytes of a tile's granules. -/
def State.tileBytes (s : State) (v : Inst) (t : Tile) : List Byte := s.sideBytes v t.cell (t.hdr.base * 64) (t.hdr.count * 64)

/-- The key of a scratch granule among the poisoned ones; a far line has its address / 64 (24 R395). -/
def State.poisonKey (s : State) (c cell g : Nat) : Nat := 2 ^ 50 + s.scrAddr c cell (g * 64) / 64

/-- Whether granules [lo, hi] of a context's side are poisoned in part (24 R395). -/
def State.poisonedAt (s : State) (c cell lo hi : Nat) : Bool :=
  !s.poison.isEmpty && (List.range (hi + 1 - lo)).any fun k => s.poison.contains (s.poisonKey c cell (lo + k))

/-- The poisoned granules among [lo, hi] of a context's side go on the report card as notices: the address of each in its
cell, beside the cell (24 R395, R396). -/
def State.noticePoison (s : State) (c cell lo hi launch : Nat) : State :=
  ((List.range (hi + 1 - lo)).filter fun k => s.poison.contains (s.poisonKey c cell (lo + k))).foldl
    (fun s k => s.report c { Card.ofStatus 0x33 3 with addr := cell * 65536 + (lo + k) * 64, launch }) s

/-- Whether a tile's granules are poisoned in part. -/
def State.tilePoisoned (s : State) (v : Inst) (t : Tile) : Bool :=
  s.poisonedAt v.place.ctx t.cell t.hdr.base (t.hdr.base + t.hdr.count - 1)

/-- The data-error trap (24 R391, R395). -/
def dataError : TrapInfo := trapOf stDataError 0

/-- Write bytes of a context's side in a cell; a granule that is written whole ceases to be poisoned (24 R395). -/
def State.pokeSide (s : State) (c cell a : Nat) (bs : List Byte) : State :=
  { s with
    scr := writeBytes s.scr (s.scrAddr c cell a) bs
    poison := if s.poison.isEmpty then s.poison else s.poison.filter fun p =>
      !(List.range (bs.length / 64 + 1)).any fun k =>
        let g := (a + 63) / 64 + k
        g * 64 + 64 ≤ a + bs.length && s.poisonKey c cell g = p }

/-- Note bytes of scratch that an uncommitted instance has written at once (02 R51). -/
def State.noteWrite (s : State) (id : Nat) (v : Inst) (cell a n : Nat) : State :=
  if v.committed then s else s.modInst id fun u => { u with stage := { u.stage with wrote := (cell, a, n) :: u.stage.wrote } }

/-- Write bytes of the own side, and of the gradient shadow where it holds the granule (12 R276). -/
def State.pokeOwn (s : State) (id : Nat) (v : Inst) (a : Nat) (bs : List Byte) : State :=
  let s := (s.pokeSide v.place.ctx v.place.cell a bs).noteWrite id v v.place.cell a bs.length
  if v.stage.gradGranules.isEmpty then s
  else s.modInst id fun u => { u with stage := { u.stage with
    grads := (List.range bs.length).foldl (fun m k =>
      if v.stage.gradGranules.contains ((a + k) / 64) then writeByte m (a + k) (bs.getD k 0#8) else m) u.stage.grads } }

/-- The elements of a tile, row by row, as data: integers, or floating-point values with group and band scales for
e2m1 (04 R87, R90, R91). -/
def tileElements (h : HdrView) (bs : List Byte) : List Datum :=
  let byte (k : Nat) : Nat := (bs.getD k 0#8).toNat
  (List.range (h.rows * h.cols)).map fun k =>
    if h.ty = .e2m1 then
      let code := byte (k / 2) / (if k % 2 = 0 then 1 else 16) % 16
      let scale := byte ((h.rows * h.cols + 127) / 128 * 64 + k / 8)
      .fp (e2m1Value code scale h.band.toNat)
    else
      let w := Ty.width h.ty / 8
      readDatum h.ty (wordOfBytes ((List.range w).map fun b => bs.getD (k * w + b) 0#8))

/-- A datum as a floating-point value; an integer is exact. -/
def Datum.toFp : Datum → Fp
  | .int v => .fin (Frac.ofInt v)
  | .fp v => v

/-- The bytes of elements stored row by row in a format of whole bytes, padded to whole granules. -/
def packElements (t : Ty) (codes : List Nat) : List Byte :=
  let bs := codes.flatMap fun c => bytesOfWord (Ty.width t / 8) c
  bs ++ List.replicate ((bs.length + 63) / 64 * 64 - bs.length) 0#8

/-! ## The open copybook (19 R340, R341) -/

/-- The header address of the context's current copybook (23 R380, word 3; read at each use). -/
def State.cbHeader (s : State) (c : Nat) : Nat :=
  let x := s.ctx c
  let dir := readNat s.mem ((x.blockAddr.toNat % 2 ^ 48) + 24) 8 % 2 ^ 48
  readNat s.mem (dir + 8 * bits (x.blockWord 0) 33 30) 8 % 2 ^ 48

/-- A copybook header is open when its open bit is set, its version is the negotiated one and its reserved bits are 0
(R341). -/
def State.headerOpen (s : State) (a : Nat) : Bool :=
  let w0 := readNat s.mem a 8
  bit w0 47 && bits w0 63 48 = bits s.dev.chosen.toNat 47 32 && bits w0 44 38 = 0 &&
    bits (readNat s.mem (a + 8) 8) 63 48 = 0 && readNat s.mem (a + 40) 8 = 0 && readNat s.mem (a + 48) 8 = 0 &&
    readNat s.mem (a + 56) 8 = 0

/-- Whether any copybook of the context is open (R340, R346). -/
def State.anyOpen (s : State) (c : Nat) : Bool :=
  let x := s.ctx c
  let dir := readNat s.mem ((x.blockAddr.toNat % 2 ^ 48) + 24) 8 % 2 ^ 48
  dir ≠ 0 && (List.range 16).any fun i =>
    let a := readNat s.mem (dir + 8 * i) 8 % 2 ^ 48
    a ≠ 0 && s.headerOpen a

/-- The producer state that a write which no entry logs leaves (19 R346). -/
def State.unlogged (s : State) (c : Nat) : Producer := if s.anyOpen c then .opaqueTile else .none

/-! ## Writing headers and granules of the own cell -/

/-- Apply header writes to a context's cell. -/
def CellCtx.applyDelta (x : CellCtx) (owner : Nat) (δ : HdrDelta) : CellCtx :=
  { x with
    hdrs := setD (0#64, 0#64) x.hdrs δ.index (δ.apply owner (getD (0#64, 0#64) x.hdrs δ.index))
    prods := match δ.producer with | some p => setD Producer.none x.prods δ.index p | none => x.prods }

/-- A header write: staged before commit, at once in a tail (02 R51, 06 R142). -/
def State.writeHeader (s : State) (id : Nat) (v : Inst) (δ : HdrDelta) : State :=
  if v.committed then s.modCell v.place.ctx v.place.cell fun x => x.applyDelta v.place.ctx δ
  else s.modInst id fun w => { w with stage := { w.stage with hdrs := w.stage.hdrs ++ [δ] } }

/-- Whether a granule belongs to a tile that was valid when the uncommitted instance started (02 R52). -/
def Inst.isProtected (v : Inst) (g : Nat) : Bool :=
  !v.committed && v.prot.any fun r => r.1 ≤ g && g < r.1 + r.2

/-- Note a write of granules [lo, hi] on the tiles they belong to: the dirty bit, and the producer state (09 R187;
19 R346). -/
def State.touch (s : State) (id : Nat) (v : Inst) (lo hi : Nat) (prod : Producer) : State :=
  (List.range 64).foldl (fun s idx =>
    let w := s.ownHeader v idx
    let h := HdrView.ofWords w.1 w.2
    if h.valid && h.base ≤ hi && lo < h.base + h.count then
      s.writeHeader id v { HdrDelta.none idx with setDirty := true, producer := some prod }
    else s) s

/-- Note a write of granules [lo, hi] of a cell on its committed headers (09 R187; 19 R346). -/
def State.touchCell (s : State) (c cell lo hi : Nat) (prod : Producer) : State :=
  (s.cell c cell).hdrs.foldl (fun s e =>
    let h := HdrView.ofWords e.2.1 e.2.2
    if h.valid && h.base ≤ hi && lo < h.base + h.count then
      s.modCell c cell fun x => x.applyDelta c { HdrDelta.none e.1 with setDirty := true, producer := some prod }
    else s) s

/-- Count in one of the cell's performance counters (12 R282). -/
def State.count (s : State) (c cell : Nat) (i : Fin 8) (n : Nat) : State :=
  s.modCell c cell fun x => { x with perf := x.perf.set i (x.perf[i] + BitVec.ofNat 64 n) }

/-- Write bytes of the own side at an address, or the protected-granule trap (02 R52; 11 R239). -/
def State.store (s : State) (id : Nat) (v : Inst) (a : Nat) (bs : List Byte) : Except TrapInfo State :=
  let lo := a / 64
  let hi := (a + bs.length - 1) / 64
  if bs.isEmpty then .ok s
  else if (List.range (hi + 1 - lo)).any fun k => v.isProtected (lo + k) then .error (trapOf stProtected 0)
  else
    let s := s.pokeOwn id v a bs
    .ok (s.touch id v lo hi (s.unlogged v.place.ctx))

/-- A new instance of a place (02 R49). -/
def Inst.fresh (p : Place) (h : Header) (buf clk : Nat) (prot : List (Nat × Nat)) : Inst :=
  { place := p, hdr := h, buf, pc := 0, committed := false, finished := false, ends := false, status := .running,
    wake := some clk, regs := Regs.start, busy := [], stage := Stage.empty, declared := none, colls := 0, collWord := 0#64,
    collVec := VecVal.none, collVal := 0#64, rcvLeft := [], rcvRight := [], comingLeft := 0, comingRight := 0, gang := none,
    joining := none, stream := 0, seqs := [], prot, relMark := none, waitSince := none, started := clk, issued := 0 }

end Sys2Proof.Machine
end

