-- ==== Sys2Proof/Machine/Sweep.lean ====
section
/-!
DEFINITION. Machine/Sweep.lean: what the seats of a segment do together: the start and the end of collective, need and bell
sweeps (10 R208, R209, R211, R222; 12 R270), gangs (09 R195), and the arrival of a seat at its commit (02 R55).
-/

namespace Sys2Proof.Machine

/-! ## Sweeps -/

/-- A sweep of a segment is ready to start. -/
def State.startSweep (s : State) (g : Nat) (need : Bool) : State :=
  match lookupA s.segs g with
  | some seg =>
    (s.modPart seg.slot fun p => { p with sweepsWaiting := p.sweepsWaiting ++ [(sweepKey g need, s.clk)] }).admitSweeps seg.slot
  | none => s

/-- A sweep has ended: its buffers are free, and waiting sweeps are admitted. -/
def State.releaseSweep (s : State) (g : Nat) (need : Bool) : State :=
  match lookupA s.segs g with
  | some seg =>
    (s.modPart seg.slot fun p => { p with sweepsHeld := p.sweepsHeld.filter fun h => h.1 ≠ sweepKey g need }).admitSweeps seg.slot
  | none => s

/-! ## Starting sweeps -/

/-- The fields of a collective word in which the seats' words must agree: primary, type, combiner, direction, order,
function (10 R209). -/
def collFields (w : Word) : Nat × Nat × Nat :=
  (bits w.toNat 63 56, bits w.toNat 48 44, bits w.toNat 25 0)

/-- Start collective sweep k of a segment once every seat has issued its k-th collective or is finished (10 R208); words
that disagree raise the tree-mismatch trap in every seat (R209). -/
def State.tryCollective (s : State) (g : Nat) : State :=
  match lookupA s.segs g with
  | none => s
  | some seg =>
    let is := s.segInsts g
    let takes := is.filter fun i => i.2.colls = seg.sweeps + 1 && i.2.status = .waiting .sweep
    let all := is.length = seg.seglen && is.all fun i => i.2.finished || (i.2.colls = seg.sweeps + 1 && i.2.status = .waiting .sweep)
    match takes with
    | [] => s
    | first :: _ =>
      if !all then s
      else if takes.all fun i => collFields i.2.collWord = collFields first.2.collWord &&
          (bits first.2.collWord.toNat 63 56 ≠ 0x83 || i.2.collVal = first.2.collVal) then s.startSweep g false
      else s.takeTrapAll (is.map (·.1)) (trapOf stTreeMismatch 0)

/-- Start the need sweep of a segment once every seat has declared (10 R222). -/
def State.tryNeed (s : State) (g : Nat) : State :=
  match lookupA s.segs g with
  | none => s
  | some seg =>
    let is := s.segInsts g
    if !seg.needStarted && is.length = seg.seglen && is.all fun i => i.2.declared.isSome then
      (s.modSeg g fun x => { x with needStarted := true }).startSweep g true
    else s

/-- The number of a bell for its event: a segment's own bell, or a bell of an engine. -/
def segBellKey (g : Nat) : Nat := 2 * g

/-- Complete a segment's bell 8h clk after the last arrival: every seat has arrived or is finished (12 R270). -/
def State.trySegBell (s : State) (g : Nat) : State :=
  match lookupA s.segs g with
  | none => s
  | some seg =>
    let is := s.segInsts g
    if is.length = seg.seglen && (is.any fun i => i.2.status = .waiting .segBell) &&
        is.all fun i => i.2.finished || i.2.status = .waiting .segBell then
      s.schedule (s.clk + twoWay (s.segLevel seg)) (.bellComplete (segBellKey g))
    else s

/-! ## Gangs (09 R195) -/

/-- The live instances of the gang cells of an instance, within its segment. -/
def State.gangMates (s : State) (v : Inst) (size : Nat) : List (Nat × Inst) :=
  (s.segInsts v.place.seg).filter fun i => i.2.place.cell / size = v.place.cell / size

/-- A gang trap is raised in every member (09 R207). -/
def State.gangTrap (s : State) (v : Inst) (size cause : Nat) : State :=
  s.takeTrapAll ((s.gangMates v size).map (·.1)) (trapOf stGang cause)

/-- Gang size of a `gangon` code. -/
def gangSize (code : Nat) : Nat := 2 ^ code

/-! ## Arrival at the commit (02 R55; 07 R160) -/

/-- Whether a waiting member of a gang would be left by an instance that never joined (09 R207, cause 3). -/
def State.leavesGangWaiting (s : State) (v : Inst) : Option Nat :=
  if v.gang.isSome || v.joining.isSome then none else
  [2, 4, 8].find? fun g => (s.gangMates v g).any fun i => i.2.joining = some g

/-- A seat arrives at its segment's commit: it is finished, it declares 0 if it has declared nothing (02 R53), it leaves
its gang (09 R195), and it stalls until the commit step has completed. The last arrival reaches the highest used tree
cell after the one-way climb (02 R55). -/
def State.arriveCommit (s : State) (id : Nat) (v : Inst) (ends : Bool) : State :=
  let g := v.place.seg
  match s.leavesGangWaiting v with
  | some size => s.gangTrap v size 3
  | none =>
    let s := s.setInst id { v with
      finished := true, ends, declared := some (v.declared.getD 0), gang := none, status := .waiting .commit, wake := none,
      issued := v.issued + 1 }
    let s := ((s.tryNeed g).tryCollective g).trySegBell g
    match lookupA s.segs g with
    | none => s
    | some seg =>
      let is := s.segInsts g
      if is.length = seg.seglen && is.all fun i => i.2.finished then
        s.schedule (s.clk + oneWay (s.segLevel seg)) (.segmentCommit g)
      else s

/-! ## Engagement (02 R60) -/

/-- A segment becomes engaged as a whole. -/
def State.engage (s : State) (g : Nat) : State := s.modSeg g fun x => { x with engaged := true }

end Sys2Proof.Machine
end

