-- ==== Sys2Proof/Machine/Control.lean ====
section
/-!
DEFINITION. Machine/Control.lean: branches, loops, ring waits and the end of a lesson, primaries 0x20 to 0x27 (07 R150 to
R160), and the mask instructions, 0x30 to 0x37 (07 R161, R162).
-/

namespace Sys2Proof.Machine

/-- Whether the comparison of an L form holds on the instance's registers (06 R127, 07 R143). -/
def lHolds (f : LForm) (r : Regs) : Bool :=
  branchHolds f.cond (readInt f.ty (r.getX f.a).toNat) (readInt f.ty (r.getX f.b).toNat)

/-- The target of an index offset (06 R127). -/
def lTarget (f : LForm) (pc : Nat) : Int := (pc : Int) + signed 20 f.off

/-- `b` (07 R150). Its target has been checked before issue (06 R131). -/
def execB (f : LForm) (s : State) : Host.Outcome State Fault Refusal :=
  issue (.b f) (fun s _ v => if lHolds f v.regs then .jump s (lTarget f v.pc).toNat else .next s 1) s

/-- `j` (07 R151): index + offset + A; a target outside 0…n raises cause 12 at issue. -/
def execJ (f : LForm) (s : State) : Host.Outcome State Fault Refusal :=
  issue (.j f) (fun s _ v =>
    let t := lTarget f v.pc + (v.regs.getX f.a).toInt
    if t < 0 ∨ (v.hdr.count : Int) < t then .trap s (trapOf stIllegal IllegalCause.target.code)
    else .jump s t.toNat) s

/-- `loop` (07 R152). -/
def execLoop (f : LForm) (s : State) : Host.Outcome State Fault Refusal :=
  issue (.loop f) (fun s id v =>
    let off := signed 20 f.off
    let t := lTarget f v.pc
    let ls := v.regs.loops
    let beyond : Bool := match ls with | e :: _ => decide ((e.stop : Int) < t) | [] => false
    if off < 1 ∨ ls.length = 3 ∨ ls.any (fun e => e.ctr = f.ctr.val) ∨ beyond then .trap s (trapOf stLoopNest 0)
    else
      let n : Lane := BitVec.ofNat 32 (v.regs.getX f.a).toNat
      if n = 0#32 ∨ off = 1 then .goto_ (s.setInst id { v with regs := v.regs.setLc f.ctr 0#32 }) t.toNat
      else
        let r := v.regs.setLc f.ctr n
        .goto_ (s.setInst id { v with regs := { r with loops := { ctr := f.ctr, start := v.pc + 1, stop := t.toNat } :: ls } })
          (v.pc + 1)) s

/-- The stack below the entry of a counter, and that entry's end. -/
def popThrough (ctr : Nat) : List LoopEntry → Option (List LoopEntry × Nat)
  | [] => none
  | e :: es => if e.ctr = ctr then some (es, e.stop) else popThrough ctr es

/-- `lexit` (07 R155). -/
def execLexit (f : LForm) (s : State) : Host.Outcome State Fault Refusal :=
  issue (.lexit f) (fun s id v =>
    match popThrough f.ctr v.regs.loops with
    | none => .trap s (trapOf stLoopNest 0)
    | some (rest, stop) =>
      if lHolds f v.regs then .goto_ (s.setInst id { v with regs := { v.regs with loops := rest } }) stop
      else .next s 1) s

/-- `rdlc` (07 R156). -/
def execRdlc (f : RForm) (s : State) : Host.Outcome State Fault Refusal :=
  issue (.rdlc f) (regEffect 1 fun v => v.regs.setX f.d ((v.regs.getLc f.a).zeroExtend 64)) s

/-- The ring of an instance's side. -/
def State.ring (s : State) (v : Inst) (n : Nat) : Option Ring := lookupA (s.cell v.place.ctx v.place.cell).rings n

/-- A ring instruction's checks: ring cause 1 uninitialised, cause 3 count or threshold above E (11 R242). -/
def ringCheck (r : Option Ring) (count : Nat) : Except TrapInfo Ring :=
  match r with
  | none => .error (trapOf stRing 1)
  | some r => if r.entries < count then .error (trapOf stRing 3) else .ok r

/-- A wait for a ring's count: it stalls until the count is at least the threshold, then writes the count (07 R157). -/
def ringWait (f : IForm) (count : Ring → Nat) : State → Nat → Inst → Done := fun s id v =>
  let n := (v.regs.getX f.a).toNat % 2 ^ 32
  match ringCheck (s.ring v (bits f.imm 3 0)) n with
  | .error t => .trap s t
  | .ok r =>
    if n ≤ count r then .next (s.setInst id { v with regs := v.regs.setX f.d (BitVec.ofNat 64 (count r)) }) 1
    else .stall s

/-- `wfill` (07 R157, R158). -/
def execWfill (f : IForm) (s : State) : Host.Outcome State Fault Refusal := issue (.wfill f) (ringWait f (·.filled)) s

/-- `wfree` (07 R157). -/
def execWfree (f : IForm) (s : State) : Host.Outcome State Fault Refusal :=
  issue (.wfree f) (ringWait f fun r => r.entries - r.filled) s

/-- `done` (07 R160): in an uncommitted instance an implicit commit, in a tail the end of the instance. -/
def execDone (s : State) : Host.Outcome State Fault Refusal :=
  issue .done (fun s id v =>
    if v.committed then .settled (s.endTail id v)
    else if v.gang.isSome && (s.cell v.place.ctx v.place.cell).passingRows s.clk then .stall s
    else .settled (s.arriveCommit id v true)) s

/-- A mask operation on two mask registers (07 R161). -/
def maskOp (f : RForm) (op : BitVec 16 → BitVec 16 → BitVec 16) : State → Nat → Inst → Done :=
  regEffect 1 fun v => v.regs.setK f.d (op (v.regs.getK f.a) (v.regs.getK f.b))

/-- `kand` (07 R161). -/
def execKand (f : RForm) (s : State) : Host.Outcome State Fault Refusal := issue (.kand f) (maskOp f (· &&& ·)) s

/-- `kor` (07 R161). -/
def execKor (f : RForm) (s : State) : Host.Outcome State Fault Refusal := issue (.kor f) (maskOp f (· ||| ·)) s

/-- `kxor` (07 R161). -/
def execKxor (f : RForm) (s : State) : Host.Outcome State Fault Refusal := issue (.kxor f) (maskOp f (· ^^^ ·)) s

/-- `knot` (07 R161). -/
def execKnot (f : RForm) (s : State) : Host.Outcome State Fault Refusal :=
  issue (.knot f) (regEffect 1 fun v => v.regs.setK f.d (~~~(v.regs.getK f.a))) s

/-- `kmov` (07 R161): bits above 15 are ignored. -/
def execKmov (f : RForm) (s : State) : Host.Outcome State Fault Refusal :=
  issue (.kmov f) (regEffect 1 fun v => v.regs.setK f.d ((v.regs.getX f.a).truncate 16)) s

/-- `kread` (07 R161). -/
def execKread (f : RForm) (s : State) : Host.Outcome State Fault Refusal :=
  issue (.kread f) (regEffect 1 fun v => v.regs.setX f.d ((v.regs.getK f.a).zeroExtend 64)) s

/-- The set bits of a mask value. -/
def setBitsOf (w : BitVec 16) : List Nat := (List.range 16).filter fun j => w.getLsbD j

/-- `kpop` (07 R161). -/
def execKpop (f : RForm) (s : State) : Host.Outcome State Fault Refusal :=
  issue (.kpop f) (regEffect 1 fun v => v.regs.setX f.d (BitVec.ofNat 64 (setBitsOf (v.regs.getK f.a)).length)) s

/-- `kfirst` (07 R161): the index of the lowest set bit, or 16. -/
def execKfirst (f : RForm) (s : State) : Host.Outcome State Fault Refusal :=
  issue (.kfirst f) (regEffect 1 fun v => v.regs.setX f.d (BitVec.ofNat 64 ((setBitsOf (v.regs.getK f.a)).headD 16))) s

end Sys2Proof.Machine
end

