-- ==== Sys2Proof/Machine/Far.lean ====
section
/-!
DEFINITION. Machine/Far.lean: far memory shared by the families: leased ranges, the order of far accesses, the far-write
stage and its release, the queues of the copy engines, counters and armed sends (02 R51; 11 R244 to R258; 12 R268, R272;
24 R390; 22 R370).
-/

namespace Sys2Proof.Machine

/-! ## Leased ranges (11 R244; 24 R390) -/

/-- A far reference's value (R244). -/
def farRef (entry off : Nat) : Nat := entry * 2 ^ 42 + off

/-- The physical address of a leased access, none where it is not covered or not permitted (R390). -/
def leased (rs : List Range) (entry off width : Nat) (write : Bool) : Option Nat :=
  match rs[entry]? with
  | some r => if off + width ≤ r.length && (if write then r.wr else r.rd) then some (r.base + off) else none
  | none => none

/-- The lease-fault trap of a far access (R390). -/
def leaseTrap (entry off : Nat) : TrapInfo := { status := stLease, cause := 0, addr := farRef entry off }

/-- The range entries of a launch. -/
def State.rangesOf (s : State) (l : Nat) : List Range := ((lookupA s.launches l).map (·.ranges)).getD []

/-- Whether a line of far memory in [a, a + n) is poisoned (24 R395). -/
def State.farPoisoned (s : State) (a n : Nat) : Bool := s.poison.any fun p => a / 64 ≤ p && p ≤ (a + n - 1) / 64

/-- Write far bytes; a line that is written whole ceases to be poisoned (24 R395). -/
def State.pokeFar (s : State) (a : Nat) (bs : List Byte) : State :=
  { s with
    mem := writeBytes s.mem a bs
    poison := s.poison.filter fun p => !(a ≤ p * 64 && p * 64 + 64 ≤ a + bs.length) }

/-! ## What is still to be performed (11 R257, R258; 12 R268) -/

/-- The seat of a segment's open. -/
def State.openSeatOf (s : State) (g : Nat) : Nat := ((lookupA s.segs g).map (·.openSeat)).getD 0

/-- Whether a far access is not performed yet. -/
def State.pendingFar (s : State) (k : Nat) : Bool :=
  (lookupA s.farWrites k).isSome || (lookupA s.commands k).isSome ||
    (match lookupA s.farReads k with | some r => r.value.isNone | none => false)

/-- Whether all of a list is performed. -/
def State.allDone (s : State) (ks : List Nat) : Bool := ks.all fun k => !s.pendingFar k

/-- Whether a command's destination is far memory of this device. -/
def Desc.farDest (d : Desc) : Bool := bits d.dst.endpoint.toNat 63 61 = 0

/-- Whether a command's destination is a ring. -/
def Desc.ringDest (d : Desc) : Bool := bits d.dst.endpoint.toNat 63 61 = 2

/-- Whether a command's source is far memory or a peer. -/
def Desc.farSource (d : Desc) : Bool := bits d.src.endpoint.toNat 63 61 ≤ 1

/-- Whether far writes of a context up to a number, to this device's memory, are performed (12 R268, R272). -/
def State.writesDone (s : State) (c mark : Nat) : Bool :=
  (s.farWrites.all fun w => w.2.ctx ≠ c || mark < w.1 || (match w.2.work with | .counter .. => true | _ => false)) &&
    s.commands.all fun k => k.2.ctx ≠ c || mark < k.1 || !k.2.released || k.2.send || !k.2.desc.farDest

/-! ## Engine queues (11 R251) -/

/-- The quarter and the engine that serve a cell: bench mod 16 of its quarter. -/
def State.engineOf (s : State) (slot cell : Nat) : Nat × Nat :=
  let dc := s.devCell slot cell
  (s.quarterOf dc, dc % s.perQuarter / 8 % 16)

/-- The queued commands of an engine, oldest first. -/
def State.queued (s : State) (q e : Nat) : Assoc Command :=
  s.commands.filter fun k => k.2.quarter = q && k.2.engine = e && !k.2.running

/-- Put a command into its engine's queue: the engine starts it 25 clk later at the earliest. -/
def State.enqueue (s : State) (k : Command) : Nat × State :=
  let (id, s) := s.newId
  let s := s.modCtx k.ctx fun x => { x with roll := { x.roll with copies := x.roll.copies + 1 } }
  let s := { s with commands := putA s.commands id k }
  (id, s.schedule k.readyAt (.copyStart k.quarter k.engine))

/-- Far accesses that no earlier access holds start, engines look at their queues again, and passes whose releases
wait are looked at again. -/
def State.wakeFar (s : State) : State :=
  let s := s.farWrites.foldl (fun t w =>
    if w.2.scheduled || !t.allDone w.2.after then t
    else
      let t := { t with farWrites := putA t.farWrites w.1 { w.2 with scheduled := true } }
      match w.2.work with
      | .counter set c v => t.schedule (t.clk + w.2.time) (.counterUpdateApplied w.2.ctx c set v)
      | _ => t.schedule (t.clk + w.2.time) (.farWritePerformed w.1)) s
  let s := s.farReads.foldl (fun t r =>
    if r.2.scheduled || !t.allDone r.2.after then t
    else
      let p := t.clk + r.2.performAt
      { t with farReads := putA t.farReads r.1 { r.2 with scheduled := true, performAt := p, arriveAt := t.clk + r.2.arriveAt } }.schedule p
        (.farReadReply r.1)) s
  let s := s.commands.foldl (fun t k =>
    if k.2.running || !t.allDone k.2.after then t else t.schedule (max k.2.readyAt t.clk) (.copyStart k.2.quarter k.2.engine)) s
  s.parts.foldl (fun t x => x.2.passes.foldl (fun t p =>
    match p.2.holder, p.2.pending with
    | some c, some _ => t.schedule t.clk (.passHandoff c p.1)
    | _, _ => t) t) s

/-- Launches of a context whose lease setup waits for range entries are looked at again (24 R389). -/
def State.retrySetups (s : State) (c : Nat) : State :=
  (s.launches.filter fun l => l.2.ctx = c && l.2.phase = .waitingUnit).foldl (fun s l => s.schedule s.clk (.dependenceEntry l.1)) s

/-- A far write or command of a launch has completed (11 R253; 23 R376). -/
def State.finishFar (s : State) (l : Nat) : State :=
  (s.modLaunch l fun v => { v with outstanding := v.outstanding - 1 }).schedule s.clk (.completionRecordWrite l)

/-! ## Counters and armed sends (11 R254 to R256; 22 R370) -/

/-- A context's counter. -/
def Ctx.counter (x : Ctx) (c : Nat) : Lane := getD 0#32 x.counters c

/-- Fire the armed sends of a resident context whose counters have reached their thresholds: each enters its command into
the queue of its cell's engine, and its place is free again (R256). -/
def State.fireSends (s : State) (c : Nat) : State :=
  let x := s.ctx c
  if x.state ≠ .resident then s
  else
    let ready := x.armed.filter fun a => a.thr ≤ (x.counter a.ctr).toNat
    let s := s.modCtx c fun x => { x with armed := x.armed.filter fun a => !ready.contains a, reserved := x.reserved - ready.length }
    ready.foldl (fun t a =>
      let e := t.engineOf x.slot a.cell
      (t.enqueue { ctx := c, launch := a.launch, seg := a.seg, opnum := 0, openSeat := 0, inst := 0, cell := a.cell, quarter := e.1, engine := e.2,
                   red := false, desc := a.desc, ranges := a.ranges, stream := a.stream, after := [], released := true,
                   send := true, readyAt := t.clk + 25, running := false, sourceRead := false, data := [], poisoned := false, short := false,
                   filled := 0, cancelled := false }).2) s

/-- Change a counter, then fire the sends that it satisfies (R254, R256). -/
def State.setCounter (s : State) (c k : Nat) (f : Lane → Lane) : State :=
  ((s.modCtx c fun x => { x with counters := setD 0#32 x.counters k (f (x.counter k)) }).ungate (s.ctx c).slot).fireSends c

/-! ## The far-write stage (02 R51) -/

/-- Stage a far effect; a 33rd raises the far-stage-full trap. A fence is no write. -/
def State.stageFar (s : State) (id : Nat) (v : Inst) (e : StagedFar) : Except TrapInfo State :=
  let n := (v.stage.far.filter (· ≠ .barrier)).length
  if e ≠ .barrier && 32 ≤ n then .error (trapOf stFarStage 0)
  else .ok (s.modInst id fun u => { u with stage := { u.stage with far := u.stage.far ++ [e] } })

/-- The stream of a staged far access, 0 where it has none. -/
def StagedFar.streamOf : StagedFar → Nat
  | .fst _ _ _ _ n => n
  | .copy _ _ n => n
  | .tsend _ _ _ n => n
  | .ctrset _ _ n => n
  | .ctradd _ _ n => n
  | _ => 0

/-- What the release of an instance's stage has issued so far: every number, those before the last fence, and the last of
each stream. -/
structure Released where
  all : List Nat
  barrier : List Nat
  streams : Assoc Nat
deriving DecidableEq, Repr

/-- The words of a marker record's word 0 (23 R422). -/
def State.markerWord (s : State) (c source : Nat) : Word :=
  BitVec.ofNat 64 (bits s.dev.chosen.toNat 15 0 * 2 ^ 48 + 3 * 2 ^ 44 + c * 2 ^ 32 + source * 2 ^ 24)

/-- Put a far write on its way. -/
def State.sendWrite (s : State) (v : Inst) (work : FarWork) (ranges : List Range) (after : List Nat) (time : Nat) :
    Nat × State :=
  let (id, s) := s.newId
  let w : FarWrite := { ctx := v.place.ctx, launch := v.place.launch, seg := v.place.seg, opnum := v.place.opnum,
                        openSeat := s.openSeatOf v.place.seg, inst := 0, work, ranges, time, after, scheduled := false }
  (id, ({ s with farWrites := putA s.farWrites id w }.modLaunch v.place.launch fun l => { l with outstanding := l.outstanding + 1 }))

/-- Release one staged far effect of an instance at its commit (02 R51, R56; 11 R245, R251, R254, R256; 12 R279, R281;
10 R227). -/
def State.releaseOne (s : State) (v : Inst) (r : Released) (e : StagedFar) : State × Released :=
  let c := v.place.ctx
  let ranges := s.rangesOf v.place.launch
  let n := e.streamOf
  let after := r.barrier ++ (if n = 0 then [] else (match lookupA r.streams n with | some k => [k] | none => []))
  let note (p : Nat × State) : State × Released :=
    (p.2, { r with all := p.1 :: r.all, streams := (if n = 0 then r.streams else putA r.streams n p.1) })
  match e with
  | .fst entry off width value _ => note (s.sendWrite v (.bytes entry off (bytesOfWord width value.toNat)) ranges after 400)
  | .ctrset k value _ => note (s.sendWrite v (.counter true k value) [] after 40)
  | .ctradd k value _ => note (s.sendWrite v (.counter false k value) [] after 40)
  | .park addr words =>
    note (s.sendWrite v (.physical addr (words.flatMap fun w => bytesOfWord 8 w.toNat)) [] after (400 + (words.length - 1 + 7) / 8))
  | .stored addr bytes =>
    note (s.sendWrite v (.physical addr bytes) [] after (400 + (bytes.length + 63) / 64))
  | .copy red d stream =>
    let eng := s.engineOf v.place.slot v.place.cell
    let p := s.enqueue { ctx := c, launch := v.place.launch, seg := v.place.seg, opnum := v.place.opnum,
                         openSeat := s.openSeatOf v.place.seg, inst := 0, cell := v.place.cell,
                         quarter := eng.1, engine := eng.2, red, desc := d, ranges, stream, after, released := true, send := false,
                         readyAt := s.clk + 25, running := false, sourceRead := false, data := [], poisoned := false, short := false, filled := 0,
                         cancelled := false }
    note (p.1, p.2.modLaunch v.place.launch fun l => { l with outstanding := l.outstanding + 1 })
  | .tsend ctr thr d stream =>
    let a : Armed := { ctr, thr, desc := d, cell := v.place.cell, launch := v.place.launch, seg := v.place.seg, stream, ranges }
    let s := s.modCtx c fun x => { x with armed := x.armed ++ [a] }
    (s.fireSends c, r)
  | .syscall words => (s.schedule s.clk (.agentAppend c 4 (s.markerWord c 1 :: words)), r)
  | .evsig k => (s.modCtx c fun x => { x with events := setD 0#32 x.events k (getD 0#32 x.events k + 1#32) }, r)
  | .cfgwr sel value => (s.modCtx c fun x => { x with user := setD 0#64 x.user sel value }, r)
  | .barrier => (s, { r with barrier := r.all })

/-- Release everything an instance staged, in issue order. -/
def State.releaseStage (s : State) (v : Inst) : State :=
  let p := v.stage.far.foldl (fun (a : State × Released) e => a.1.releaseOne v a.2 e) (s, ⟨[], [], []⟩)
  p.1.wakeFar

end Sys2Proof.Machine
end

