-- ==== Sys2Proof/Machine/Copybook.lean ====
section
/-!
DEFINITION. Machine/Copybook.lean: what an instance in record mode appends to its copybook lane (19 R343 to R347; 09 R205).
-/

namespace Sys2Proof.Machine

/-- A global index that stands for lane entry k of the own instance until commit assigns it (19 R348). -/
def stagedIndex (k : Nat) : Nat := 2 ^ 34 + k

/-- Whether the instance records: its application open carries the record flag and it is uncommitted (09 R205). -/
def State.records (s : State) (v : Inst) : Bool :=
  !v.committed && s.recordMode v

/-- The producer word of a header of the own cell, with the instance's staged changes. -/
def State.producerOf (s : State) (v : Inst) (cell idx : Nat) : Producer :=
  let base := getD Producer.none (s.cell v.place.ctx cell).prods idx
  if cell = v.place.cell then
    v.stage.hdrs.foldl (fun p δ => if δ.index = idx then δ.producer.getD p else p) base
  else base

/-- The save or recompute flag of a tile symbol of a handle in the segment (19 R345, 3): 1 save, 2 recompute. -/
def symbolFlag (syms : List Word) (handle : Nat) : Option Nat :=
  (syms.find? fun w => bits w.toNat 63 60 = 6 && bits w.toNat 19 0 = handle && (bit w.toNat 50 || bit w.toNat 49)).map
    fun w => if bit w.toNat 50 then 1 else 2

/-- The copy of a tile that a save keeps: header word 0 with bits [63:62] at 0, in one granule, then the stored granules
(19 R345). -/
def State.saveCopy (s : State) (v : Inst) (t : Tile) : List Byte :=
  bytesOfWord 8 (setBits t.hdr.word0 63 62 0).toNat ++ List.replicate 56 0#8 ++ s.tileBytes v t

/-- The granules of save copies staged so far. -/
def savedGranules (saves : List (List Byte)) : Nat := (saves.map fun b => b.length / 64).sum

/-- A source operand: its flag by the first rule of 19 R345 that applies. A recompute without a producing entry is written
as save. The save stage takes the copy; a 65th granule raises record trap cause 3 (R347). -/
def State.sourceOperand (s : State) (v : Inst) (st : Stage) (handle : Nat) (isWeight : Bool) :
    Except TrapInfo (CbOperand × Stage) :=
  match s.tile v (BitVec.ofNat 64 handle) with
  | .error t => if isWeight then .ok ({ flag := 4, handle, save := none, low := 0 }, st) else .error t
  | .ok t =>
    let prod := s.producerOf { v with stage := st } t.cell t.index
    if prod = .opaqueTile then .ok ({ flag := 4, handle, save := none, low := 0 }, st)
    else
      let syms := match lookupA s.segs v.place.seg with | some g => g.syms | none => []
      let byClass : Nat := match v.hdr.recclass with
        | 0 => 1
        | 1 => 2
        | 2 => 3
        | _ => if isWeight then 1 else 2
      let flag := ((lookupA st.marks handle).orElse fun _ => symbolFlag syms handle).getD byClass
      match flag, prod with
      | 3, _ => .ok ({ flag := 3, handle, save := none, low := 0 }, st)
      | 2, .produced e => .ok ({ flag := 2, handle, save := none, low := e }, st)
      | _, _ =>
        let copy := s.saveCopy { v with stage := st } t
        if savedGranules st.saves + copy.length / 64 > 64 then .error (trapOf stRecord 3)
        else .ok ({ flag := 1, handle, save := some st.saves.length, low := 0 }, { st with saves := st.saves ++ [copy] })

/-- The operand of a destination: always flag 3 (19 R344). -/
def destOperand (handle : Nat) : CbOperand := { flag := 3, handle, save := none, low := 0 }

/-- An absent operand. -/
def absentOperand : CbOperand := { flag := 0, handle := 0, save := none, low := 0 }

/-- What an entry says beside its operands (19 R343, word 0). -/
structure EntryInfo where
  kind : Nat
  primary : Nat
  func : Nat
  acc : Nat
  slot : Nat
  entry : Nat
  comp : Bool
  gang : Bool
deriving DecidableEq, Repr

/-- Word 0 of an entry without its sequence number (19 R343). -/
def EntryInfo.word0 (e : EntryInfo) (round : Nat) : Word :=
  BitVec.ofNat 64 (e.kind * 2 ^ 60 + e.primary * 2 ^ 52 + e.func % 256 * 2 ^ 44 + e.acc * 2 ^ 42 + e.slot * 2 ^ 40 +
    e.entry * 2 ^ 37 + bitNat e.comp * 2 ^ 36 + bitNat e.gang * 2 ^ 35 + round * 2 ^ 32)

/-- Put an entry in a stage; a 33rd entry raises record trap cause 3 (19 R347). -/
def Stage.putEntry (st : Stage) (v : Inst) (e : EntryInfo) (ops : List CbOperand) (raw : Word) (dest : Option Nat) :
    Except TrapInfo Stage :=
  if st.lane.length ≥ 32 then .error (trapOf stRecord 3)
  else .ok { st with lane := st.lane ++ [{
    word0 := e.word0 v.hdr.round, ops, raw, lane := st.lane.length, cell := v.place.cell, seat := v.place.seat,
    opnum := v.place.opnum, dest, hasOpaque := ops.any fun o => o.flag = 4 }] }

/-- The operands of a list of sources, in order. -/
def State.sourceOperands (s : State) (v : Inst) : Stage → List (Nat × Bool) → Except TrapInfo (List CbOperand × Stage)
  | st, [] => .ok ([], st)
  | st, (h, w) :: hs =>
    match s.sourceOperand v st h w with
    | .error t => .error t
    | .ok (o, st) =>
      match s.sourceOperands v st hs with
      | .error t => .error t
      | .ok (os, st) => .ok (o :: os, st)

/-- Append the entry of a logged instruction when the instance records: a destination (if any), then the sources (handles,
with whether each is the weight source). It answers the stage and the producer state that the destination takes: the
entry, or what an unlogged write leaves (19 R346). -/
def State.log (s : State) (v : Inst) (e : EntryInfo) (dest : Option Nat) (srcs : List (Nat × Bool)) (raw : Word) :
    Except TrapInfo (Stage × Producer) :=
  if !s.records v then .ok (v.stage, s.unlogged v.place.ctx)
  else
    match s.sourceOperands v v.stage srcs with
    | .error t => .error t
    | .ok (os, st) =>
      let ops := (match dest with | some d => destOperand d | none => absentOperand) :: os
      match st.putEntry v e ops raw dest with
      | .error t => .error t
      | .ok st' => .ok (st', .produced (stagedIndex st.lane.length))

end Sys2Proof.Machine
end

