-- ==== Sys2Proof/Machine/Matrix.lean ====
section
/-!
DEFINITION. Machine/Matrix.lean: weight entries, the matrix multiply and its unit, accumulators and tiles as data (09 R189
to R198; 15 R308), shared by the tile instructions.
-/

namespace Sys2Proof.Machine

/-! ## Weight entries (09 R189 to R192) -/

/-- A weight entry (slot × 8 + entry), with the instance's own writes (09 R187). -/
def State.weight (s : State) (v : Inst) (i : Nat) : WEntry :=
  match (if v.committed then none else lookupA v.stage.weights i) with
  | some w => w
  | none => getD WEntry.invalid (s.cell v.place.ctx v.place.cell).weights i

/-- Write a weight entry: in the shadow before commit, at once in a tail; the latched tile is forgotten when it came from
the entry (01 R20; 09 R189). -/
def State.setWeight (s : State) (id : Nat) (v : Inst) (i : Nat) (w : WEntry) : State :=
  let s := s.modCell v.place.ctx v.place.cell fun x => if x.latched = some i then { x with latched := none } else x
  if v.committed then
    s.modCell v.place.ctx v.place.cell fun x => { x with weights := setD WEntry.invalid x.weights i w }
  else s.modInst id fun u => { u with stage := { u.stage with weights := putA u.stage.weights i w } }

/-- The bytes of a compressed image: values, metadata and, for e2m1, scales (09 R190). -/
def imageBytes (t : Ty) : Nat :=
  match t with
  | .e2m1 => 128
  | .e4m3 | .e5m2 => 160
  | _ => 288

/-- The code of element `k` of packed elements of a type. -/
def elementCode (t : Ty) (bs : List Byte) (k : Nat) : Nat :=
  if t = .e2m1 then (bs.getD (k / 2) 0#8).toNat / (if k % 2 = 0 then 1 else 16) % 16
  else let w := Ty.width t / 8
    wordOfBytes ((List.range w).map fun b => bs.getD (k * w + b) 0#8)

/-- A weight element as a datum, with its scale byte and band for e2m1 (04 R90). -/
def weightValue (t : Ty) (code scale : Nat) (band : BitVec 16) : Fp :=
  if t = .e2m1 then e2m1Value code scale band.toNat else decodeFp t code

/-- The decompressed weight W[k][j] of an entry: dense as stored; in a compressed one each kept weight at its own k, the
higher field's over the lower's, and +0 elsewhere (09 R190, R191; 04 R101). -/
def WEntry.value (w : WEntry) (k j : Nat) : Fp :=
  if !w.comp then weightValue w.ty (elementCode w.ty w.data (16 * k + j)) ((w.data.getD (128 + 2 * k + j / 8) 0#8).toNat) w.band
  else
    let q := k / 4
    let metaOff := 128 * Ty.width w.ty / 8
    let nib := (w.data.getD (metaOff + (4 * j + q) / 2) 0#8).toNat / (if q % 2 = 0 then 1 else 16) % 16
    let scale := (w.data.getD (96 + 2 * k + j / 8) 0#8).toNat
    if nib / 4 % 4 = k % 4 then weightValue w.ty (elementCode w.ty w.data (8 * j + 2 * q + 1)) scale w.band
    else if nib % 4 = k % 4 then weightValue w.ty (elementCode w.ty w.data (8 * j + 2 * q)) scale w.band
    else .fin (Frac.ofInt 0)

/-- The two highest-ranked positions of a group of four, in ascending order; among equal ranks the lower index ranks
higher (04 R99, 09 R192). -/
def keepTwo (vs : List Fp) : Nat × Nat :=
  let v (i : Nat) : Fp := vs.getD i .nan
  let better (i j : Nat) : Bool := outranks (v i) (v j) || (!outranks (v j) (v i) && i < j)
  let rank (i : Nat) : Nat := ((List.range 4).filter fun j => j ≠ i && better j i).length
  let kept := (List.range 4).filter fun i => rank i < 2
  (kept.getD 0 0, kept.getD 1 1)

/-- The 2:4 image of a dense 16 × 16 tile's stored bytes (09 R190, R192). -/
def compressImage (t : Ty) (band : BitVec 16) (bs : List Byte) : List Byte :=
  let code (k j : Nat) : Nat := elementCode t bs (16 * k + j)
  let scale (k j : Nat) : Nat := (bs.getD (128 + 2 * k + j / 8) 0#8).toNat
  let kept (q j : Nat) : Nat × Nat :=
    keepTwo ((List.range 4).map fun i => weightValue t (code (4 * q + i) j) (scale (4 * q + i) j) band)
  let codes := (List.range 16).flatMap fun j => (List.range 4).flatMap fun q =>
    [code (4 * q + (kept q j).1) j, code (4 * q + (kept q j).2) j]
  let values : List Byte :=
    if t = .e2m1 then (List.range 64).map fun i => BitVec.ofNat 8 (codes.getD (2 * i) 0 + 16 * codes.getD (2 * i + 1) 0)
    else codes.flatMap fun c => bytesOfWord (Ty.width t / 8) c
  let nibble (i : Nat) : Nat := let k := kept (i % 4) (i / 4); k.1 + 4 * k.2
  let metadata : List Byte := (List.range 32).map fun i => BitVec.ofNat 8 (nibble (2 * i) + 16 * nibble (2 * i + 1))
  values ++ metadata ++ (if t = .e2m1 then (List.range 32).map fun i => bs.getD (128 + i) 0#8 else [])

/-- The stored bytes of a dense 16 × 16 weight tile: 512, 256 or 160 (09 R189). -/
def denseBytes (t : Ty) (bs : List Byte) : List Byte :=
  if t = .e2m1 then bs.take 160 else bs.take (256 * (Ty.width t / 8))

/-! ## Accumulators (01 R19, R20) -/

/-- Element (row, col) of an accumulator, with the instance's own writes. -/
def State.accElem (s : State) (v : Inst) (a row col : Nat) : Lane :=
  let k := a * 256 + row * 16 + col
  match (if v.committed then none else lookupA v.stage.acc k) with
  | some w => w
  | none => getD 0#32 (s.cell v.place.ctx v.place.cell).acc k

/-- Write accumulator elements: in the shadow before commit, at once in a tail (01 R20). -/
def State.setAcc (s : State) (id : Nat) (v : Inst) (es : List (Nat × Lane)) : State :=
  if v.committed then s.modCell v.place.ctx v.place.cell fun x =>
    { x with acc := es.foldl (fun m e => setD 0#32 m e.1 e.2) x.acc }
  else s.modInst id fun u => { u with stage := { u.stage with acc := es.foldl (fun m e => putA m e.1 e.2) u.stage.acc } }

/-- The sum of R100: ascending k, each addition rounded to f32 nearest-even. -/
def dotFrom (x w : Nat → Fp) : Nat → Nat → Nat → Nat
  | 0, _, acc => acc
  | n + 1, k, acc => dotFrom x w n (k + 1) (f32Bits ((f32 acc).add ((x k).mul (w k))))

/-- The new elements of accumulator `a` after an `mma` (04 R100, 09 R193). -/
def mmaElements (old : Nat → Nat → Lane) (zero : Bool) (a : Nat) (x w : Nat → Nat → Fp) : List (Nat × Lane) :=
  (List.range 256).map fun e =>
    let i := e / 16
    let j := e % 16
    let start := if zero then 0 else (old i j).toNat
    (a * 256 + e, BitVec.ofNat 32 (dotFrom (x i) (fun k => w k j) 16 0 start))

/-- The elements of a 16 × 16 tile as a function of row and column. -/
def tileFp (h : HdrView) (bs : List Byte) : Nat → Nat → Fp :=
  let es := tileElements h bs
  fun i j => (es.getD (i * h.cols + j) (.int 0)).toFp

/-! ## The matrix unit's time (09 R194, R196; 15 R308) -/

/-- Row streaming time ("Row streaming time of one `mma`"). -/
def rowTime (t : Ty) (comp : Bool) : Nat :=
  let d := match t with | .e2m1 => 4 | .e4m3 | .e5m2 => 8 | _ => 16
  if comp then d / 2 else d

/-- The first row of an operation is known: the accumulator is ready 4 clk after its last row (R194), and the scoreboard
holds accumulator and weight entry until then, or longer when a later operation of theirs has no first row yet. -/
def State.mxStarted (s : State) (ctx cell : Nat) (o : MxOp) (first : Nat) : State :=
  let ready := first + o.rows + 3
  let later := ((s.cell ctx cell).mx.filter fun p => p.inst = o.inst && p.first.isNone)
  let accAt := if later.any fun p => p.acc = o.acc then unknownClk else ready
  let entryAt := if later.any fun p => p.entry = o.entry then unknownClk else ready
  (s.modInst o.inst fun v => { v with
    busy := putA (putA v.busy (regKey (.acc, o.acc)) accAt) (weightReadKey o.entry) entryAt }).schedule ready
      (.mmaAccumulatorReady o.inst o.acc)

/-- Give first rows to the ungrouped operations that follow one whose first row is known. -/
def assignFirsts (clk : Nat) : Option Nat → List MxOp → List MxOp × List (MxOp × Nat)
  | _, [] => ([], [])
  | prev, o :: os =>
    match o.first with
    | some f =>
      let r := assignFirsts clk (some (f + o.rows)) os
      (o :: r.1, r.2)
    | none =>
      match prev with
      | some e =>
        if o.gang then (o :: os, []) else
        let f := max o.issuedAt e + o.extra
        let r := assignFirsts clk (some (f + o.rows)) os
        ({ o with first := some f } :: r.1, (o, f) :: r.2)
      | none => (o :: os, [])

/-- The limiter of a quarter. -/
def State.limiter (s : State) (q : Nat) : Limiter := s.limiters[q % 4]'(Nat.mod_lt _ (by decide))

/-- Change the limiter of a quarter. -/
def State.modLimiter (s : State) (q : Nat) (f : Limiter → Limiter) : State :=
  { s with limiters := s.limiters.set (q % 4) (f (s.limiter q)) (Nat.mod_lt _ (by decide)) }

/-- A request of matrix units waits for admission by their quarter's limiter, which acts at the partition clk that are
multiples of 4 (15 R308). -/
def State.requestUnits (s : State) (slot : Nat) (units : List (Nat × Nat)) (ready : Nat) : State :=
  let q := s.quarterOf (s.devCell slot ((units.headD (0, 0)).2)) % 4
  let running := (s.limiter q).stepping
  let s := s.modLimiter q fun l => { l with waiting := l.waiting ++ [(units, ready)], stepping := true }
  if running then s
  else
    let base := (s.part slot).clkBase
    s.schedule (base + ((s.clk - base) / 4 + 1) * 4) (.limiterStep q)

/-- Set the times of a cell's matrix unit after a new operation or an admission. -/
def State.kickMx (s : State) (ctx cell : Nat) : State :=
  let x := s.cell ctx cell
  let live := x.liveMx s.clk
  let r := assignFirsts s.clk none live
  let s := s.modCell ctx cell fun y => { y with mx := r.1, mxFree := x.mxEnd }
  r.2.foldl (fun s p => s.mxStarted ctx cell p.1 p.2) s

/-- Whether a unit's queued place is taken: by an operation issued behind another that has not streamed its first row (R194). -/
def CellCtx.mxFull (x : CellCtx) (clk : Nat) : Bool :=
  (x.liveMx clk).any fun o => o.queued && (match o.first with | some f => clk < f | none => true)

/-- Whether units are admitted. -/
def Limiter.has (l : Limiter) (units : List (Nat × Nat)) : Bool := units.all fun u => l.admitted.contains u

/-- A unit that has no operation outstanding is no longer admitted (15 R308); since its last row it has streamed filler
rows (R309). -/
def State.leaveLimiter (s : State) (slot ctx cell : Nat) : State :=
  s.modLimiter (s.quarterOf (s.devCell slot cell)) fun l =>
    if l.admitted.contains (ctx, cell) then
      { l with admitted := l.admitted.filter (· ≠ (ctx, cell))
               fillerRows := l.fillerRows + BitVec.ofNat 64 (min 4 (s.clk - (s.cell ctx cell).mxEnd)) }
    else l

/-- Put an operation in a cell's unit. An operation that finds the unit idle asks the limiter for admission; one behind
another follows it (R194, 15 R308). -/
def State.pushMx (s : State) (slot ctx cell : Nat) (o : MxOp) : State :=
  let x := s.cell ctx cell
  let live := x.liveMx s.clk
  let s := s.modCell ctx cell fun y =>
    { y with mx := live ++ [{ o with queued := !live.isEmpty }], mxFree := x.mxEnd, latched := some o.entry }
  if live.isEmpty then
    let s := s.leaveLimiter slot ctx cell
    if o.gang then s else s.requestUnits slot [(ctx, cell)] (max s.clk x.mxEnd + o.extra)
  else if o.gang then s
  else s.kickMx ctx cell

/-- The head operation without a first row of a cell's unit streams its first row at a clk (09 R194, R196). -/
def State.startUnit (s : State) (ctx cell first : Nat) : State :=
  match (s.cell ctx cell).mx.find? fun o => o.first.isNone with
  | none => s
  | some o =>
    let s := s.modCell ctx cell fun x => { x with mx := x.mx.map fun p => if p = o then { p with first := some first } else p }
    (s.mxStarted ctx cell o first).kickMx ctx cell

/-- Start a gang's next `mma` when every member has one waiting (R196): the values are those of the head's rows with each
member's own entry; the rows start at the latest clk by which every member's unit is free and latched, a member of rank m
being 2m clk behind the head. Units that are admitted already start then; others wait for admission as one request. Types
that differ raise gang trap cause 4. -/
def State.gangKick (s : State) (v : Inst) (size : Nat) : State :=
  let mates := s.gangMates v size
  let pend (i : Inst) : Option MxOp := (s.cell i.place.ctx i.place.cell).mx.find? fun o => o.gang && o.first.isNone
  let ops := mates.filterMap fun m => (pend m.2).map fun o => (m, o)
  let units := ops.map fun m => (m.1.2.place.ctx, m.1.2.place.cell)
  let l := s.limiter (s.quarterOf (s.devCell v.place.slot v.place.cell))
  if ops.length ≠ size ∨ l.waiting.any (fun w => w.1 = units) then s
  else
    match ops.find? fun m => m.1.2.place.cell % size = 0 with
    | none => s
    | some (_, head) =>
      if ops.any fun m => m.2.ty ≠ head.ty then s.gangTrap v size 4
      else
        let h := HdrView.ofWords head.xWord0 0#64
        let x := tileFp h head.xData
        let s := ops.foldl (fun s m =>
          let id := m.1.1
          match s.inst? id with
          | none => s
          | some u =>
            let w := s.weight u m.2.entry
            let s := s.setAcc id u (mmaElements (s.accElem u m.2.acc) m.2.zero m.2.acc x w.value)
            if u.place.cell % size = 0 then s else
            match s.log u ⟨1, 0x73, m.2.entry % 8 + bitNat m.2.zero * 8, m.2.acc, m.2.entry / 8, m.2.entry % 8, w.comp, true⟩
                none [(head.xHandle, false), (w.source, true)] 0#64 with
            | .error t => s.takeTrap id t
            | .ok (st, _) => s.modInst id fun u => { u with stage := { st with acc := u.stage.acc } }) s
        let b := ops.foldl (fun b m =>
          let c := s.cell m.1.2.place.ctx m.1.2.place.cell
          max b (max (m.2.issuedAt + m.2.extra) (c.mxEnd - 2 * (m.1.2.place.cell % size) + m.2.extra))) s.clk
        if l.has units then units.foldl (fun s u => s.startUnit u.1 u.2 (b + 2 * (u.2 % size))) s
        else s.requestUnits v.place.slot units b

/-- A request is admitted at a boundary: the head operation of each unit streams its first row then, a gang's member of
rank m 2m clk later (15 R308; 09 R196); a gang's next operation, where every member has it queued, is started behind it.
Counter 4 counts the clk from readiness to the first row (12 R282). -/
def State.admitRequest (s : State) (units : List (Nat × Nat)) (ready : Nat) : State :=
  let size := units.length
  let s := s.modLimiter (s.quarterOf (s.devCell (s.ctx ((units.headD (0, 0)).1)).slot ((units.headD (0, 0)).2))) fun l =>
    { l with addedClk := l.addedClk + BitVec.ofNat 64 (size * (s.clk - ready)) }
  let s := units.foldl (fun s u =>
    let s := s.modCell u.1 u.2 fun x => { x with perf := x.perf.set 4 (x.perf[4] + BitVec.ofNat 64 (s.clk - ready)) }
    s.startUnit u.1 u.2 (max s.clk ready + (if size > 1 then 2 * (u.2 % size) else 0))) s
  let u := units.headD (0, 0)
  match ((s.cell u.1 u.2).mx.find? fun o => o.gang && o.first.isNone).bind fun o => s.inst? o.inst with
  | some v => if 1 < size then s.gangKick v size else s
  | none => s

end Sys2Proof.Machine
end

