-- ==== Sys2Proof/Machine/Tiles.lean ====
section
/-!
DEFINITION. Machine/Tiles.lean: the tile and matrix instructions, primaries 0x70 to 0x7F (09 R185 to R207; 15 R310).
-/

namespace Sys2Proof.Machine

/-! ## Operands -/

/-- The scoreboard's key of a tile of the own cell whose granules are being written (R194, R198 to R200, R204). -/
def tileKey (idx : Nat) : Nat := 512 + idx

/-- Whether a tile's granules are still being written by the instance's earlier tile instruction. -/
def State.tilePending (s : State) (v : Inst) (t : Tile) : Bool :=
  t.cell = v.place.cell && s.clk < getD 0 v.busy (tileKey t.index)

/-- Read tiles: the instruction stalls while the granules of one (or of a destination) are still being written, and raises
data-error when it reads a poisoned granule (R187; 24 R395). Granules of other cells are counted (12 R282). -/
def readTiles (s : State) (v : Inst) (dests srcs : List Tile) (k : State → Done) : Done :=
  if (dests ++ srcs).any (s.tilePending v) then .stall s
  else if srcs.any (s.tilePoisoned v) then .trap s dataError
  else k (srcs.foldl (fun s t =>
    if t.cell = v.place.cell then s else s.count v.place.ctx v.place.cell 6 (storedGranules t.hdr.ty t.hdr.rows t.hdr.cols)) s)

/-- The first-granule latency of a tile (01 R30). -/
def State.tileLatency (s : State) (v : Inst) (t : Tile) : Nat :=
  s.remoteLatency (s.devCell v.place.slot v.place.cell) (s.devCell v.place.slot t.cell)

/-- The latency that a remote tile adds (R194, R310). -/
def State.remoteExtra (s : State) (v : Inst) (t : Tile) : Nat := if t.cell = v.place.cell then 0 else s.tileLatency v t

/-- Granules of a tile's stored form. -/
def HdrView.granules (h : HdrView) : Nat := storedGranules h.ty h.rows h.cols

/-- The tile-operand trap with the lowest cause that applies (R207). -/
def operandTrap (cs : List (Bool × Nat)) : Option TrapInfo :=
  (cs.find? fun c => c.1).map fun c => trapOf stTileOperand c.2

/-- Whether a write of a tile's stored granules meets a tile that was valid when the instance started (R188). -/
def Inst.protectsTile (v : Inst) (h : HdrView) : Bool := (List.range h.granules).any fun k => v.isProtected (h.base + k)

/-- The handle of a tile. -/
def State.tileHandle (s : State) (v : Inst) (t : Tile) : Nat := handleOf t.cell (s.ctx v.place.ctx).home t.index

/-- Write a tile of the own cell: its granules, its dirty bit and its producer state (R187; 19 R346). -/
def State.writeTile (s : State) (id : Nat) (v : Inst) (t : Tile) (bs : List Byte) (prod : Producer) : State :=
  (s.pokeOwn id v (t.hdr.base * 64) bs).touch id v t.hdr.base (t.hdr.base + bs.length / 64 - 1) prod

/-- The tile's granules are ready after a latency. -/
def State.holdTile (s : State) (id idx latency : Nat) : State :=
  s.modInst id fun u => { u with busy := putA u.busy (tileKey idx) (s.clk + latency) }

/-- Put a new stage into the instance of a state. -/
def State.setStage (s : State) (id : Nat) (st : Stage) : State := s.modInst id fun u => { u with stage := st }

/-! ## Weight entries -/

/-- Write a weight entry from a tile (R191, R192). -/
def loadWeight (s : State) (id : Nat) (v : Inst) (t : Tile) (slot entry base : Nat) (w : WEntry) : Done :=
  let i := slot * 8 + entry
  let lat := base + t.hdr.granules + s.remoteExtra v t
  let s := s.setWeight id v i w
  .next (s.modInst id fun u => { u with busy := putA u.busy (weightKey i) (s.clk + lat) }) lat

/-- `wld` (R191). -/
def execWld (f : RForm) (s : State) : Host.Outcome State Fault Refusal :=
  issue (.wld f) (fun s id v =>
    match s.tile v (v.regs.getX f.a) with
    | .error t => .trap s t
    | .ok t =>
      let c := bit f.fn 3
      let cols := if c then imageBytes f.ty / 16 else 16
      match operandTrap [(t.hdr.ty ≠ (if c then .n8 else f.ty), 1), (t.hdr.rows ≠ 16 || t.hdr.cols ≠ cols, 2)] with
      | some e => .trap s e
      | none =>
        readTiles s v [] [t] fun s =>
          let bs := s.tileBytes v t
          loadWeight s id v t f.d (f.fn % 8) 4
            { valid := true, comp := c, ty := f.ty, band := t.hdr.band, source := s.tileHandle v t,
              data := if c then bs.take (imageBytes f.ty) else denseBytes f.ty bs }) s

/-- `wcmp` (R192). -/
def execWcmp (f : RForm) (s : State) : Host.Outcome State Fault Refusal :=
  issue (.wcmp f) (fun s id v =>
    match s.tile v (v.regs.getX f.a) with
    | .error t => .trap s t
    | .ok t =>
      match operandTrap [(t.hdr.ty ≠ f.ty, 1), (t.hdr.rows ≠ 16 || t.hdr.cols ≠ 16, 2)] with
      | some e => .trap s e
      | none =>
        readTiles s v [] [t] fun s =>
          loadWeight s id v t f.d (f.fn % 8) 8
            { valid := true, comp := true, ty := f.ty, band := t.hdr.band, source := s.tileHandle v t,
              data := compressImage f.ty t.hdr.band (s.tileBytes v t) }) s

/-! ## Headers -/

/-- Whether word 0 of a header keeps R141's limits and R142. -/
def headerFits (h : HdrView) (code : Nat) : Bool :=
  (match Ty.ofCode code with | some t => t ≠ .i64 && t ≠ .n64 && t ≠ .f32pair | none => false) &&
    !(h.ty = .e2m1 && h.cols % 8 ≠ 0) && h.granules ≤ h.count && h.base + h.count ≤ 640 && 1 ≤ h.count

/-- `thdr` (R203): f = 0, 1 read word 0 or 1; f = 2 writes the band, f = 3 clears the dirty bit, f = 4 writes format, rows
and cols. -/
def execThdr (f : RForm) (s : State) : Host.Outcome State Fault Refusal :=
  issue (.thdr f) (fun s id v =>
    match s.tile v (v.regs.getX f.a) with
    | .error t => .trap s t
    | .ok t =>
      let fn := f.fn % 8
      let lat := if t.cell = v.place.cell then 2 else s.tileLatency v t
      if fn = 0 then .next (s.setInst id { v with regs := v.regs.setX f.d t.hdr.word0 }) lat
      else if fn = 1 then .next (s.setInst id { v with regs := v.regs.setX f.d t.hdr.word1 }) lat
      else if t.cell ≠ v.place.cell then .trap s (trapOf stTileOperand 3)
      else
        let b := v.regs.getX f.b
        let prod := some (s.unlogged v.place.ctx)
        if fn = 2 then .next (s.writeHeader id v { HdrDelta.none t.index with band := some (b.truncate 16), producer := prod }) 2
        else if fn = 3 then .next (s.writeHeader id v { HdrDelta.none t.index with clearDirty := true }) 2
        else
          let δ := { HdrDelta.none t.index with shape := some b, producer := prod }
          let w := δ.apply v.place.ctx (t.hdr.word0, t.hdr.word1)
          if headerFits (HdrView.ofWords w.1 w.2) (bits b.toNat 56 52) then .next (s.writeHeader id v δ) 2
          else .trap s (trapOf stBadHeader 0)) s

/-- The header index and granule range that a staged header write allocates. -/
def HdrDelta.allocated (δ : HdrDelta) : Option (Nat × Nat × Nat) :=
  δ.alloc.map fun w => let h := HdrView.ofWords w 0#64; (δ.index, h.base, h.count)

/-- The header indices and granule ranges that a context holds in a cell: its valid headers, and those that `reverse` has
staged there (R201; 20 R355). -/
def State.cellHeld (s : State) (c cell : Nat) : List (Nat × Nat × Nat) :=
  ((s.cell c cell).hdrs.filterMap fun e =>
    let h := HdrView.ofWords e.2.1 e.2.2
    if h.valid then some (e.1, h.base, h.count) else none) ++
  s.insts.flatMap fun i =>
    if i.2.place.ctx = c then i.2.stage.remoteAllocs.filterMap fun r => if r.1 = cell then r.2.allocated else none else []

/-- The granule ranges that a cell's headers hold, with those its instance has staged as allocated (R201). -/
def State.heldRanges (s : State) (v : Inst) : List (Nat × Nat × Nat) :=
  s.cellHeld v.place.ctx v.place.cell ++ v.stage.hdrs.filterMap HdrDelta.allocated

/-- The lowest free header index and the lowest base with `count` free granules, beside those held (R201). -/
def freePlace (held : List (Nat × Nat × Nat)) (count : Nat) : Option (Nat × Nat) :=
  let idx := (List.range 64).find? fun i => !held.any fun h => h.1 = i
  let base := (List.range (641 - count)).find? fun b => held.all fun h => b + count ≤ h.2.1 || h.2.1 + h.2.2 ≤ b
  match idx, base with
  | some i, some b => some (i, b)
  | _, _ => none

/-- The place that `talloc` takes in the instance's cell (R201). -/
def State.findSpace (s : State) (v : Inst) (count : Nat) : Option (Nat × Nat) := freePlace (s.heldRanges v) count

/-- Word 0 of a newly allocated header (R141, R201). -/
def newHeader (t : Ty) (rows cols base count : Nat) (band : BitVec 16) : Word :=
  BitVec.ofNat 64 (2 ^ 63 + t.code * 2 ^ 52 + (rows - 1) * 2 ^ 44 + (cols - 1) * 2 ^ 36 + base * 2 ^ 26 + count * 2 ^ 16 + band.toNat)

/-- The value of an allocation that finds no space. -/
def noSpace : Word := BitVec.allOnes 64

/-- `talloc` (R201). -/
def execTalloc (f : RForm) (s : State) : Host.Outcome State Fault Refusal :=
  issue (.talloc f) (fun s id v =>
    let n := (v.regs.getX f.a).toNat
    let rows := n % 256 + 1
    let cols := n / 256 % 256 + 1
    let count := storedGranules f.ty rows cols
    if n ≥ 2 ^ 16 ∨ (f.ty = .e2m1 ∧ cols % 8 ≠ 0) ∨ 640 < count then .trap s (trapOf stBadHeader 0)
    else
      match s.findSpace v count with
      | none => .next (s.setInst id { v with regs := v.regs.setX f.d noSpace }) 2
      | some (i, b) =>
        let h := handleOf v.place.cell (s.ctx v.place.ctx).home i
        let v := { v with regs := v.regs.setX f.d (BitVec.ofNat 64 h) }
        let δ := { HdrDelta.none i with alloc := some (newHeader f.ty rows cols b count 0x3F80#16), producer := some .none }
        .next ((s.setInst id v).writeHeader id v δ) 2) s

/-- `tfree` (R202). -/
def execTfree (f : RForm) (s : State) : Host.Outcome State Fault Refusal :=
  issue (.tfree f) (fun s id v =>
    match s.tile v (v.regs.getX f.a) with
    | .error t => .trap s t
    | .ok t =>
      if t.cell ≠ v.place.cell then .trap s (trapOf stTileOperand 3)
      else .next (s.writeHeader id v { HdrDelta.none t.index with freed := true }) 2) s

/-- `settle` (R204): a copy of the granules in a new tile of the own cell; the old header is freed at commit, or at once in
a tail. -/
def execSettle (f : RForm) (s : State) : Host.Outcome State Fault Refusal :=
  issue (.settle f) (fun s id v =>
    let a := v.regs.getX f.a
    match s.tile v a with
    | .error t => .trap s t
    | .ok t =>
      if t.cell = v.place.cell then .next (s.setInst id { v with regs := v.regs.setX f.d a }) 2
      else
        let count := t.hdr.granules
        match s.findSpace v count with
        | none => .next (s.setInst id { v with regs := v.regs.setX f.d noSpace }) 2
        | some (i, b) =>
          -- a copy that meets an uncorrectable error is abandoned (24 R396)
          if s.tilePoisoned v t && !s.tilePending v t then
            .next ((s.setInst id { v with regs := v.regs.setX f.d noSpace }).noticePoison v.place.ctx t.cell t.hdr.base
              (t.hdr.base + t.hdr.count - 1) v.place.launch) 2
          else
          readTiles s v [] [t] fun s =>
          let h := handleOf v.place.cell (s.ctx v.place.ctx).home i
          match s.log v ⟨1, 0x7D, f.fn % 256, 0, 0, 0, false, false⟩ (some h) [(a.toNat, false)] 0#64 with
          | .error t => .trap s t
          | .ok (st, prod) =>
            let bs := (s.tileBytes v t).take (count * 64)
            let st := if v.committed then st else { st with remoteFrees := st.remoteFrees ++ [(t.cell, t.index)] }
            let v := { v with regs := v.regs.setX f.d (BitVec.ofNat 64 h), stage := st }
            let s := (s.setInst id v).writeHeader id v
              { HdrDelta.none i with alloc := some (newHeader t.hdr.ty t.hdr.rows t.hdr.cols b count t.hdr.band),
                                     setDirty := true, producer := some prod }
            let s := s.pokeOwn id v (b * 64) bs
            let s := if v.committed then
                s.modCell v.place.ctx t.cell fun x => x.applyDelta v.place.ctx { HdrDelta.none t.index with freed := true }
              else s
            let lat := s.tileLatency v t + count + 2
            .next (s.holdTile id i lat) lat) s

/-! ## The matrix multiply -/

/-- The rate class of a weight type (R193). -/
def rateClass (t : Ty) : Nat :=
  match t with
  | .e2m1 => 2
  | .e4m3 | .e5m2 => 1
  | _ => 0

/-- `mma` (R193, R194, R196): the operation enters the matrix unit; its values are computed here, or for a gang when every
member's operation is there. -/
def execMma (f : RForm) (s : State) : Host.Outcome State Fault Refusal :=
  issue (.mma f) (fun s id v =>
    let x := s.cell v.place.ctx v.place.cell
    let i := f.b.val * 8 + f.fn.val % 8
    let w := s.weight v i
    let z := bit f.fn 3
    let member : Bool := match v.gang with | some g => v.place.cell % g ≠ 0 | none => false
    let push (s : State) (extra : Nat) (word0 : Word) (handle : Nat) (data : List Byte) : State :=
      let s := s.modInst id fun u =>
        { u with busy := putA (putA u.busy (regKey (.acc, f.d.val)) unknownClk) (weightReadKey i) unknownClk }
      s.pushMx v.place.slot v.place.ctx v.place.cell
        { inst := id, acc := f.d, entry := i, ty := f.ty, zero := z,
          extra := (if x.latched = some i then 0 else 4) + extra, issuedAt := s.clk, first := none,
          rows := rowTime f.ty w.comp, queued := false, gang := v.gang.isSome, xWord0 := word0, xHandle := handle, xData := data }
    let weightCauses : List (Bool × Nat) := [(!w.valid, 4), (rateClass w.ty ≠ rateClass f.ty, 5)]
    if member && f.a.val ≠ 0 then .settled (s.gangTrap v (v.gang.getD 1) 4)
    else if member then
      match operandTrap weightCauses with
      | some e => .trap s e
      | none =>
        if x.mxFull s.clk then .stall s
        else
          let s := settle (.mma f) id v s (.next (push s 0 0#64 0 []) 1)
          .settled (s.gangKick v (v.gang.getD 1))
    else
      match s.tile v (v.regs.getX f.a) with
      | .error t => .trap s t
      | .ok t =>
        match operandTrap (((decide (t.hdr.ty ≠ f.ty), 1) :: (t.hdr.rows ≠ 16 || t.hdr.cols ≠ 16, 2) :: weightCauses)) with
        | some e => .trap s e
        | none =>
          if x.mxFull s.clk then .stall s else
          readTiles s v [] [t] fun s =>
            match s.log v ⟨1, 0x73, f.fn % 256, f.d, f.b, f.fn % 8, w.comp, false⟩ none
                [(s.tileHandle v t, false), (w.source, true)] 0#64 with
            | .error t => .trap s t
            | .ok (st, _) =>
              let bs := s.tileBytes v t
              let v' := { v with stage := st }
              let s := s.setInst id v'
              let s := if v.gang.isSome then s
                else s.setAcc id v' (mmaElements (s.accElem v f.d) z f.d (tileFp t.hdr bs) w.value)
              let s := push s (s.remoteExtra v t) t.hdr.word0 (s.tileHandle v t) bs
              if v.gang.isSome then
                .settled ((settle (.mma f) id v s (.next s 1)).gangKick v (v.gang.getD 1))
              else .next s 1) s

/-! ## Gangs -/

/-- `gangon` (R195, R207): a member waits until all have joined. -/
def execGangon (f : RForm) (s : State) : Host.Outcome State Fault Refusal :=
  issue (.gangon f) (fun s id v =>
    let g := gangSize (f.fn % 4)
    let base := v.place.cell / g * g
    let mates := s.gangMates v g
    match lookupA s.segs v.place.seg with
    | none => .stall s
    | some seg =>
      -- a member of another size whose cells overlap this gang's (cause 2)
      let other := (s.segInsts v.place.seg).find? fun i =>
        match i.2.joining with
        | some h => h ≠ g && i.2.place.cell / max g h = v.place.cell / max g h
        | none => false
      if v.gang.isSome then .settled (s.gangTrap v (v.gang.getD g) 5)
      else if base < seg.openCell ∨ seg.openCell + seg.seglen < base + g then .settled (s.gangTrap v g 1)
      else if other.isSome || mates.any fun i => match i.2.gang with | some h => h ≠ g | none => false then
        .settled (s.gangTrap v (max g ((other.bind fun i => i.2.joining).getD g)) 2)
      else if mates.any fun i => i.2.finished then .settled (s.gangTrap v g 3)
      else
        let s := settle (.gangon f) id v s (.wait (s.setInst id { v with joining := some g }) .gang)
        let mates := s.gangMates v g
        if mates.length = g && mates.all fun i => i.2.joining = some g then
          .settled (mates.foldl (fun s i =>
            ((s.modInst i.1 fun u => { u with joining := none, gang := some g }).complete i.1 (.gangon f) fun r => r).modInst i.1
              fun u => { u with wake := some (s.clk + 1) }) s)
        else .settled s) s

/-- `gangoff` (R195; 15 R310): it completes 2 clk after the member's last row. -/
def execGangoff (s : State) : Host.Outcome State Fault Refusal :=
  issue .gangoff (fun s id v =>
    if v.gang.isNone then .trap s (trapOf stGang 5)
    else if (s.cell v.place.ctx v.place.cell).passingRows s.clk then .stall s
    else .next (s.setInst id { v with gang := none }) 1) s

/-! ## Accumulators -/

/-- `accrd` (R197). -/
def execAccrd (f : RForm) (s : State) : Host.Outcome State Fault Refusal :=
  issue (.accrd f) (fun s id v =>
    let row := (v.regs.getX f.b).toNat
    if 15 < row then .trap s (trapOf stTileOperand 2)
    else .next (s.setInst id { v with
      regs := v.regs.setV f.d (VecVal.ofFn (fun j => s.accElem v f.a row j) (fun _ => true)) }) 4) s

/-- `accwr` (R197): the selected and valid lanes; its entry says which elements it wrote (19 R344). -/
def execAccwr (f : RForm) (s : State) : Host.Outcome State Fault Refusal :=
  issue (.accwr f) (fun s id v =>
    let row := (v.regs.getX f.b).toNat
    let src := v.regs.getV f.a
    let lanes := (List.range 16).filter fun j => v.regs.selects f.mask f.neg j && src.ok j
    if 15 < row then .trap s (trapOf stTileOperand 2)
    else
      match s.log v ⟨1, 0x77, row, f.d, 0, 0, false, false⟩ none [] (BitVec.ofNat 64 (lanes.foldl (fun m j => m + 2 ^ j) 0)) with
      | .error t => .trap s t
      | .ok (st, _) =>
        let v := { v with stage := st }
        .next ((s.setInst id v).setAcc id v (lanes.map fun j => (f.d.val * 256 + row * 16 + j, src.lane j))) 2) s

/-- `acczero` (R197). -/
def execAcczero (f : RForm) (s : State) : Host.Outcome State Fault Refusal :=
  issue (.acczero f) (fun s id v =>
    match s.log v ⟨1, 0x78, f.fn % 256, f.d, 0, 0, false, false⟩ none [] 0#64 with
    | .error t => .trap s t
    | .ok (st, _) =>
      let v := { v with stage := st }
      .next ((s.setInst id v).setAcc id v ((List.range 256).map fun e => (f.d.val * 256 + e, 0#32))) 2) s

/-- A tile instruction's write of its destination: the protected-granule trap, its copybook entry, its bytes and a band
(R188, R198 to R200). -/
def tileResult (s : State) (id : Nat) (v : Inst) (t : Tile) (e : EntryInfo) (srcs : List (Nat × Bool)) (bs : List Byte)
    (band : Option (BitVec 16)) (latency : Nat) : Done :=
  if v.protectsTile t.hdr then .trap s (trapOf stProtected 0)
  else
    match s.log v e (some (s.tileHandle v t)) srcs 0#64 with
    | .error t => .trap s t
    | .ok (st, prod) =>
      let v := { v with stage := st }
      let s := (s.setInst id v).writeTile id v t bs prod
      let s := match band with
        | some b => s.writeHeader id v { HdrDelta.none t.index with band := some b }
        | none => s
      .next (s.holdTile id t.index latency) latency

/-- `acccvt` (R198). -/
def execAcccvt (f : RForm) (s : State) : Host.Outcome State Fault Refusal :=
  issue (.acccvt f) (fun s id v =>
    match s.tile v (v.regs.getX f.a) with
    | .error t => .trap s t
    | .ok t =>
      match operandTrap [(t.hdr.ty ≠ f.ty, 1), (t.hdr.rows ≠ 16 || t.hdr.cols ≠ 16, 2), (t.cell ≠ v.place.cell, 3)] with
      | some e => .trap s e
      | none =>
        readTiles s v [t] [] fun s =>
          let codes := (List.range 256).map fun e =>
            let w := (s.accElem v f.b (e / 16) (e % 16)).toNat
            if f.ty = .f32 then w else convertLane (Mode.ofCode v.hdr.round) .f32 f.ty w
          tileResult s id v t ⟨1, 0x79, f.fn % 256, f.b, 0, 0, false, false⟩ [] (packElements f.ty codes) none
            (4 + t.hdr.granules)) s

/-! ## Quantisation and elementwise operations -/

/-- The stored bytes of elements quantised to e2m1 in groups of eight against a band (04 R91, R98). -/
def packE2m1 (mode : Mode) (band : Frac) (vs : List Fp) : List Byte :=
  let groups := (List.range (vs.length / 8)).map fun g => quantGroup mode band ((vs.drop (8 * g)).take 8)
  let codes := groups.flatMap (·.2)
  let els : List Byte := (List.range (codes.length / 2)).map fun i =>
    BitVec.ofNat 8 (codes.getD (2 * i) 0 + 16 * codes.getD (2 * i + 1) 0)
  let scales : List Byte := groups.map fun g => BitVec.ofNat 8 g.1
  let pad (bs : List Byte) : List Byte := bs ++ List.replicate ((bs.length + 63) / 64 * 64 - bs.length) 0#8
  pad els ++ pad scales

/-- The magnitude of a bf16 band. -/
def bandFrac (b : BitVec 16) : Frac := (FFmt.ofTy .bf16).magnitude false (b.toNat % 2 ^ 15)

/-- `quant` and `quantb` (R199): `given` is the band that `quantb` gives, when it is a positive finite number. -/
def quantise (f : RForm) (p : Nat) (given : Regs → Option (BitVec 16)) : State → Nat → Inst → Done := fun s id v =>
  match s.tile v (v.regs.getX f.a), s.tile v (v.regs.getX f.b) with
  | .error t, _ => .trap s t
  | _, .error t => .trap s t
  | .ok d, .ok b =>
    match operandTrap [(d.hdr.ty ≠ f.ty || !(b.hdr.ty = .f32 || b.hdr.ty = .bf16 || b.hdr.ty = .f16), 1),
        (d.hdr.rows ≠ b.hdr.rows || d.hdr.cols ≠ b.hdr.cols, 2), (d.cell ≠ v.place.cell, 3)] with
    | some e => .trap s e
    | none =>
      readTiles s v [d] [b] fun s =>
        let els := tileElements b.hdr (s.tileBytes v b)
        let mode := Mode.ofCode v.hdr.round
        let lat := s.tileLatency v b + max b.hdr.granules d.hdr.granules + 6
        let info : EntryInfo := ⟨1, p, f.fn % 256, 0, 0, 0, false, false⟩
        let srcs := [(s.tileHandle v b, false)]
        if f.ty ≠ .e2m1 then
          tileResult s id v d info srcs (packElements f.ty (els.map (convertDatum mode f.ty))) none lat
        else
          let vs := els.map Datum.toFp
          match given v.regs with
          | some band => tileResult s id v d info srcs (packE2m1 mode (bandFrac band) vs) (some band) lat
          | none =>
            let amax := amaxOf vs
            let band := if amax.num = 0 then d.hdr.band else BitVec.ofNat 16 (bandOf amax)
            tileResult s id v d info srcs (packE2m1 mode (bandFrac band) vs) (some band) (lat + b.hdr.granules)

/-- `quant` (R199). -/
def execQuant (f : RForm) (s : State) : Host.Outcome State Fault Refusal :=
  issue (.quant f) (quantise f 0x7A fun _ => none) s

/-- `quantb` (R199). -/
def execQuantb (f : RForm) (s : State) : Host.Outcome State Fault Refusal :=
  issue (.quantb f) (quantise f 0x7B fun r =>
    let m := (r.getX f.c).toNat % 2 ^ 15
    if m = 0 ∨ (FFmt.ofTy .bf16).maxCode < m then none else some (BitVec.ofNat 16 m)) s

/-- One element of `tew` (R200, "Operations of `tew`"). -/
def tewElement (t : Ty) (op : Nat) (b c : Datum) : Nat :=
  match b, c with
  | .int x, .int y =>
    writeInt t 32 (match op with | 0 => x + y | 1 => x - y | 2 => x * y | 3 => max x y | _ => min x y)
  | _, _ =>
    let x := b.toFp
    let y := c.toFp
    roundFp t (match op with | 0 => x.add y | 1 => x.add y.opp | 2 => x.mul y | 3 => Fp.max x y | _ => Fp.min x y)

/-- `tew` (R200). -/
def execTew (f : RForm) (s : State) : Host.Outcome State Fault Refusal :=
  issue (.tew f) (fun s id v =>
    let op := f.fn % 8
    let two := op ≠ 5
    match s.tile v (v.regs.getX f.a), s.tile v (v.regs.getX f.b), s.tile v (v.regs.getX (if two then f.c else f.b)) with
    | .error t, _, _ => .trap s t
    | _, .error t, _ => .trap s t
    | _, _, .error t => .trap s t
    | .ok d, .ok b, .ok c =>
      match operandTrap [(d.hdr.ty ≠ f.ty || b.hdr.ty ≠ f.ty || c.hdr.ty ≠ f.ty, 1),
          (d.hdr.rows ≠ b.hdr.rows || d.hdr.cols ≠ b.hdr.cols || d.hdr.rows ≠ c.hdr.rows || d.hdr.cols ≠ c.hdr.cols, 2),
          (d.cell ≠ v.place.cell, 3)] with
      | some e => .trap s e
      | none =>
        readTiles s v [d] (if two then [b, c] else [b]) fun s =>
          let lat := max (s.tileLatency v b) (s.tileLatency v c) + d.hdr.granules + 6
          let info : EntryInfo := ⟨1, 0x7C, f.fn % 256, 0, 0, 0, false, false⟩
          let hb := (s.tileHandle v b, false)
          let bb := s.tileBytes v b
          if two then
            let bs := tileElements b.hdr bb
            let cs := tileElements c.hdr (s.tileBytes v c)
            let codes := (List.range (d.hdr.rows * d.hdr.cols)).map fun k =>
              tewElement f.ty op (bs.getD k (.int 0)) (cs.getD k (.int 0))
            tileResult s id v d info [hb, (s.tileHandle v c, false)] (packElements f.ty codes) none lat
          else tileResult s id v d info [hb] (bb.take (d.hdr.granules * 64)) (some b.hdr.band) lat) s

end Sys2Proof.Machine
end

