-- ==== Sys2Proof/Machine/Scratch.lean ====
section
/-!
DEFINITION. Machine/Scratch.lean: scratch access and rings, primaries 0xA0 to 0xAA (11 R233 to R242).
-/

namespace Sys2Proof.Machine

/-- The byte address of an M form's access (R233). -/
def mAddr (f : MForm) (r : Regs) : Int := baseOffset (r.getX f.a) 32 f.off

/-- Take the banks of an access of `n` bytes: the clk that it waits, and 1 clk more when it crosses a granule (R233; 01
R18). -/
def State.takeBanks (s : State) (v : Inst) (a n : Nat) : State × Nat :=
  let p := s.takeBank v.place.ctx v.place.cell a
  if a / 64 = (a + n - 1) / 64 then p
  else
    let q := p.1.takeBank v.place.ctx v.place.cell (a + n - 1)
    (q.1, max p.2 q.2 + 1)

/-- Whether a scratch access meets a poisoned granule (24 R395). -/
def State.ownPoisoned (s : State) (v : Inst) (a n : Nat) : Bool :=
  s.poisonedAt v.place.ctx v.place.cell (a / 64) ((a + n - 1) / 64)

/-- A checked read of the own side: the bytes, the state with the banks taken, and the latency (R233; 01 R15). -/
def withRead (s : State) (v : Inst) (a : Int) (n align : Nat) (k : State → List Byte → Nat → Done) : Done :=
  match scratchAt a n align with
  | .error t => .trap s t
  | .ok a =>
    if s.ownPoisoned v a n then .trap s dataError
    else
      let p := s.takeBanks v a n
      k p.1 (s.sideBytes v v.place.cell a n) (5 + p.2)

/-- The 32-bit lane at a byte offset. -/
def laneOf (bs : List Byte) (k : Nat) : Lane := BitVec.ofNat 32 (wordOfBytes ((List.range 4).map fun b => bs.getD (k + b) 0#8))

/-- `vld` (R234): each selected lane is written and valid. -/
def execVld (f : MForm) (s : State) : Host.Outcome State Fault Refusal :=
  issue (.vld f) (fun s id v =>
    withRead s v (mAddr f v.regs) 64 4 fun s bs lat =>
      .next (s.setInst id { v with
        regs := v.regs.mergeV f.d (v.regs.selects f.mask f.neg) (fun j => laneOf bs (4 * j)) fun _ => true }) lat) s

/-- The bytes that a masked vector store leaves in place of `old`. -/
def storedLanes (v : VecVal) (sel : Nat → Bool) (old : List Byte) : List Byte :=
  (List.range 64).map fun k =>
    if sel (k / 4) && v.ok (k / 4) then (bytesOfWord 4 (v.lane (k / 4)).toNat).getD (k % 4) 0#8 else old.getD k 0#8

/-- `vst` (R234): lanes that are selected and valid. -/
def execVst (f : MForm) (s : State) : Host.Outcome State Fault Refusal :=
  issue (.vst f) (fun s id v =>
    match scratchAt (mAddr f v.regs) 64 4 with
    | .error t => .trap s t
    | .ok a =>
      let src := v.regs.getV f.d
      let sel := v.regs.selects f.mask f.neg
      let lanes := (List.range 16).filter fun j => sel j && src.ok j
      let s := (s.takeBanks v a 64).1
      -- granules that receive no byte are not written
      let touched := lanes.map fun j => a + 4 * j
      if touched.any fun b => v.isProtected (b / 64) then .trap s (trapOf stProtected 0)
      else
        .next (lanes.foldl (fun s j =>
          match s.store id v (a + 4 * j) (bytesOfWord 4 (src.lane j).toNat) with
          | .ok s => s
          | .error _ => s) s) 1) s

/-- `sld` (R235). -/
def execSld (f : MForm) (s : State) : Host.Outcome State Fault Refusal :=
  issue (.sld f) (fun s id v =>
    let n := Ty.width f.ty / 8
    withRead s v (mAddr f v.regs) n n fun s bs lat =>
      .next (s.setInst id { v with regs := v.regs.setX f.d (BitVec.ofInt 64 (readInt f.ty (wordOfBytes bs))) }) lat) s

/-- `sst` (R235). -/
def execSst (f : MForm) (s : State) : Host.Outcome State Fault Refusal :=
  issue (.sst f) (fun s id v =>
    let n := Ty.width f.ty / 8
    match scratchAt (mAddr f v.regs) n n with
    | .error t => .trap s t
    | .ok a =>
      let s := (s.takeBanks v a n).1
      match s.store id v a (bytesOfWord n (v.regs.getX f.d).toNat) with
      | .error t => .trap s t
      | .ok s => .next s 1) s

/-- The address of a gathered lane: a base register plus an n32 offset lane (R236). -/
def laneAddr (base : Word) (off : Lane) : Int := base.toInt + off.toNat

/-- The addresses of participating lanes, or the first trap (R236). -/
def laneAddrs (base : Word) (offs : VecVal) (lanes : List Nat) : Except TrapInfo (List (Nat × Nat)) :=
  lanes.foldr (fun j acc =>
    match scratchAt (laneAddr base (offs.lane j)) 4 4, acc with
    | .error t, _ => .error t
    | _, .error t => .error t
    | .ok a, .ok as => .ok ((j, a) :: as)) (.ok [])

/-- Lanes in the busiest bank (R236). -/
def busiest (as : List (Nat × Nat)) : Nat :=
  (List.range 4).foldl (fun m b => max m (as.filter fun p => bankOf p.2 = b).length) 0

/-- `vgath` (R236). -/
def execVgath (f : RForm) (s : State) : Host.Outcome State Fault Refusal :=
  issue (.vgath f) (fun s id v =>
    let offs := v.regs.getV f.b
    let sel := v.regs.selects f.mask f.neg
    match laneAddrs (v.regs.getX f.a) offs ((List.range 16).filter fun j => sel j && offs.ok j) with
    | .error t => .trap s t
    | .ok as =>
      if as.any fun p => s.ownPoisoned v p.2 4 then .trap s dataError
      else
        let val (j : Nat) : Lane := match lookupA as j with | some a => laneOf (s.sideBytes v v.place.cell a 4) 0 | none => 0#32
        .next (s.setInst id { v with regs := v.regs.mergeV f.d sel val offs.ok }) (5 + busiest as)) s

/-- `vscat` (R236): in rising lane order, so that the higher lane's value stands. -/
def execVscat (f : RForm) (s : State) : Host.Outcome State Fault Refusal :=
  issue (.vscat f) (fun s id v =>
    let src := v.regs.getV f.a
    let offs := v.regs.getV f.c
    let sel := v.regs.selects f.mask f.neg
    match laneAddrs (v.regs.getX f.b) offs ((List.range 16).filter fun j => sel j && src.ok j && offs.ok j) with
    | .error t => .trap s t
    | .ok as =>
      if as.any fun p => v.isProtected (p.2 / 64) then .trap s (trapOf stProtected 0)
      else
        .next (as.foldl (fun s p =>
          match s.store id v p.2 (bytesOfWord 4 (src.lane p.1).toNat) with
          | .ok s => s
          | .error _ => s) s) (max 1 (busiest as))) s

/-! ## Rings (R240 to R242) -/

/-- Change a ring of the instance's cell. -/
def State.setRing (s : State) (v : Inst) (n : Nat) (r : Ring) : State :=
  s.modCell v.place.ctx v.place.cell fun x => { x with rings := putA x.rings n r }

/-- A ring instruction that moves the counters once enough entries are there, writing the old index (R242). -/
def ringMove (f : IForm) (avail : Ring → Nat) (old : Ring → Nat) (move : Ring → Nat → Ring) : State → Nat → Inst → Done :=
  fun s id v =>
    let n := (v.regs.getX f.a).toNat % 2 ^ 32
    let i := bits f.imm 3 0
    match ringCheck (s.ring v i) n with
    | .error t => .trap s t
    | .ok r =>
      if n ≤ avail r then
        .next ((s.setInst id { v with regs := v.regs.setX f.d (BitVec.ofNat 64 (old r)) }).setRing v i (move r n)) 1
      else .stall s

/-- `rpush` (R242). -/
def execRpush (f : IForm) (s : State) : Host.Outcome State Fault Refusal :=
  issue (.rpush f) (ringMove f (fun r => r.entries - r.filled) (·.tail)
    fun r n => { r with tail := (r.tail + n) % r.entries, filled := r.filled + n }) s

/-- `rpop` (R242). -/
def execRpop (f : IForm) (s : State) : Host.Outcome State Fault Refusal :=
  issue (.rpop f) (ringMove f (·.filled) (·.head)
    fun r n => { r with head := (r.head + n) % r.entries, filled := r.filled - n }) s

/-- The new value of a `ratom` by its operation (R238). -/
def ratomNew (t : Ty) (op old v : Nat) : Nat :=
  if t = .f32 then
    match op with
    | 0 => f32Bits ((f32 old).add (f32 v))
    | 1 => f32Bits (Fp.min (f32 old) (f32 v))
    | 2 => f32Bits (Fp.max (f32 old) (f32 v))
    | _ => v
  else
    let a := readInt t old
    let b := readInt t v
    match op with
    | 0 => writeInt t 32 (a + b) % 2 ^ 32
    | 1 => writeInt t 32 (min a b) % 2 ^ 32
    | 2 => writeInt t 32 (max a b) % 2 ^ 32
    | 3 => v
    | 4 => old &&& v
    | _ => old ||| v

/-- A 32- or 64-bit value extended into a scalar register: signed for i32, else by zeros (R238; 12 R264). -/
def extendTo (t : Ty) (w : Nat) : Word := if Ty.isFloat t then BitVec.ofNat 64 w else BitVec.ofInt 64 (readInt t w)

/-- `ratom` (R238). -/
def execRatom (f : MForm) (s : State) : Host.Outcome State Fault Refusal :=
  issue (.ratom f) (fun s id v =>
    match scratchAt (baseOffset (v.regs.getX f.a) 29 (f.off % 2 ^ 29)) 4 4 with
    | .error t => .trap s t
    | .ok a =>
      if s.ownPoisoned v a 4 then .trap s dataError
      else
        let old := wordOfBytes (s.sideBytes v v.place.cell a 4)
        let new := ratomNew f.ty (f.off / 2 ^ 29) old ((v.regs.getX f.d).toNat % 2 ^ 32)
        let p := s.takeBanks v a 4
        let s := p.1.setInst id { v with regs := v.regs.setX f.d (extendTo f.ty old) }
        match s.store id v a (bytesOfWord 4 new) with
        | .error t => .trap s t
        | .ok s => .next s (5 + p.2)) s

/-- `tld` (R237). -/
def execTld (f : RForm) (s : State) : Host.Outcome State Fault Refusal :=
  issue (.tld f) (fun s id v =>
    match s.tile v (v.regs.getX f.a) with
    | .error t => .trap s t
    | .ok t =>
      let g := (v.regs.getX f.b).toNat
      if t.hdr.count ≤ g then .trap s (trapOf stTileOperand 2)
      else if s.tilePending v t then .stall s
      else if s.poisonedAt v.place.ctx t.cell (t.hdr.base + g) (t.hdr.base + g) then .trap s dataError
      else
        let bs := s.sideBytes v t.cell ((t.hdr.base + g) * 64) 64
        let s := if t.cell = v.place.cell then s else s.count v.place.ctx v.place.cell 6 1
        .next (s.setInst id { v with regs := v.regs.setV f.d (VecVal.ofFn (fun j => laneOf bs (4 * j)) fun _ => true) })
          (s.tileLatency v t)) s

/-- Whether a command fills or drains a ring of a context's cell. -/
def Command.usesRing (k : Command) (c cell ring : Nat) : Bool :=
  let names (e : Word) : Bool := bits e.toNat 63 61 = 2 && bits e.toNat 28 16 = cell && bits e.toNat 3 0 = ring
  k.ctx = c && (names k.desc.src.endpoint || names k.desc.dst.endpoint)

/-- `rinit` (R241): it waits while a copy command that has been issued fills or drains the ring, begun or not (log 48). -/
def execRinit (f : IForm) (s : State) : Host.Outcome State Fault Refusal :=
  issue (.rinit f) (fun s _ v =>
    let n := (v.regs.getX f.a).toNat
    let i := bits f.imm 3 0
    let base := bits n 9 0
    let size := bits n 17 12
    let entries := bits n 28 20
    let other := n - base - size * 2 ^ 12 - entries * 2 ^ 20
    let overlaps := (List.range 64).any fun k =>
      let w := s.ownHeader v k
      let h := HdrView.ofWords w.1 w.2
      h.valid && h.base < base + entries * size && base < h.base + h.count
    if size = 0 ∨ 32 < size ∨ entries = 0 ∨ 256 < entries ∨ other ≠ 0 ∨ 640 < base + entries * size ∨ overlaps then
      .trap s (trapOf stRing 2)
    else if s.commands.any fun k => k.2.usesRing v.place.ctx v.place.cell i then .stall s
    else .next (s.setRing v i { base, size, entries, head := 0, tail := 0, filled := 0 }) 1) s

end Sys2Proof.Machine
end

