-- ==== Sys2Proof/Machine/Copy.lean ====
section
/-!
DEFINITION. Machine/Copy.lean: far words, copy commands, counters, streams and fences, primaries 0xB0 to 0xBB, and the
events of the far memory and of the copy engines (11 R244 to R258; 22 R369, R371; 24 R390, R395).
-/

namespace Sys2Proof.Machine

/-! ## Streams (R257) -/

/-- The next sequence number of the current stream is used by a far access. -/
def Inst.tickStream (v : Inst) : Inst :=
  { v with seqs := putA v.seqs v.stream (getD 0 v.seqs v.stream + 1) }

/-- `smark` (R257): the stream's next sequence number. -/
def execSmark (f : IForm) (s : State) : Host.Outcome State Fault Refusal :=
  issue (.smark f) (fun s id v =>
    let n := bits f.imm 2 0
    .next (s.setInst id { v with stream := n, regs := v.regs.setX f.d (BitVec.ofNat 64 (getD 0 v.seqs n)) }) 1) s

/-! ## Far words (R244, R245) -/

/-- The lease entry and offset of an M form's far reference, or the far-reference trap (R244). The signed offset is added
to bits [41:0] alone. -/
def State.farOperand (s : State) (v : Inst) (f : MForm) (align : Nat) : Except TrapInfo (Nat × Nat) :=
  let n := (v.regs.getX f.a).toNat
  let entry := bits n 47 42
  let off := (((bits n 41 0 : Nat) : Int) + signed 32 f.off) % (2 ^ 42 : Nat)
  let ranges := s.rangesOf v.place.launch
  let t (c : Nat) : TrapInfo := { status := stFarRef, cause := c, addr := n / 2 ^ 42 * 2 ^ 42 + off.toNat }
  if n ≥ 2 ^ 48 ∨ ranges.length ≤ entry then .error (t 1)
  else if off.toNat % align ≠ 0 then .error (t 2)
  else .ok (entry, off.toNat)

/-- The space of a lease entry's memory, for its latency. -/
def State.entryBase (s : State) (l entry : Nat) : Nat := (((s.rangesOf l)[entry]?).map (·.base)).getD 0

/-- `fld` (R245): it is performed at a clk between its issue and its arrival that a free value chooses (log 3); in a nonzero
stream it waits for the accesses before it (R257). -/
def execFld (f : MForm) (s : State) : Host.Outcome State Fault Refusal :=
  issue (.fld f) (fun s id v =>
    match s.farOperand v f (Ty.width f.ty / 8) with
    | .error t => .trap s t
    | .ok (entry, off) =>
      let lat := spaceLatency (s.entryBase v.place.launch entry) + 8
      let earlier := if v.stream = 0 then []
        else ((s.farReads.filter fun r => r.2.inst = id && r.2.stream = v.stream && r.2.value.isNone).map (·.1)) ++
          (s.commands.filter fun k => k.2.inst = id && k.2.stream = v.stream).map (·.1)
      let n := s.newFree
      let k := n.2.newId
      let s := { k.2 with farReads := putA k.2.farReads k.1 {
        inst := id, pc := v.pc, instr := .fld f, entry, off, performAt := 1 + Config.farReadDelay n.1 % lat,
        arriveAt := lat, stream := v.stream, after := earlier, scheduled := false, value := none } }
      .next (((s.setInst id v.tickStream).countRequest v.place.ctx).wakeFar) (unknownClk - s.clk)) s

/-- FAR_READ_REPLY (R245): the read is performed at its controller, and its value arrives at the instance. A lease fault
or a poisoned line stops the instance at the `fld` (24 R390, R395). -/
def execFarReadReply (k : Nat) (s : State) : Host.Outcome State Fault Refusal :=
  match lookupA s.farReads k with
  | none => .next s
  | some r =>
    match s.inst? r.inst, r.instr with
    | some v, .fld f =>
      let drop : State := { s with farReads := delA s.farReads k }
      match r.value with
      | some w =>
        .next ((drop.modInst r.inst fun u =>
          { u with regs := u.regs.setX f.d w, busy := putA u.busy (regKey (.x, f.d.val)) s.clk }).wakeFar)
      | none =>
        let n := Ty.width f.ty / 8
        let stop (t : TrapInfo) : State := (drop.modInst r.inst fun u => { u with pc := r.pc }).takeTrap r.inst t
        match leased (s.rangesOf v.place.launch) r.entry r.off n false with
        | none => .next (stop (leaseTrap r.entry r.off))
        | some a =>
          if !farExists a n then .fault (.noSuchFarAddress a)
          else if s.farPoisoned a n then .next (stop { status := stDataError, cause := 0, addr := a })
          else
            let w := BitVec.ofInt 64 (readInt f.ty (readNat s.mem a n))
            .next (({ s with farReads := putA s.farReads k { r with value := some w } }.schedule (max r.arriveAt s.clk)
              (.farReadReply k)).wakeFar)
    | _, _ => .next { s with farReads := delA s.farReads k }

/-- `fst` (R245): staged as one far write. -/
def execFst (f : MForm) (s : State) : Host.Outcome State Fault Refusal :=
  issue (.fst f) (fun s id v =>
    let n := Ty.width f.ty / 8
    match s.farOperand v f n with
    | .error t => .trap s t
    | .ok (entry, off) =>
      match s.stageFar id v (.fst entry off n (v.regs.getX f.d) v.stream) with
      | .error t => .trap s t
      | .ok s => .next (s.modInst id Inst.tickStream) 1) s

/-- `pref` (R246): no effect that a program can observe but time. -/
def execPref (f : MForm) (s : State) : Host.Outcome State Fault Refusal :=
  issue (.pref f) (fun s _ _ => .next s 1) s

/-- A far access meets no range or is not permitted: the expression ends with the lease-fault status, and the report card
has the far reference (24 R390). A fired send's fault is a notice (22 R371). -/
def State.leaseFault (s : State) (c l opnum openSeat ref : Nat) (notice : Bool) : State :=
  let s := s.report c { Card.ofStatus stLease (if notice then 3 else 1) with opnum, openSeat, addr := ref, launch := l }
  if notice then s else s.endExpression l stLease openSeat

/-- FAR_WRITE_PERFORMED (R245; 24 R390): a released far write is performed at its controller. -/
def execFarWritePerformed (k : Nat) (s : State) : Host.Outcome State Fault Refusal :=
  match lookupA s.farWrites k with
  | none => .next s
  | some w =>
    let s₁ : State := { s with farWrites := delA s.farWrites k }
    match w.work with
    | .counter .. => .next s₁
    | .bytes entry off data =>
      match leased w.ranges entry off data.length true with
      | none => .next (((s₁.leaseFault w.ctx w.launch w.opnum w.openSeat (farRef entry off) false).finishFar w.launch).wakeFar)
      | some a =>
        if farExists a data.length then .next (((s₁.pokeFar a data).finishFar w.launch).wakeFar)
        else .fault (.noSuchFarAddress a)
    | .physical a data =>
      if farExists a data.length then
        .next ((((s₁.pokeFar a data).modCtx w.ctx fun x =>
          { x with parks := x.parks.map fun r => if r.addr = a then { r with staged := false } else r }).finishFar w.launch).wakeFar)
      else .fault (.noSuchFarAddress a)

/-! ## Descriptors (R247, R248) -/

/-- The fifteen words of a stream parameter block. -/
def Stream.ofWords (ws : List Word) : Stream :=
  let w1 := (ws.getD 1 0#64).toNat
  { endpoint := ws.getD 0 0#64, run := bits w1 63 32,
    dims := (List.range (bits w1 3 0 - 1)).map fun i =>
      let w := (ws.getD (2 + i) 0#64).toNat
      (bits w 63 44, signed 44 (bits w 43 0)) }

/-- The bytes that a stream enumerates. -/
def Stream.total (t : Stream) : Nat := t.dims.foldl (fun n d => n * d.1) t.run

/-- The offsets at which a stream's runs begin, in the order of R248: dimension 1 varies fastest. -/
def runOffsets : List (Nat × Int) → List Int
  | [] => [0]
  | d :: ds => (runOffsets ds).flatMap fun o => (List.range d.1).map fun (i : Nat) => o + d.2 * (i : Int)

/-- The kind of an endpoint. -/
def endKind (e : Word) : Nat := bits e.toNat 63 61

/-- Whether an endpoint has a reserved kind or a bit that its kind does not assign ("Endpoint word"). -/
def endReserved (e : Word) : Bool :=
  let n := e.toNat
  match endKind e with
  | 0 => bits n 60 48 ≠ 0
  | 1 => bits n 60 57 ≠ 0
  | 2 => bits n 60 29 ≠ 0 || bits n 15 4 ≠ 0
  | 3 => bits n 60 16 ≠ 0
  | _ => true

/-- The lowest and the highest byte offset that a stream adds to its endpoint. -/
def Stream.span (t : Stream) : Int × Int :=
  t.dims.foldl (fun m d => let far := d.2 * ((d.1 - 1 : Nat) : Int); (m.1 + min 0 far, m.2 + max 0 far)) (0, (t.run : Int) - 1)

/-- A stream block's own faults: reserved bits (cause 2), dimensions (cause 3). -/
def blockCauses (ws : List Word) : List Nat :=
  let w1 := (ws.getD 1 0#64).toNat
  let d := bits w1 3 0
  (if bits w1 31 4 ≠ 0 || [13, 14, 15].any (fun i => ws.getD i 0#64 ≠ 0#64) || endReserved (ws.getD 0 0#64) then [2] else []) ++
  (if d = 0 || 12 < d || bits w1 63 32 = 0 ||
      (List.range 11).any (fun i =>
        let w := ws.getD (2 + i) 0#64
        if i + 1 < d then bits w.toNat 63 44 = 0 else w ≠ 0#64) ||
      (endKind (ws.getD 0 0#64) = 2 && d ≠ 1) then [3] else [])

/-- The bytes of an entry of a ring of the issuing cell, where the endpoint names one that is initialised. -/
def State.ringBytes? (s : State) (v : Inst) (e : Word) : Option Nat :=
  if endKind e = 2 && bits e.toNat 28 16 = v.place.cell then (s.ring v (bits e.toNat 3 0)).map fun r => 64 * r.size else none

/-- Types and combiners that `copyred` takes, with the element width (R247, R250). -/
def copyredWidth (code comb : Nat) : Option Nat :=
  match Ty.ofCode code with
  | some t =>
    if !(t = .f32 || t = .bf16 || t = .i32 || t = .n32) then none
    else if comb ≤ 3 || (comb = 8 && Ty.isFloat t) then some (Ty.width t / 8) else none
  | none => none

/-- The causes of the descriptor trap (R248); at determinism levels 1 and 2 a `copyred` of f32 or bf16 with add, mul or lse has
cause 5 (18 R334). -/
def State.descriptorCauses (s : State) (v : Inst) (red : Bool) (ws : List Word) : List Nat :=
  let ctl := (ws.getD 0 0#64).toNat
  let sw := (ws.drop 8).take 16
  let dw := ws.drop 24
  let src := Stream.ofWords sw
  let dst := Stream.ofWords dw
  let se := src.endpoint
  let de := dst.endpoint
  let span := src.span
  let base : Int := (bits se.toNat 15 0 : Nat)
  let ringBad (t : Stream) : Bool := match s.ringBytes? v t.endpoint with | some n => t.run % n ≠ 0 | none => false
  let peerSelf (e : Word) : Bool := endKind e = 1 && bits e.toNat 56 48 = s.dev.number
  let ringFar (e : Word) : Bool := endKind e = 2 && v.place.cellcount ≤ bits e.toNat 28 16
  (if endKind se = 3 && (base + span.1 < 0 || (Sys2Proof.Machine.sideBytes : Int) ≤ base + span.2) then [1] else []) ++
  (if bits ctl 40 0 ≠ 0 || (List.range 7).any (fun i => ws.getD (1 + i) 0#64 ≠ 0#64) || (!red && bits ctl 63 55 ≠ 0) then [2] else []) ++
  blockCauses sw ++ blockCauses dw ++
  (if src.total ≠ dst.total || ringBad src || ringBad dst then [3] else []) ++
  (if endKind de = 3 || (endKind se = 2 && bits se.toNat 28 16 ≠ v.place.cell) || ringFar se || ringFar de || peerSelf se ||
      peerSelf de || (bit ctl 47 && endKind de ≠ 1) || (red && 2 ≤ endKind de) then [4] else []) ++
  (if red then
    match copyredWidth (bits ctl 63 59) (bits ctl 58 55) with
    | none => [5]
    | some w =>
      let float := bits ctl 63 59 = Ty.code .f32 || bits ctl 63 59 = Ty.code .bf16
      let ordered := 0 < ((lookupA s.launches v.place.launch).map (·.level)).getD 0 && float && [0, 1, 8].contains (bits ctl 58 55)
      if src.run % w ≠ 0 || dst.run % w ≠ 0 || ordered then [5] else []
   else [])

/-- Whether a descriptor names an uninitialised ring of the issuing cell (R242). -/
def State.ringMissing (s : State) (v : Inst) (d : Desc) : Bool :=
  let bad (e : Word) : Bool := endKind e = 2 && bits e.toNat 28 16 = v.place.cell && (s.ring v (bits e.toNat 3 0)).isNone
  bad d.src.endpoint || bad d.dst.endpoint

/-- Read and check the descriptor of an M form (R247, R248). -/
def State.descriptor (s : State) (v : Inst) (f : MForm) (red : Bool) : Except TrapInfo Desc :=
  match scratchAt (mAddr f v.regs) 320 64 with
  | .error t => .error t
  | .ok a =>
    if s.ownPoisoned v a 320 then .error dataError
    else
      let bs := s.sideBytes v v.place.cell a 320
      let ws := (List.range 40).map fun i => BitVec.ofNat 64 (wordOfBytes ((bs.drop (8 * i)).take 8))
      let d : Desc := { ctl := ws.getD 0 0#64, src := Stream.ofWords ((ws.drop 8).take 16), dst := Stream.ofWords (ws.drop 24) }
      match (s.descriptorCauses v red ws).min? with
      | some c => .error (trapOf stDescriptor c)
      | none => if s.ringMissing v d then .error (trapOf stRing 1) else .ok d

/-! ## Copy commands (R249 to R251, R256) -/

/-- Completion of an instruction that stalls 5 clk while it reads its descriptor (R247). -/
def afterDescriptor (i : Instr) (id : Nat) (v : Inst) (s : State) : Done :=
  .settled ((settle i id v s (.next s 1)).modInst id fun u => { u with wake := some (s.clk + 5) })

/-- `copy` and `copyred`: a far or peer destination is staged, a ring destination goes to the engine at once, which stalls
while 64 commands are queued (R249, R251). -/
def copyEffect (i : Instr) (red : Bool) (f : MForm) : State → Nat → Inst → Done := fun s id v =>
  match s.descriptor v f red with
  | .error t => .trap s t
  | .ok d =>
    let counted (s : State) : State := (s.modInst id Inst.tickStream).count v.place.ctx v.place.cell 7 1
    if d.ringDest then
      let e := s.engineOf v.place.slot v.place.cell
      if 64 ≤ (s.queued e.1 e.2).length then .stall s
      else
        let earlier := if v.stream = 0 then []
          else ((s.farReads.filter fun r => r.2.inst = id && r.2.stream = v.stream && r.2.value.isNone).map (·.1)) ++
            (s.commands.filter fun k => k.2.inst = id && k.2.stream = v.stream).map (·.1)
        let p := s.enqueue { ctx := v.place.ctx, launch := v.place.launch, seg := v.place.seg, opnum := v.place.opnum,
                             openSeat := s.openSeatOf v.place.seg, inst := id, cell := v.place.cell, quarter := e.1, engine := e.2, red, desc := d, ranges := s.rangesOf v.place.launch,
                             stream := v.stream, after := earlier, released := false, send := false, readyAt := s.clk + 25,
                             running := false, sourceRead := false, data := [], poisoned := false, short := false, filled := 0,
                             cancelled := false }
        afterDescriptor i id v (counted p.2)
    else
      match s.stageFar id v (.copy red d v.stream) with
      | .error t => .trap s t
      | .ok s => afterDescriptor i id v (counted s)

/-- `copy` (R249). -/
def execCopy (f : MForm) (s : State) : Host.Outcome State Fault Refusal := issue (.copy f) (copyEffect (.copy f) false f) s

/-- `copyred` (R250). -/
def execCopyred (f : MForm) (s : State) : Host.Outcome State Fault Refusal :=
  issue (.copyred f) (copyEffect (.copyred f) true f) s

/-- `tsend` (R256): it reserves one of the 256 places, stalling while none is free. -/
def execTsend (f : MForm) (s : State) : Host.Outcome State Fault Refusal :=
  issue (.tsend f) (fun s id v =>
    let n := (v.regs.getX f.d).toNat
    match s.descriptor v f false with
    | .error t => .trap s t
    | .ok d =>
      if bits n 31 6 ≠ 0 then .trap s (trapOf stDescriptor 2)
      else if 256 ≤ (s.ctx v.place.ctx).reserved then .stall s
      else
        match s.stageFar id v (.tsend (bits n 5 0) (bits n 63 32) d v.stream) with
        | .error t => .trap s t
        | .ok s =>
          let s := s.modCtx v.place.ctx fun x => { x with reserved := x.reserved + 1 }
          afterDescriptor (.tsend f) id v (s.modInst id Inst.tickStream)) s

/-! ## The engines -/

/-- The corridor time between an engine and a cell of a command's context (01 R29). -/
def State.commandPath (s : State) (k : Command) (cell : Nat) : Nat :=
  s.enginePath k.quarter k.engine (s.devCell (s.ctx k.ctx).slot cell)

/-- The clk from an engine's start to the first granule from a command's source ("Copy timing"). -/
def State.sourceTime (s : State) (k : Command) : Nat :=
  let e := k.desc.src.endpoint
  match endKind e with
  | 0 => spaceLatency (((k.ranges[bits e.toNat 47 42]?).map (·.base)).getD 0)
  | 1 => 3000
  | _ => 10 + s.commandPath k k.cell

/-- Granules of a number of bytes. -/
def granulesOf (n : Nat) : Nat := (n + 63) / 64

/-- The ring of a context's cell that an endpoint names. -/
def State.ringAt (s : State) (c : Nat) (e : Word) : Option Ring := lookupA (s.cell c (bits e.toNat 28 16)).rings (bits e.toNat 3 0)

/-- Drop a command from its engine; the engine looks at its queue. -/
def State.dropCommand (s : State) (id : Nat) (k : Command) : State :=
  let s := ({ s with commands := delA s.commands id }.schedule s.clk (.copyStart k.quarter k.engine)).wakeFar
  (if k.send then s.retrySetups k.ctx else s).nudge (s.ctx k.ctx).slot

/-- COPY_START (R251): the oldest queued command of an engine starts, while fewer than four run there and what it must wait
for is done. A command with a ring destination delivers entries as granules arrive. -/
def execCopyStart (q e : Nat) (s : State) : Host.Outcome State Fault Refusal :=
  match s.queued q e with
  | [] => .next s
  | (id, k) :: _ =>
    let running := s.commands.filter fun j => j.2.quarter = q && j.2.engine = e && j.2.running
    if k.cancelled then .next (s.dropCommand id k)
    else if 4 ≤ running.length ∨ s.clk < k.readyAt ∨ !s.allDone k.after then .next s
    else
      let s := { s with commands := putA s.commands id { k with running := true } }
      let first := s.clk + s.sourceTime k
      let s := s.schedule (first + (if endKind k.desc.src.endpoint = 2 then 0 else granulesOf k.desc.src.total - 1)) (.copySourceRead id)
      let s := if k.desc.ringDest then
          s.schedule (first + s.commandPath k (bits k.desc.dst.endpoint.toNat 28 16)) (.ringFillEntry id)
        else s
      .next (s.schedule s.clk (.copyStart q e))

/-- How many bytes of a leased access are covered and permitted from its start on: whole granules (24 R390). -/
def coveredBytes (rs : List Range) (entry : Nat) (off : Int) (run : Nat) (write : Bool) : Nat × Nat :=
  match rs[entry]? with
  | some r =>
    if off < 0 ∨ !(if write then r.wr else r.rd) then (0, 0) else (r.base + off.toNat, min run (r.length - off.toNat))
  | none => (0, 0)

/-- What a command reads from its source: the bytes, whether a poisoned line or granule was among them, and whether a lease
fault ended the read; or an address that does not exist. -/
def State.sourceBytes (s : State) (k : Command) : Except Nat (List Byte × Bool × Bool) :=
  let t := k.desc.src
  let e := t.endpoint
  let offs := runOffsets t.dims
  let base : Int := if endKind e = 3 then (bits e.toNat 15 0 : Nat) else (bits e.toNat 41 0 : Nat)
  match endKind e with
  | 0 =>
    offs.foldl (fun acc o =>
      match acc with
      | .error x => .error x
      | .ok (bs, p, short) =>
        if short then acc
        else
          let c := coveredBytes k.ranges (bits e.toNat 47 42) (base + o) t.run false
          if c.2 > 0 && !farExists c.1 c.2 then .error c.1
          else .ok (bs ++ readBytes s.mem c.1 c.2, p || (c.2 > 0 && s.farPoisoned c.1 c.2), decide (c.2 < t.run)))
      (.ok ([], false, false))
  | 1 =>
    if Config.peerRefuses s.fresh then .ok ([], false, true)
    else .ok ((Config.peerBytes s.fresh ++ List.replicate t.total 0#8).take t.total, false, false)
  | _ =>
    let side (o : Int) : Nat := (base + o).toNat
    .ok (offs.flatMap (fun o => readBytes s.scr (s.scrAddr k.ctx k.cell (side o)) t.run),
      offs.any (fun o => s.poisonedAt k.ctx k.cell (side o / 64) ((side o + t.run - 1) / 64)), false)

/-- The far reference of the first granule of a stream that its range does not cover or permit (24 R390). -/
def Stream.faultRef (t : Stream) (rs : List Range) (write : Bool) : Nat :=
  let e := t.endpoint.toNat
  let base : Int := (bits e 41 0 : Nat)
  let covered (o : Int) : Nat := (coveredBytes rs (bits e 47 42) (base + o) t.run write).2
  match (runOffsets t.dims).find? fun o => covered o < t.run with
  | some o => farRef (bits e 47 42) (((base + o) % (2 ^ 42 : Nat)).toNat + covered o)
  | none => bits e 47 0

/-- A command's lease fault: the rest of the command is dropped (24 R390). -/
def State.commandFault (s : State) (id : Nat) (k : Command) (ref : Nat) : State :=
  let s := (s.dropCommand id k).leaseFault k.ctx k.launch k.opnum k.openSeat ref k.send
  if k.released && !k.send then s.finishFar k.launch else s

/-- The command's source has been read: fences that wait for it go on, and a far or peer destination is performed 400 or
3,000 clk later. -/
def State.sourceDone (s : State) (id : Nat) (k : Command) : State :=
  let s := { s with commands := putA s.commands id { k with sourceRead := true } }
  if k.desc.ringDest then s
  else
    let time := s.clk + (if endKind k.desc.dst.endpoint = 1 then 3000 else 400)
    if k.red then s.scheduleArrival time (.copyComplete id) else s.schedule time (.copyComplete id)

/-- COPY_SOURCE_READ (R243, R258): the engine has read a command's last source granule; a source ring is drained entry by
entry, as its entries are filled. -/
def execCopySourceRead (id : Nat) (s : State) : Host.Outcome State Fault Refusal :=
  match lookupA s.commands id with
  | none => .next s
  | some k =>
    let e := k.desc.src.endpoint
    if k.cancelled then .next (s.dropCommand id k)
    else if endKind e = 2 then
      match s.ringAt k.ctx e with
      | none => .next (s.dropCommand id k)
      | some r =>
        if r.filled = 0 then .next (s.schedule (s.clk + 1) (.copySourceRead id))
        else
          let n := 64 * r.size
          let a := (r.base + r.head * r.size) * 64
          let bs := readBytes s.scr (s.scrAddr k.ctx k.cell a) n
          let bad := s.poisonedAt k.ctx k.cell (a / 64) ((a + n - 1) / 64)
          let r' := { r with head := (r.head + 1) % r.entries, filled := r.filled - 1 }
          let s := s.modCell k.ctx k.cell fun x => { x with rings := putA x.rings (bits e.toNat 3 0) r' }
          let k := { k with data := k.data ++ bs, poisoned := k.poisoned || bad }
          if k.desc.src.total ≤ k.data.length then .next ((s.sourceDone id k).wakeFar)
          else .next ({ s with commands := putA s.commands id k }.schedule (s.clk + r.size) (.copySourceRead id))
    else
      match s.sourceBytes k with
      | .error a => .fault (.noSuchFarAddress a)
      | .ok (bs, bad, short) =>
        let s := if endKind e = 1 then { s with fresh := s.fresh + 1 } else s
        .next ((s.sourceDone id { k with data := bs, poisoned := bad, short }).wakeFar)

/-- A command ends with a ring fault: its granules are dropped and its expression ends (R243). -/
def State.ringFault (s : State) (id : Nat) (k : Command) : State :=
  let s := (s.dropCommand id k).report k.ctx { Card.ofStatus stRingFault (if k.send then 3 else 1) with
    opnum := k.opnum, openSeat := k.openSeat, launch := k.launch }
  if k.send then s else s.endExpression k.launch stRingFault k.openSeat

/-- A command is complete: its counters are incremented 40 clk later, and its launch counts it (R249, R251, R253). -/
def State.completeCommand (s : State) (id : Nat) (k : Command) : State :=
  let ctl := k.desc.ctl.toNat
  let s := if bit ctl 54 then s.schedule (s.clk + 40) (.counterIncrement k.ctx (bits ctl 53 48)) else s
  let s := s.dropCommand id k
  let s := if k.poisoned then
      let s := s.report k.ctx { Card.ofStatus stDataError (if k.send then 3 else 1) with
        opnum := k.opnum, openSeat := k.openSeat, launch := k.launch }
      if k.send then s else s.endExpression k.launch stDataError k.openSeat
    else s
  if k.released && !k.send then s.finishFar k.launch else s

/-- RING_FILL_ENTRY (R243): the next entry of a command's stream is written to the destination ring and counts as filled;
without a free entry it waits in the corridor. A cancelled command ends at this boundary (R252). -/
def execRingFillEntry (id : Nat) (s : State) : Host.Outcome State Fault Refusal :=
  match lookupA s.commands id with
  | none => .next s
  | some k =>
    let e := k.desc.dst.endpoint
    let cell := bits e.toNat 28 16
    if k.cancelled then .next (s.dropCommand id k)
    else
      match s.ringAt k.ctx e with
      | none => .next (s.ringFault id k)
      | some r =>
        let n := 64 * r.size
        if k.desc.dst.run % n ≠ 0 then .next (s.ringFault id k)
        else if r.filled = r.entries then .next (s.schedule (s.clk + 1) (.ringFillEntry id))
        else
          -- the bytes that have left the source; before the last granule is read, those of the next entry are read now
          let read : Except Nat (List Byte × Bool × Bool) :=
            if k.sourceRead || endKind k.desc.src.endpoint = 2 then .ok (k.data, k.poisoned, k.short) else s.sourceBytes k
          match read with
          | .error a => .fault (.noSuchFarAddress a)
          | .ok (bs, bad, short) =>
            if bs.length < k.filled + n && short then .next (s.commandFault id k (k.desc.src.faultRef k.ranges false))
            else if bs.length < k.filled + n then .next (s.schedule (s.clk + 1) (.ringFillEntry id))
            else
              let a := (r.base + r.tail * r.size) * 64
              let s := (s.pokeSide k.ctx cell a ((bs.drop k.filled).take n)).touchCell k.ctx cell (a / 64) (a / 64 + r.size - 1)
                (s.unlogged k.ctx)
              let s := if bad then { s with poison := s.poison ++ (List.range r.size).map fun i => s.poisonKey k.ctx cell (a / 64 + i) } else s
              let r' := { r with tail := (r.tail + 1) % r.entries, filled := r.filled + 1 }
              let s := s.modCell k.ctx cell fun x => { x with rings := putA x.rings (bits e.toNat 3 0) r' }
              let k := { k with filled := k.filled + n }
              if k.desc.dst.total ≤ k.filled then .next ({ s with commands := putA s.commands id k }.schedule s.clk (.copyComplete id))
              else .next ({ s with commands := putA s.commands id k }.schedule (s.clk + r.size) (.ringFillEntry id))

/-- Combine arriving elements with those in place, `local ⊕ arriving` (R250). -/
def combineBytes (t : Ty) (comb : Nat) (old new : List Byte) : List Byte :=
  let w := Ty.width t / 8
  (List.range (new.length / w)).flatMap fun i =>
    let a := wordOfBytes ((old.drop (w * i)).take w)
    let b := wordOfBytes ((new.drop (w * i)).take w)
    let r := if t = .bf16 then
        let x := decodeFp .bf16 a
        let y := decodeFp .bf16 b
        roundFp .bf16 (match comb with | 0 => x.add y | 1 => x.mul y | 2 => Fp.max x y | 3 => Fp.min x y | _ => lseFp x y)
      else combine comb t a b
    bytesOfWord w r

/-- Write a command's data to its far destination, run by run, up to the first granule that its range does not cover or
that its source did not give: the state, and the far reference of the fault if there is one (24 R390). -/
def State.storeRuns (s : State) (k : Command) : List Int → Nat → State × Option Nat
  | [], _ => (s, none)
  | o :: os, m =>
    let t := k.desc.dst
    let e := t.endpoint.toNat
    let c := coveredBytes k.ranges (bits e 47 42) (((bits e 41 0 : Nat) : Int) + o) t.run true
    let new := (k.data.drop m).take c.2
    let ctl := k.desc.ctl.toNat
    let bs := if k.red then combineBytes ((Ty.ofCode (bits ctl 63 59)).getD .i32) (bits ctl 58 55) (readBytes s.mem c.1 new.length) new else new
    let s := if bs.isEmpty then s else s.pokeFar c.1 bs
    let lines := (List.range ((c.1 + bs.length - 1) / 64 + 1 - c.1 / 64)).map fun i => c.1 / 64 + i
    let s := if k.poisoned && !bs.isEmpty then { s with poison := s.poison ++ lines } else s
    if c.2 < t.run && c.2 ≤ new.length then (s, some (t.faultRef k.ranges true))
    else if new.length < c.2 then (s, some (k.desc.src.faultRef k.ranges false))
    else s.storeRuns k os (m + t.run)

/-- The first run of a command's destination at an address that does not exist. -/
def Command.badAddress (k : Command) : Option Nat :=
  let t := k.desc.dst
  let e := t.endpoint.toNat
  (((runOffsets t.dims).map fun o =>
    coveredBytes k.ranges (bits e 47 42) (((bits e 41 0 : Nat) : Int) + o) t.run true).find? fun c => c.2 > 0 && !farExists c.1 c.2).map (·.1)

/-- COPY_COMPLETE (R249): every destination byte of a command is performed. -/
def execCopyComplete (id : Nat) (s : State) : Host.Outcome State Fault Refusal :=
  match lookupA s.commands id with
  | none => .next s
  | some k =>
    if k.desc.farDest then
      match k.badAddress with
      | some a => .fault (.noSuchFarAddress a)
      | none =>
        match s.storeRuns k (runOffsets k.desc.dst.dims) 0 with
        | (s, none) => .next (s.completeCommand id k)
        | (s, some ref) => .next (s.commandFault id k ref)
    else if k.short then .next (s.commandFault id k (k.desc.src.faultRef k.ranges false))
    else if endKind k.desc.dst.endpoint = 1 then
      -- where the destination device's window does not take the write, the fault is recorded here (22 R369; 24 R390)
      let n := s.newFree
      if Config.peerRefuses n.1 then .next (n.2.commandFault id k (bits k.desc.dst.endpoint.toNat 47 0))
      else .next (n.2.completeCommand id k)
    else .next (s.completeCommand id k)

/-! ## Counters (R254, R255) -/

/-- COUNTER_INCREMENT (R249, R251): a completed command's counter is incremented at the hub, modulo 2^32. -/
def execCounterIncrement (c k : Nat) (s : State) : Host.Outcome State Fault Refusal := .next (s.setCounter c k (· + 1#32))

/-- COUNTER_UPDATE_APPLIED (R254): a released `ctrset` or `ctradd` takes effect at the counter file. -/
def execCounterUpdateApplied (c k : Nat) (set : Bool) (value : Lane) (s : State) : Host.Outcome State Fault Refusal :=
  let s := s.setCounter c k fun w => if set then value else w + value
  match s.farWrites.find? fun w => w.2.ctx = c && w.2.scheduled && w.2.work = .counter set k value with
  | some (n, w) => .next (({ s with farWrites := delA s.farWrites n }.finishFar w.launch).wakeFar)
  | none => .next s

/-- `ctrset` (R254). -/
def execCtrset (f : IForm) (s : State) : Host.Outcome State Fault Refusal :=
  issue (.ctrset f) (fun s id v =>
    match s.stageFar id v (.ctrset (bits f.imm 5 0) ((v.regs.getX f.a).truncate 32) v.stream) with
    | .error t => .trap s t
    | .ok s => .next (s.modInst id Inst.tickStream) 1) s

/-- `ctradd` (R254). -/
def execCtradd (f : IForm) (s : State) : Host.Outcome State Fault Refusal :=
  issue (.ctradd f) (fun s id v =>
    match s.stageFar id v (.ctradd (bits f.imm 5 0) ((v.regs.getX f.a).truncate 32) v.stream) with
    | .error t => .trap s t
    | .ok s => .next (s.modInst id Inst.tickStream) 1) s

/-- `ctrrd` (R254). -/
def execCtrrd (f : IForm) (s : State) : Host.Outcome State Fault Refusal :=
  issue (.ctrrd f) (fun s id v =>
    .next (s.setInst id { v with
      regs := v.regs.setX f.d (((s.ctx v.place.ctx).counter (bits f.imm 5 0)).zeroExtend 64) }) 1) s

/-- `ctrwait` (R254): it stalls until the counter is at least the threshold. -/
def execCtrwait (f : IForm) (s : State) : Host.Outcome State Fault Refusal :=
  issue (.ctrwait f) (fun s id v =>
    let n := (s.ctx v.place.ctx).counter (bits f.imm 5 0)
    if (v.regs.getX f.a).toNat % 2 ^ 32 ≤ n.toNat then
      .next (s.setInst id { v with regs := v.regs.setX f.d (n.zeroExtend 64) }) 1
    else .stall s) s

/-! ## Fences (R258) -/

/-- Whether every read that an instance issued before is performed: its `fld` and the far or peer sources of its commands. -/
def State.readsDone (s : State) (id : Nat) : Bool :=
  (s.farReads.all fun r => r.2.inst ≠ id || r.2.value.isSome) &&
    s.commands.all fun k => k.2.inst ≠ id || !k.2.desc.farSource || k.2.sourceRead

/-- `fence` (R258). -/
def execFence (f : ZForm) (s : State) : Host.Outcome State Fault Refusal :=
  issue (.fence f) (fun s id v =>
    let c := f.code.val
    if (bit c 0 || bit c 1) && !s.readsDone id then .stall s
    else if bit c 2 then
      match s.stageFar id v .barrier with
      | .error t => .trap s t
      | .ok s => .next s 1
    else .next s 1) s

end Sys2Proof.Machine
end

