-- ==== Sys2Proof/Machine/Hash.lean ====
section
/-!
DEFINITION. Machine/Hash.lean: the check word of a lesson image, CRC-32C of RFC 3720 (06 R129), and SHA-384 (18 R338; 26
R404).
-/

namespace Sys2Proof.Machine

/-- One bit of a reflected CRC-32C register. -/
def crcBit (c : Nat) : Nat := if c % 2 = 1 then (c / 2) ^^^ 0x82F63B78 else c / 2

/-- One byte of CRC-32C. -/
def crcByte (c b : Nat) : Nat := (List.range 8).foldl (fun c _ => crcBit c) (c ^^^ b)

/-- CRC-32C of bytes: initial value all ones, final value inverted. -/
def crc32c (bs : List Byte) : Nat := (bs.foldl (fun c b => crcByte c b.toNat) 0xFFFFFFFF) ^^^ 0xFFFFFFFF

/-- The check word of an image: its header's bits [63:32] and its instruction words, as little-endian bytes (06 R129). -/
def imageCheck (header : Nat) (words : List Nat) : Nat :=
  crc32c (bytesOfWord 4 (header / 2 ^ 32) ++ words.flatMap (bytesOfWord 8))

/-- A 64-bit word modulo 2^64. -/
def m64 (n : Nat) : Nat := n % 2 ^ 64

/-- Rotate right. -/
def rotr (x n : Nat) : Nat := m64 (x / 2 ^ n ||| x * 2 ^ (64 - n))

/-- The round constants of SHA-384. -/
def shaK : List Nat :=
  [0x428A2F98D728AE22, 0x7137449123EF65CD, 0xB5C0FBCFEC4D3B2F, 0xE9B5DBA58189DBBC, 0x3956C25BF348B538] ++
  [0x59F111F1B605D019, 0x923F82A4AF194F9B, 0xAB1C5ED5DA6D8118, 0xD807AA98A3030242, 0x12835B0145706FBE] ++
  [0x243185BE4EE4B28C, 0x550C7DC3D5FFB4E2, 0x72BE5D74F27B896F, 0x80DEB1FE3B1696B1, 0x9BDC06A725C71235] ++
  [0xC19BF174CF692694, 0xE49B69C19EF14AD2, 0xEFBE4786384F25E3, 0xFC19DC68B8CD5B5, 0x240CA1CC77AC9C65] ++
  [0x2DE92C6F592B0275, 0x4A7484AA6EA6E483, 0x5CB0A9DCBD41FBD4, 0x76F988DA831153B5, 0x983E5152EE66DFAB] ++
  [0xA831C66D2DB43210, 0xB00327C898FB213F, 0xBF597FC7BEEF0EE4, 0xC6E00BF33DA88FC2, 0xD5A79147930AA725] ++
  [0x6CA6351E003826F, 0x142929670A0E6E70, 0x27B70A8546D22FFC, 0x2E1B21385C26C926, 0x4D2C6DFC5AC42AED] ++
  [0x53380D139D95B3DF, 0x650A73548BAF63DE, 0x766A0ABB3C77B2A8, 0x81C2C92E47EDAEE6, 0x92722C851482353B] ++
  [0xA2BFE8A14CF10364, 0xA81A664BBC423001, 0xC24B8B70D0F89791, 0xC76C51A30654BE30, 0xD192E819D6EF5218] ++
  [0xD69906245565A910, 0xF40E35855771202A, 0x106AA07032BBD1B8, 0x19A4C116B8D2D0C8, 0x1E376C085141AB53] ++
  [0x2748774CDF8EEB99, 0x34B0BCB5E19B48A8, 0x391C0CB3C5C95A63, 0x4ED8AA4AE3418ACB, 0x5B9CCA4F7763E373] ++
  [0x682E6FF3D6B2B8A3, 0x748F82EE5DEFB2FC, 0x78A5636F43172F60, 0x84C87814A1F0AB72, 0x8CC702081A6439EC] ++
  [0x90BEFFFA23631E28, 0xA4506CEBDE82BDE9, 0xBEF9A3F7B2C67915, 0xC67178F2E372532B, 0xCA273ECEEA26619C] ++
  [0xD186B8C721C0C207, 0xEADA7DD6CDE0EB1E, 0xF57D4F7FEE6ED178, 0x6F067AA72176FBA, 0xA637DC5A2C898A6] ++
  [0x113F9804BEF90DAE, 0x1B710B35131C471B, 0x28DB77F523047D84, 0x32CAAB7B40C72493, 0x3C9EBE0A15C9BEBC] ++
  [0x431D67C49C100D4C, 0x4CC5D4BECB3E42B6, 0x597F299CFC657E2A, 0x5FCB6FAB3AD6FAEC, 0x6C44198C4A475817]

/-- The initial hash of SHA-384. -/
def shaInit : List Nat :=
  [0xCBBB9D5DC1059ED8, 0x629A292A367CD507, 0x9159015A3070DD17, 0x152FECD8F70E5939] ++
  [0x67332667FFC00B31, 0x8EB44A8768581511, 0xDB0C2E0D64F98FA7, 0x47B5481DBEFA4FA4]

/-- Big-endian number of bytes. -/
def bigEndian (bs : List Byte) : Nat := bs.foldl (fun n b => n * 256 + b.toNat) 0

/-- The `n` big-endian bytes of a number. -/
def bytesBig (n v : Nat) : List Byte := (bytesOfWord n v).reverse

/-- The message schedule of a block, extended by n words; the latest word stands first. -/
def schedule : Nat → List Nat → List Nat
  | 0, w => w
  | n + 1, w =>
    let at_ (k : Nat) : Nat := w.getD (k - 1) 0
    let a := at_ 15
    let b := at_ 2
    let s0 := rotr a 1 ^^^ rotr a 8 ^^^ a / 2 ^ 7
    let s1 := rotr b 19 ^^^ rotr b 61 ^^^ b / 2 ^ 6
    schedule n (m64 (at_ 16 + s0 + at_ 7 + s1) :: w)

/-- One round of SHA-384 on the eight working words. -/
def shaRound (h : List Nat) (kw : Nat) : List Nat :=
  let g (i : Nat) : Nat := h.getD i 0
  let e := g 4
  let a := g 0
  let s1 := rotr e 14 ^^^ rotr e 18 ^^^ rotr e 41
  let ch := (e &&& g 5) ^^^ ((2 ^ 64 - 1 - e) &&& g 6)
  let t1 := g 7 + s1 + ch + kw
  let s0 := rotr a 28 ^^^ rotr a 34 ^^^ rotr a 39
  let maj := (a &&& g 1) ^^^ (a &&& g 2) ^^^ (g 1 &&& g 2)
  [m64 (t1 + s0 + maj), a, g 1, g 2, m64 (g 3 + t1), e, g 5, g 6]

/-- One block of 128 bytes. -/
def shaBlock (h : List Nat) (block : List Byte) : List Nat :=
  let w := (List.range 16).map fun i => bigEndian ((block.drop (8 * i)).take 8)
  let ws := (schedule 64 w.reverse).reverse
  let r := (List.zipWith (· + ·) shaK ws).foldl shaRound h
  List.zipWith (fun a b => m64 (a + b)) h r

/-- The blocks of a padded message. -/
def shaBlocks : Nat → List Nat → List Byte → List Nat
  | 0, h, _ => h
  | n + 1, h, bs => shaBlocks n (shaBlock h (bs.take 128)) (bs.drop 128)

/-- SHA-384 of bytes: 48 bytes. -/
def sha384 (bs : List Byte) : List Byte :=
  let n := bs.length
  let zeros := (239 - n % 128) % 128
  let padded := bs ++ [0x80#8] ++ List.replicate zeros 0#8 ++ bytesBig 16 (8 * n)
  ((shaBlocks (padded.length / 128) shaInit padded).take 6).flatMap (bytesBig 8)

end Sys2Proof.Machine
end

