-- ==== Sys2Proof/Machine/Load.lean ====
section
/-!
DEFINITION. Machine/Load.lean: lesson images: the syllabus table, the checks at binding, the caches of the tree, the load and
the switch to a lesson (02 R43 to R50; 01 R28; 06 R130; 13 R305, R306; 14 R307; 18 R333).
-/

namespace Sys2Proof.Machine

/-- More status codes (24 R391). -/
def stUnknownOperator : Nat := 0x04
/-- lesson-format -/
def stLessonFormat : Nat := 0x05
/-- lesson-load -/
def stLessonLoad : Nat := 0x06
/-- context-faulted -/
def stContextFaulted : Nat := 0x51

/-- Whether a number below 0x1000 names a standard operator (13 R287). -/
def isStandard (n : Nat) : Bool :=
  (1 ≤ n && n ≤ 0xB) || n = 0x10 || n = 0x11 || (0x20 ≤ n && n ≤ 0x24) || (0x30 ≤ n && n ≤ 0x37) ||
    (0x40 ≤ n && n ≤ 0x46) || (0x50 ≤ n && n ≤ 0x52) || n = 0x60 || n = 0x61 || n = 0x70 || n = 0x71

/-! ## The syllabus table (13 R305, R306) -/

/-- The far address of a context's syllabus table; word 1 of its block is read at each binding (23 R380). -/
def State.syllabus (s : State) (c : Nat) : Nat := readNat s.mem ((s.ctx c).blockAddr.toNat % 2 ^ 48 + 8) 8 % 2 ^ 48

/-- Binary search of the entries [lo, hi) for a number: the entry's two words (R306). -/
def State.searchTable (s : State) (table n : Nat) : Nat → Nat → Nat → Option (Nat × Nat)
  | 0, _, _ => none
  | fuel + 1, lo, hi =>
    if hi ≤ lo then none else
    let m := (lo + hi) / 2
    let a := table + 16 + 16 * m
    let w := readNat s.mem a 8
    let k := bits w 63 48
    if k = n then some (w, readNat s.mem (a + 8) 8)
    else if k < n then s.searchTable table n fuel (m + 1) hi
    else s.searchTable table n fuel lo m

/-- What binding learns of a lesson. -/
structure Image where
  header : Nat
  words : List Nat
  space : Nat
  address : Nat
  standard : Bool
deriving DecidableEq, Repr

/-- Why binding refuses a lesson: the status, and the refusal code of 18 R333. -/
structure BindRefusal where
  status : Nat
  code : Nat
deriving DecidableEq, Repr

/-- The refusal code of an image at determinism levels 1 and 2 (18 R333); the lowest that applies. -/
def levelRefusal (level cls : Nat) (words : List Nat) : Option Nat :=
  if level = 0 then none
  else
    let f32 (w : Nat) : Bool := bits w 48 44 = 8
    let has (p : Nat → Bool) : Bool := words.any p
    if has fun w => bits w 63 56 = 0xC0 && f32 w then some 1
    else if has fun w => bits w 63 56 = 0xA8 && f32 w && bits w 31 29 = 0 then some 2
    else if has fun w => bits w 63 56 = 0xCA && f32 w && bits w 31 29 = 0 then some 3
    else if cls = 2 then some 4
    else if cls = 1 && has fun w => bits w 63 56 = 0x96 then some 5
    else none

/-- A tree cell's cache key: its level and its place among the positions of the device. -/
def cacheKey (level pos : Nat) : Nat := if level ≥ 6 then 6 * 2 ^ 20 else level * 2 ^ 20 + pos / levelSize level

/-- The position of a device-wide cell in the device's tree. -/
def State.devPos (s : State) (dc : Nat) : Nat := s.quarterOf dc * 2048 + s.treePos dc

/-- A cached copy of a lesson with a matching check word, in any tree cell above a cell (R28). -/
def State.cachedAbove (s : State) (dc opnum check : Nat) : Option LessonCopy :=
  [2, 3, 4, 5, 6].findSome? fun l =>
    (getD [] s.caches (cacheKey l (s.devPos dc))).find? fun k => k.opnum = opnum && bits k.header 31 0 = check && k.heldAt ≤ s.clk

/-- The lesson of an operator number for a context at binding (R43, R44; 13 R305, R306). A held copy whose check word
matches the entry's is used before the memory copy (R45). -/
def State.lessonImage (s : State) (c cell opnum level : Nat) : Except BindRefusal Image :=
  if opnum < 0x1000 then
    if isStandard opnum then
      .ok { header := 0, words := [], space := 0, address := 0, standard := true }
    else .error ⟨stUnknownOperator, 0⟩
  else
    let t := s.syllabus c
    let h := readNat s.mem t 8
    let bad : Except BindRefusal Image := .error ⟨stLessonFormat, 0⟩
    if bits h 51 48 ≠ 0 ∨ bits h 47 32 ≠ bits s.dev.chosen.toNat 31 16 ∨ bits h 22 0 ≠ 0 ∨ readNat s.mem (t + 8) 8 ≠ 0 then bad
    else
      match s.searchTable t opnum 13 0 (bits h 63 52) with
      | none => .error ⟨stUnknownOperator, 0⟩
      | some (e0, e1) =>
        let a := e0 % 2 ^ 48
        let check := bits e1 63 32
        if spaceOf a = 3 ∨ a % 8 ≠ 0 ∨ bits e1 13 0 ≠ 0 ∨ bits e1 15 14 = 3 then bad
        else
          let x := s.cell c cell
          let cur := if x.cur = 0 then x.buf0 else x.buf1
          let held : Option LessonCopy :=
            match cur with
            | some b => if b.opnum = opnum && bits b.header 31 0 = check then some { opnum, header := b.header, words := b.words, heldAt := 0 }
              else s.cachedAbove (s.devCell (s.ctx c).slot cell) opnum check
            | none => s.cachedAbove (s.devCell (s.ctx c).slot cell) opnum check
          let copy : LessonCopy :=
            match held with
            | some k => k
            | none =>
              let hd := readNat s.mem a 8
              { opnum, header := hd, words := (readWords s.mem (a + 8) (bits hd 63 55)).map BitVec.toNat, heldAt := 0 }
          if !Header.ok copy.header ∨ bits copy.header 31 0 ≠ check then bad
          else
            match levelRefusal level (bits e1 15 14) copy.words with
            | some k => .error ⟨stLessonFormat, k⟩
            | none => .ok { header := copy.header, words := copy.words, space := spaceOf a, address := a, standard := false }

/-! ## Delivery (R45; 14 R307) -/

/-- Beats of an image of n words. -/
def beatsOf (n : Nat) : Nat := (n + 8) / 8

/-- The latency of a memory copy: the space's first granule plus the descent from the partition root. -/
def memLatency (space : Nat) (quarter : Bool) : Nat :=
  (match space with | 0 => 400 | 1 => 600 | _ => 1500) + (if quarter then 20 else 32)

/-- Whether a context's partition is a quarter. -/
def State.isQuarter (s : State) (slot : Nat) : Bool := (s.part slot).cellcount ≤ s.perQuarter

/-- The nearest source above a cell that holds a matching copy: its level and F; the crown serves only partitions whose root
it is, and its ROM holds the standard lessons. -/
def State.nearest (s : State) (slot dc opnum check mem : Nat) (standard : Bool) : Nat × Nat :=
  let has (l : Nat) : Bool :=
    (getD [] s.caches (cacheKey l (s.devPos dc))).any fun k => k.opnum = opnum && bits k.header 31 0 = check && k.heldAt ≤ s.clk
  match [2, 3, 4, 5].find? has with
  | some l => (l, 4 * l)
  | none => if !s.isQuarter slot && (standard || has 6) then (6, 32) else (7, mem)

/-- Whether two copies are of one image: their operator number and check word. -/
def LessonCopy.same (j k : LessonCopy) : Bool := j.opnum = k.opnum && bits j.header 31 0 = bits k.header 31 0

/-- Put a copy at the front of a tree cell's cache of four lessons, the crown's of sixteen, as the one used last (R28). A copy
of the same image that the cell holds already stays; a mismatching copy of the lesson is invalidated. -/
def State.putCache (s : State) (key : Nat) (k : LessonCopy) : State :=
  let old := getD [] s.caches key
  let size := if key / 2 ^ 20 = 6 then 16 else 4
  let heldAt := (old.find? (·.same k)).elim k.heldAt fun j => min j.heldAt k.heldAt
  { s with caches := setD [] s.caches key (({ k with heldAt } :: old.filter fun j => j.opnum ≠ k.opnum).take size) }

/-- The image passes the tree cells between its source and a cell, and each holds a copy once its last beat has passed; the
copy that is the source is used. The load begins at `e` and its first beat reaches the cell `f` later. -/
def State.passImage (s : State) (slot dc source e f beats : Nat) (k : LessonCopy) : State :=
  ([2, 3, 4, 5, 6].filter fun l => l ≤ source && (l < 6 || !s.isQuarter slot)).foldl
    (fun s l => s.putCache (cacheKey l (s.devPos dc)) { k with heldAt := e + f - (if l = 6 then 32 else 4 * l) + beats - 1 }) s

/-- Whether a cell accepts an image, or a new instance: no committed instance of the context runs its tail there (R48), and
no newer one lives there (01 R13). -/
def State.cellFree (s : State) (c cell : Nat) : Bool := s.insts.all fun i => i.2.place.ctx ≠ c || i.2.place.cell ≠ cell

/-- Whether a cell's current buffer holds a lesson (R45). -/
def State.holdsLesson (s : State) (c cell opnum header : Nat) : Bool :=
  let x := s.cell c cell
  match (if x.cur = 0 then x.buf0 else x.buf1) with
  | some b => b.opnum = opnum && bits b.header 31 0 = bits header 31 0
  | none => false

/-- One seat begins its load at a clk `e`: it reports clean at once when its cell holds the lesson, waits while the cell does
not accept an image, and else has checked the image at e + F + (b − 1) + 2. -/
def State.loadSeat (s : State) (g i e : Nat) : State :=
  match lookupA s.segs g with
  | none => s
  | some seg =>
    let cell := seg.openCell + i
    if !s.cellFree seg.ctx cell then s
    else if s.holdsLesson seg.ctx cell seg.opnum seg.header then
      (s.modSeg g fun x => { x with loadAt := putA x.loadAt i e }).schedule e (.lessonImageReceived g i)
    else
      let dc := s.devCell seg.slot cell
      let src := s.nearest seg.slot dc seg.opnum (bits seg.header 31 0) seg.memTime seg.standard
      let at_ := e + src.2 + (seg.beats - 1) + 2
      let s := s.modSeg g fun x => { x with loadAt := putA x.loadAt i at_, loads := x.loads ++ [i] }
      s.schedule at_ (.lessonImageReceived g i)

/-- The copies that a load which begins at `e` leaves in the caches on its path. -/
def State.cacheLoad (s : State) (e g : Nat) : State :=
  match lookupA s.segs g with
  | none => s
  | some seg =>
    seg.loads.foldl (fun s i =>
      let dc := s.devCell seg.slot (seg.openCell + i)
      let src := s.nearest seg.slot dc seg.opnum (bits seg.header 31 0) seg.memTime seg.standard
      s.passImage seg.slot dc src.1 e src.2 seg.beats { opnum := seg.opnum, header := seg.header, words := seg.words, heldAt := 0 }) s

/-- LESSON_IMAGE_RECEIVED (R46, R48): a cell has checked the image and sends its report; a seat whose cell was running a tail
begins its load in the clk after it. The report of the last seat reaches the top tree cell after the one-way climb. -/
def execLessonImageReceived (g i : Nat) (s : State) : Host.Outcome State Fault Refusal :=
  match lookupA s.segs g with
  | none => .next s
  | some seg =>
    if seg.phase ≠ .loading || seg.clean.contains i then .next s
    else
      match lookupA seg.loadAt i with
      | none => .next ((s.loadSeat g i (s.clk + 1)).cacheLoad (s.clk + 1) g)
      | some at_ =>
        if s.clk < at_ then .next s
        else
          let bad := seg.loads.contains i && !seg.standard && imageCheck seg.header seg.words ≠ bits seg.header 31 0
          let s := s.modSeg g fun x => { x with clean := i :: x.clean, failed := x.failed || bad }
          if seg.clean.length + 1 = seg.seglen then
            .next (s.schedule (s.clk + oneWay (s.segLevel seg)) (.loadReportsCollected g))
          else .next s

/-! ## A context's fault (24 R393) -/

/-- Raise an MSI-X vector (23 R375; 24 R393). -/
def State.raiseMsix (s : State) (v : Nat) : State := { s with dev := { s.dev with msix := s.dev.msix ||| (1#64 <<< (v % 64)) } }

/-- A context faults: its state, its unfinished launches, its armed sends, its passes, its MSI-X vector (R393). -/
def State.faultContext (s : State) (c : Nat) : State :=
  let slot := (s.ctx c).slot
  let s := s.modCtx c fun x => { x with state := .faulted, armed := [], reserved := x.reserved - x.armed.length }
  let s := (s.launches.filter fun l => l.2.ctx = c && l.2.phase ≠ .retired && l.2.phase ≠ .queued &&
      l.2.phase ≠ .waitingUnit).foldl (fun s l =>
        (if l.2.status.isNone then s.report c { Card.ofStatus stContextFaulted 1 with launch := l.1 } else s).endExpression l.1
          stContextFaulted 0xFFFF) s
  let held := ((s.part slot).passes.filter fun p => p.2.holder = some c).map (·.1)
  let s := held.foldl (fun s p => s.modPart slot fun x => { x with passes := x.passes.map fun q =>
    if q.1 = p then (q.1, { q.2 with faulted := true, pending := some (q.2.pending.getD 0) }) else q }) s
  let s := held.foldl (fun s p => s.schedule s.clk (.passHandoff c p)) s
  (s.raiseMsix c).schedule s.clk (.recordAtHead slot 0)

/-- LOAD_REPORTS_COLLECTED (R46, R47): every seat has reported: a switch beat goes down, or after a failed report the image is
loaded once more from its memory copy, the caches on the path invalidated; a second failure faults the context. -/
def execLoadReportsCollected (g : Nat) (s : State) : Host.Outcome State Fault Refusal :=
  match lookupA s.segs g with
  | none => .next s
  | some seg =>
    if seg.phase ≠ .loading then .next s
    else if !seg.failed then .next (s.schedule (s.clk + oneWay (s.segLevel seg)) (.switchBeat g))
    else if seg.attempt = 0 then
      let s := { s with caches := s.caches.map fun (k : Nat × List LessonCopy) =>
        (k.1, k.2.filter fun j => j.opnum ≠ seg.opnum || bits j.header 31 0 ≠ bits seg.header 31 0) }
      let words := (readWords s.mem (seg.address + 8) (bits seg.header 63 55)).map BitVec.toNat
      let at_ := s.clk + seg.memTime + (seg.beats - 1) + 2
      let s := s.modSeg g fun x => { x with attempt := 1, failed := false, words, clean := x.clean.filter fun i => !x.loads.contains i }
      .next (seg.loads.foldl (fun s i =>
        (s.modSeg g fun x => { x with loadAt := putA x.loadAt i at_ }).schedule at_ (.lessonImageReceived g i)) s)
    else
      let s := s.report seg.ctx { Card.ofStatus stLessonLoad 1 with opnum := seg.opnum, openSeat := seg.openSeat, launch := seg.launch }
      let s := s.report seg.ctx (Card.ofStatus stContextFaulted 2)
      .next ((s.endExpression seg.launch stLessonLoad seg.openSeat).faultContext seg.ctx)

/-- The partition number that a lesson reads (01 R23). -/
def State.partNumber (s : State) (slot : Nat) : Nat :=
  match s.dev.layout with
  | 0 => 0
  | 1 => if slot = 0 then 1 else 2
  | _ => slot

/-- A seat's instance of a standard operator issues nothing: it waits for the commit and ends with it (13 R302; log 33). -/
def Inst.forStandard (v : Inst) : Inst :=
  { v with status := .waiting .commit, wake := none, finished := true, ends := true, declared := some 0 }

/-- What a standard application may leave in ring 15 of a cell, over granules that hold no valid tile and belong to no other ring: a
free geometry with free bytes, or the ring as it is (13 R302; log 3). -/
def State.leaveRing (s : State) (c cell : Nat) : State :=
  let k (i : Nat) : Nat := Config.standardLeaves s.fresh i
  let entries := k 3 % 256 + 1
  let filled := k 4 % (entries + 1)
  let head := k 5 % entries
  let r : Ring := { base := k 1 % 640, size := k 2 % 32 + 1, entries, head, tail := (head + filled) % entries, filled }
  let stop := r.base + r.entries * r.size
  let x := s.cell c cell
  let meets (base count : Nat) : Bool := base < stop && r.base < base + count
  let taken := x.hdrs.any (fun e =>
      let h := HdrView.ofWords e.2.1 e.2.2
      h.valid && meets h.base h.count) ||
    x.rings.any fun e => e.1 ≠ 15 && meets e.2.base (e.2.entries * e.2.size)
  let t := { s with fresh := s.fresh + 1 }
  if k 0 % 2 = 0 || 640 < stop || taken then t
  else
    let a := s.scrAddr c cell (64 * r.base)
    let bs : List Byte := (List.range (64 * (stop - r.base))).map fun j => Config.discardedByte s.fresh (a + j)
    { t.modCell c cell fun x => { x with rings := putA x.rings 15 r } with scr := writeBytes s.scr a bs }

/-- What a standard application leaves in the resources that standard lessons use in a cell: their contents are free values (13 R302;
log 3). -/
def State.leaveStandard (s : State) (c cell : Nat) : State :=
  let k (i : Nat) : Nat := Config.standardLeaves s.fresh i
  let tys : List Ty := [.bf16, .f16, .e4m3, .e5m2, .e2m1]
  let entry (e : Nat) : WEntry :=
    let q (i : Nat) : Nat := k (1024 * (e + 1) + i)
    let ty := tys.getD (q 0 % 5) .bf16
    let comp : Bool := q 1 % 2 = 1
    { valid := q 2 % 2 = 1, comp, ty, band := BitVec.ofNat 16 (q 3), source := q 4 % 2 ^ 20
      data := if q 5 % 2 = 0 then [] else
        (List.range (if comp then imageBytes ty else if ty = .e2m1 then 160 else 32 * Ty.width ty)).map fun j => BitVec.ofNat 8 (q (8 + j)) }
  let s : State := { s with fresh := s.fresh + 1 }
  let s := s.modCell c cell fun x => { x with
    acc := (List.range 256).foldl (fun m e => setD 0#32 m (768 + e) (BitVec.ofNat 32 (k (8 + e)))) x.acc
    weights := (List.range 8).foldl (fun m e => setD WEntry.invalid m (24 + e) (entry e)) x.weights
    latched := if k 0 % 2 = 1 then some (24 + k 1 % 8) else if x.latched.any fun e => 24 ≤ e then none else x.latched }
  s.leaveRing c cell

/-- SWITCH_BEAT (R46, R49): the cells that loaded exchange their buffers, and every seat's instance starts at instruction 0. A
standard operator has run when its commit begins (13 R302; log 33). -/
def execSwitchBeat (g : Nat) (s : State) : Host.Outcome State Fault Refusal :=
  match lookupA s.segs g with
  | none => .next s
  | some seg =>
    if seg.phase ≠ .loading then .next s
    else
      let s := s.modSeg g fun x => { x with phase := .running }
      let buf : LessonBuf := { opnum := seg.opnum, header := seg.header, words := seg.words }
      let s := seg.loads.foldl (fun s i => s.modCell seg.ctx (seg.openCell + i) fun x =>
        if x.cur = 0 then { x with buf1 := some buf, cur := 1 } else { x with buf0 := some buf, cur := 0 }) s
      let s := if seg.standard then s.schedule (s.clk + 1 + Config.standardTime seg.opnum seg.seglen) (.segmentCommit g) else s
      let cellcount := (s.part seg.slot).cellcount
      let s := s.modCtx seg.ctx fun x => { x with roll := { x.roll with insts := x.roll.insts + seg.seglen } }
      .next ((List.range seg.seglen).foldl (fun s i =>
          let cell := seg.openCell + i
          let x := s.cell seg.ctx cell
          let prot := x.hdrs.filterMap fun e =>
            let h := HdrView.ofWords e.2.1 e.2.2
            if h.valid then some (h.base, h.count) else none
          let sym := seg.syms.getD i 0#64
          let place : Place := { ctx := seg.ctx, slot := seg.slot, cell, seat := i, seglen := seg.seglen, seg := g,
                                 launch := seg.launch, opnum := seg.opnum, cellcount, part := s.partNumber seg.slot, symbol := sym,
                                 nest := bits sym.toNat 59 52 }
          let s := if seg.standard then s.leaveRing seg.ctx cell else s
          let k := s.newId
          let v := Inst.fresh place (Header.ofWord seg.header) x.cur s.clk prot
          k.2.setInst k.1 (if seg.standard then v.forStandard else v)) s)

end Sys2Proof.Machine
end

