-- ==== Sys2Proof/Machine/Row.lean ====
section
/-!
DEFINITION. Machine/Row.lean: symbol words and sequences of terms (06 R135 to R139; 02 R35, R36, R54), park records and the
park area (03 R76; 10 R227, R228).
-/

namespace Sys2Proof.Machine

/-! ## Symbol words (06 R135 to R138) -/

/-- A symbol's kind (R136). -/
def symKind (w : Word) : Nat := bits w.toNat 63 60

/-- A symbol's level. -/
def symLevel (w : Word) : Nat := bits w.toNat 59 52

/-- Whether a scalar symbol's type and value keep R138. -/
def scalarOk (n : Nat) : Bool :=
  match Ty.ofCode (bits n 44 40) with
  | none => false
  | some t =>
    let v := bits n 31 0
    if t = .i64 || t = .n64 || t = .e2m1 || t = .f32pair then false
    else if Ty.isFloat t then v < 2 ^ Ty.width t
    else v = writeInt t 32 (readInt t v)

/-- Whether a payload keeps R136: every bit that its kind does not assign is 0. -/
def payloadOk (w : Word) : Bool :=
  let n := w.toNat
  match symKind w with
  | 0 => n = 0
  | 1 | 2 | 3 | 4 => bits n 47 0 = 0
  | 5 => bits n 47 16 = 0
  | 6 => bits n 47 20 = 0
  | 7 => bits n 47 45 = 0 && bits n 39 32 = 0 && scalarOk n
  | 8 => true
  | 9 => bits n 47 46 ≠ 3 && bits n 45 0 % 8 = 0
  | _ => false

/-- Whether the flags are allowed on the kind (R137). -/
def flagsOk (w : Word) : Bool :=
  let n := w.toNat
  let k := symKind w
  (!bit n 51 || k = 1 || k = 6) && (!(bit n 50 || bit n 49) || k = 6) && !(bit n 50 && bit n 49) && (!bit n 48 || k = 9)

/-- Whether a symbol word is well formed in a partition of some cells (R139). -/
def symbolOk (cellcount : Nat) (w : Word) : Bool :=
  payloadOk w && flagsOk w && !(symKind w = 6 && cellcount ≤ bits w.toNat 19 7)

/-! ## Sequences of terms (02 R35, R36) -/

/-- Whether symbols are a well-formed sequence of terms with levels counted from a base: brackets match in kind and level,
levels agree with the nesting, and an operator follows every application open. Empty seats are ignored. `st` holds the
kinds of the open brackets, `op` whether an operator must follow. -/
def termsOk (base : Nat) : List Nat → Bool → List Word → Bool
  | st, op, [] => st.isEmpty && !op
  | st, op, w :: ws =>
    let k := symKind w
    if k = 0 then termsOk base st op ws
    else if op && k ≠ 5 then false
    else if k = 1 || k = 3 then symLevel w = base + st.length && termsOk base (k :: st) (k = 1) ws
    else if k = 2 || k = 4 then
      match st with
      | [] => false
      | o :: st' => o + 1 = k && symLevel w = base + st'.length && termsOk base st' false ws
    else symLevel w = base + st.length && termsOk base st false ws

/-- Raise a symbol's level (02 R54; 03 R77). -/
def raiseLevel (l : Nat) (w : Word) : Word := if symKind w = 0 then w else setBits w 59 52 (symLevel w + l)

/-- The row's empty seats: those without a symbol that no launch has taken (R64, R65). -/
def Ctx.emptySeats (x : Ctx) (cellcount : Nat) : Nat :=
  cellcount - (x.row.filter fun p => symKind p.2.sym ≠ 0 || p.2.launch ≠ 0).length

/-! ## The park area and its records (03 R76; 10 R227, R228; 23 R380) -/

/-- The park area's base and size in bytes. -/
def Ctx.parkArea (x : Ctx) : Nat × Nat := (x.blockWord 2 % 2 ^ 48, bits (x.blockWord 2) 63 48 * 2 ^ 20)

/-- The lowest place of the park area where `n` bytes are free. -/
def Ctx.parkSpace (x : Ctx) (n : Nat) : Option Nat :=
  let area := x.parkArea
  let ends := area.1 :: x.parks.map fun r => r.addr + (r.bytes + 63) / 64 * 64
  let fits (a : Nat) : Bool :=
    area.1 ≤ a && a + n ≤ area.1 + area.2 && x.parks.all fun r => a + n ≤ r.addr || r.addr + r.bytes ≤ a
  (ends.filter fits).min?

/-- The header word of a park record (R76). -/
def recordHeader (n base : Nat) (parked : Bool) : Word := BitVec.ofNat 64 (n * 2 ^ 48 + base * 2 ^ 40 + bitNat parked)

/-- The quoted-expression symbol of a record (06 R136). -/
def quotedWord (addr level : Nat) (parked : Bool) : Word :=
  BitVec.ofNat 64 (9 * 2 ^ 60 + level * 2 ^ 52 + bitNat parked * 2 ^ 48 + addr % 2 ^ 48)

/-- Whether a far range lies in the park area, or in a lease range of the context that may be read (10 R229). -/
def State.fetchable (s : State) (c a n : Nat) : Bool :=
  let area := (s.ctx c).parkArea
  (area.1 ≤ a && a + n ≤ area.1 + area.2) ||
    s.launches.any fun l => l.2.ctx = c && l.2.ranges.any fun r => r.rd && r.base ≤ a && a + n ≤ r.base + r.length

end Sys2Proof.Machine
end

