-- ==== Sys2Proof/Machine/Sync.lean ====
section
/-!
DEFINITION. Machine/Sync.lean: the synchronisation instructions, primaries 0xC0 to 0xCD, and the events of the engines
(12 R260 to R273).
-/

namespace Sys2Proof.Machine

/-! ## Engines (R260, R261) -/

/-- The engine of an index: the quarter of the partition that the index picks (R260, R266, R270). -/
def State.engineIndex (s : State) (v : Inst) (idx : Nat) : Nat :=
  v.place.slot + idx % max 1 (v.place.cellcount / s.perQuarter)

/-- The time to an engine: 40 clk in the cell's own quarter, 88 clk to another (R261). -/
def State.syncTime (s : State) (v : Inst) (engine : Nat) : Nat :=
  if s.quarterOf (s.devCell v.place.slot v.place.cell) = engine then 40 else 88

/-- A sync address, or the sync trap: cause 1 beyond the window, cause 2 misaligned (R260). -/
def State.syncAddr (s : State) (v : Inst) (base : Word) (off : Int) (width : Nat) : Except TrapInfo Nat :=
  let a := (base + BitVec.ofInt 64 off).toNat
  let t (c : Nat) : TrapInfo := { status := stSync, cause := c, addr := a }
  if a ≥ 2 ^ 16 ∨ (s.ctx v.place.ctx).syncLen < a + width then .error (t 1)
  else if a % width ≠ 0 then .error (t 2)
  else .ok a

/-- Send an operation to an engine: it arrives after the travel time, among arrivals of one clk in an order that a free
value chooses; the instance stalls for the reply (R261). -/
def State.sendSync (s : State) (i : Instr) (id : Nat) (v : Inst) (idx addr : Nat) (operand operand2 : Word) : Done :=
  let e := s.engineIndex v idx
  let t := s.syncTime v e
  let k := s.newId
  let s := { k.2 with syncOps := putA k.2.syncOps k.1 {
    inst := id, seg := v.place.seg, ctx := v.place.ctx, engine := e, travel := t, instr := i, addr, operand, operand2,
    reply := 0#64, trap := none, slot := none, performed := false } }
  .wait ((s.countRequest v.place.ctx).scheduleArrival (s.clk + t) (.syncOpPerformed k.1)) (.syncOp k.1)

/-- The bytes of an atomic's word. -/
def wordWidth (t : Ty) : Nat := Ty.width t / 8

/-- Issue an atomic or a baton operation on the word that an M form names; it engages the segment at issue (R262). -/
def atomic (i : Instr) (f : MForm) (offBits : Nat) : State → Nat → Inst → Done := fun s id v =>
  match s.syncAddr v (v.regs.getX f.a) (signed offBits (f.off % 2 ^ offBits)) (wordWidth f.ty) with
  | .error t => .trap s t
  | .ok a => (s.engage v.place.seg).sendSync i id v (a / 4096) a (v.regs.getX f.d) (v.regs.getX (f.d + 1))

/-- `aadd` (R264). -/
def execAadd (f : MForm) (s : State) : Host.Outcome State Fault Refusal := issue (.aadd f) (atomic (.aadd f) f 32) s

/-- `amin` (R264). -/
def execAmin (f : MForm) (s : State) : Host.Outcome State Fault Refusal := issue (.amin f) (atomic (.amin f) f 32) s

/-- `amax` (R264). -/
def execAmax (f : MForm) (s : State) : Host.Outcome State Fault Refusal := issue (.amax f) (atomic (.amax f) f 32) s

/-- `axchg` (R264). -/
def execAxchg (f : MForm) (s : State) : Host.Outcome State Fault Refusal := issue (.axchg f) (atomic (.axchg f) f 32) s

/-- `acas` (R265). -/
def execAcas (f : MForm) (s : State) : Host.Outcome State Fault Refusal := issue (.acas f) (atomic (.acas f) f 32) s

/-- `aand` (R264). -/
def execAand (f : MForm) (s : State) : Host.Outcome State Fault Refusal := issue (.aand f) (atomic (.aand f) f 32) s

/-- `aor` (R264). -/
def execAor (f : MForm) (s : State) : Host.Outcome State Fault Refusal := issue (.aor f) (atomic (.aor f) f 32) s

/-- `scld` (R273). -/
def execScld (f : MForm) (s : State) : Host.Outcome State Fault Refusal := issue (.scld f) (atomic (.scld f) f 32) s

/-- `scst` (R273). -/
def execScst (f : MForm) (s : State) : Host.Outcome State Fault Refusal := issue (.scst f) (atomic (.scst f) f 32) s

/-- `scrmw` (R273). -/
def execScrmw (f : MForm) (s : State) : Host.Outcome State Fault Refusal := issue (.scrmw f) (atomic (.scrmw f) f 29) s

/-- Issue a pass instruction (R266): cause 3 for a pass at or beyond P. -/
def passOp (i : Instr) (f : IForm) (engages : Bool) : State → Nat → Inst → Done := fun s id v =>
  let p := bits f.imm 7 0
  if (s.ctx v.place.ctx).passCount ≤ p then .trap s (trapOf stSync 3)
  else (if engages then s.engage v.place.seg else s).sendSync i id v p p 0#64 0#64

/-- `pacq` (R267). -/
def execPacq (f : IForm) (s : State) : Host.Outcome State Fault Refusal := issue (.pacq f) (passOp (.pacq f) f false) s

/-- `prel` (R268): it engages at issue. -/
def execPrel (f : IForm) (s : State) : Host.Outcome State Fault Refusal := issue (.prel f) (passOp (.prel f) f true) s

/-- `pqry` (R269). -/
def execPqry (f : IForm) (s : State) : Host.Outcome State Fault Refusal := issue (.pqry f) (passOp (.pqry f) f false) s

/-- A bell's key: scope 1 by context, scope 2 by partition slot (R270). -/
def bellKey (scope owner bell : Nat) : Nat := 1 + 2 * (scope * 65536 + owner * 64 + bell)

/-- `bell` (R270 to R272). With rel = 1 the arrival waits until the far writes that the context released before are
performed. -/
def execBell (f : IForm) (s : State) : Host.Outcome State Fault Refusal :=
  issue (.bell f) (fun s id v =>
    let scope := bits f.imm 9 8
    let mark := v.relMark.getD s.ids
    if bit f.imm 10 && !s.writesDone v.place.ctx mark then .stall (s.setInst id { v with relMark := some mark })
    else
      let v := { v with relMark := none }
      let s := s.setInst id v
      if scope = 0 then .settled ((settle (.bell f) id v s (.wait s .segBell)).trySegBell v.place.seg)
      else
        let b := bits f.imm 5 0
        let owner := if scope = 1 then v.place.ctx else v.place.slot
        s.sendSync (.bell f) id v b (bellKey scope owner b) (BitVec.ofNat 64 ((v.regs.getX f.a).toNat % 2 ^ 20)) 0#64) s

/-! ## What an engine does -/

/-- The new word of an atomic: addition, lesser, greater, exchange, and, or (R264). -/
def atomicNew (t : Ty) (op old v : Nat) : Nat :=
  let w := 2 ^ Ty.width t
  if t = .f32 then ratomNew .f32 op old v
  else
    let a := readInt t old
    let b := readInt t v
    match op with
    | 0 => writeInt t 64 (a + b) % w
    | 1 => writeInt t 64 (min a b) % w
    | 2 => writeInt t 64 (max a b) % w
    | 3 => v
    | 4 => old &&& v
    | _ => old ||| v

/-- A compare-and-swap's expected and new values (R265). -/
def casOperands (t : Ty) (x y : Word) : Nat × Nat :=
  if Ty.width t = 64 then (x.toNat, y.toNat) else (bits x.toNat 63 32, bits x.toNat 31 0)

/-- What an atomic or baton instruction does to its word: its form and the new word, none where nothing is stored (R264,
R265, R273). -/
def syncEffect (i : Instr) (old : Nat) (x y : Word) : Option (MForm × Option Nat) :=
  let cas (f : MForm) : Option Nat :=
    let o := casOperands f.ty x y
    if old = o.1 then some o.2 else none
  let low (f : MForm) : Nat := x.toNat % 2 ^ Ty.width f.ty
  match i with
  | .aadd f => some (f, some (atomicNew f.ty 0 old (low f)))
  | .amin f => some (f, some (atomicNew f.ty 1 old (low f)))
  | .amax f => some (f, some (atomicNew f.ty 2 old (low f)))
  | .axchg f => some (f, some (low f))
  | .aand f => some (f, some (atomicNew f.ty 4 old (low f)))
  | .aor f => some (f, some (atomicNew f.ty 5 old (low f)))
  | .acas f => some (f, cas f)
  | .scld f => some (f, none)
  | .scst f => some (f, some (low f))
  | .scrmw f =>
    let op := f.off.val / 2 ^ 29
    if op = 6 then some (f, cas f) else some (f, some (atomicNew f.ty op old (low f)))
  | _ => none

/-- The form of an operation on a word. -/
def syncForm (i : Instr) : Option MForm := (syncEffect i 0 0#64 0#64).map (·.1)

/-- Whether only the holder of the baton performs an operation (R273). -/
def isBaton (i : Instr) : Bool := match i with | .scld _ | .scst _ | .scrmw _ => true | _ => false

/-- An operation has been performed: its reply is on its way back (R261). -/
def State.replySync (s : State) (k : Nat) (op : SyncOp) (reply : Word) (trap : Option Nat) : State :=
  { s with syncOps := putA s.syncOps k { op with reply, trap, performed := true } }.schedule (s.clk + op.travel) (.syncReply k)

/-- The state of a pass. -/
def Part.pass (p : Part) (n : Nat) : Pass := getD Pass.free p.passes n

/-- Change a pass. -/
def State.modPass (s : State) (slot n : Nat) (f : Pass → Pass) : State :=
  s.modPart slot fun p => { p with passes := setD Pass.free p.passes n (f (p.pass n)) }

/-- Grant a pass to an operation: its status says whether it was freed by a fault (R267); it engages the segment (R262). -/
def State.grantPass (s : State) (slot n : Nat) (k : Nat) (op : SyncOp) : State :=
  let faulted := ((s.part slot).pass n).faulted
  ((s.modPass slot n fun p => { p with holder := some op.ctx, pending := none, faulted := false }).engage op.seg).replySync k op
    (if faulted then 3#64 else 0#64) none

/-- The word that `pqry` reads (R269). -/
def Pass.query (p : Pass) : Word :=
  BitVec.ofNat 64 (bitNat p.faulted * 2 ^ 18 + bitNat p.pending.isSome * 2 ^ 17 + bitNat p.holder.isSome * 2 ^ 16 +
    p.holder.getD 0 * 2 ^ 8 + min 255 p.waiters.length)

/-- Perform an operation at its engine (R264 to R271). The operation of an instance that no longer lives has its effect
when it is an atomic, a baton operation or a `prel`; a `pacq` or a bell arrival is withdrawn (R267, R271). -/
def State.performSync (s : State) (k : Nat) (op : SyncOp) : State :=
  let slot := (s.ctx op.ctx).slot
  let live := (s.inst? op.inst).isSome
  match op.instr with
  | .pacq f =>
    let p := (s.part slot).pass op.addr
    if !live then { s with syncOps := delA s.syncOps k }
    else if p.holder = some op.ctx && p.pending.isNone then s.replySync k op 1#64 none
    else if p.holder.isNone && p.waiters.isEmpty then s.grantPass slot op.addr k op
    else if bit f.imm 8 then s.replySync k op 2#64 none
    else s.modPass slot op.addr fun p => { p with waiters := p.waiters ++ [k] }
  | .prel _ =>
    let p := (s.part slot).pass op.addr
    if p.holder ≠ some op.ctx || p.pending.isSome then s.replySync k op 0#64 (some 4)
    else
      let s := s.modPass slot op.addr fun p => { p with pending := some s.ids }
      let s := s.modSeg op.seg fun g => { g with releases := g.releases ++ [op.addr] }
      (s.replySync k op 0#64 none).schedule s.clk (.passHandoff op.ctx op.addr)
  | .pqry _ => s.replySync k op ((s.part slot).pass op.addr).query none
  | .bell _ =>
    let n := op.operand.toNat
    let gen := s.bells.find? fun b => b.key = op.addr
    if !live then { s with syncOps := delA s.syncOps k }
    else if n = 0 then s.replySync k op 0#64 (some 5)
    else
      match gen with
      | none =>
        let s := { s with bells := s.bells ++ [{ key := op.addr, count := n, arrivals := [k] }] }
        if n = 1 then s.schedule s.clk (.bellComplete op.addr) else s
      | some b =>
        if !b.arrivals.isEmpty && b.count ≠ n then s.replySync k op 0#64 (some 5)
        else
          let b' : BellGen := { key := b.key, count := n, arrivals := b.arrivals ++ [k] }
          let s := { s with bells := s.bells.map fun c => if c.key = op.addr then b' else c }
          if b'.arrivals.length = n then s.schedule s.clk (.bellComplete op.addr) else s
  | i =>
    match syncForm i with
    | none => { s with syncOps := delA s.syncOps k }
    | some f =>
      let n := wordWidth f.ty
      let old := readNat (s.ctx op.ctx).sync op.addr n
      let s := match syncEffect i old op.operand op.operand2 with
        | some (_, some new) => s.modCtx op.ctx fun x => { x with sync := writeNat x.sync op.addr n new }
        | _ => s
      s.replySync k op (extendTo f.ty old) none

/-- Whether the baton's next arrival is in the agenda. -/
def State.batonMoving (s : State) : Bool := s.agenda.any fun t => match t.ev with | .batonHop _ => true | _ => false

/-- The baton moves on while operations wait for it: its next arrival, at the engine that it reaches then (R273). -/
def State.moveBaton (s : State) : State :=
  if s.batonMoving || s.batonQ.isEmpty then s
  else
    let hops := (s.clk - s.baton.2 + 23) / 24
    s.schedule (s.baton.2 + 24 * hops) (.batonHop ((s.baton.1 + hops) % 4))

/-- SYNC_OP_PERFORMED (R261): an operation arrives at its engine, which performs one per clk in arrival order; a baton
operation is queued there (R273). -/
def execSyncOpPerformed (k : Nat) (s : State) : Host.Outcome State Fault Refusal :=
  match lookupA s.syncOps k with
  | none => .next s
  | some op =>
    if op.performed then .next s
    else if isBaton op.instr && op.slot.isNone then
      .next ({ s with batonQ := s.batonQ ++ [(op.engine, k)] }.moveBaton)
    else
      let e := op.engine % 4
      let at_ := match op.slot with
        | some c => c
        | none => max s.clk (s.engineFree[e]'(Nat.mod_lt _ (by decide)))
      if s.clk < at_ then
        .next ({ s with engineFree := s.engineFree.set e (at_ + 1) (Nat.mod_lt _ (by decide))
                        syncOps := putA s.syncOps k { op with slot := some at_ } }.schedule at_ (.syncOpPerformed k))
      else
        let s := if op.slot.isSome then s
          else { s with engineFree := s.engineFree.set e (at_ + 1) (Nat.mod_lt _ (by decide)) }
        .next (s.performSync k op)

/-- BATON_HOP (R273): the baton arrives at an engine, which performs up to sixteen queued operations, one per clk, and
passes it on. -/
def execBatonHop (e : Nat) (s : State) : Host.Outcome State Fault Refusal :=
  let mine := (s.batonQ.filter fun q => q.1 = e).take 16
  let start := max s.clk (s.engineFree[e % 4]'(Nat.mod_lt _ (by decide)))
  let n := mine.length
  let s := { s with batonQ := s.batonQ.filter fun q => !mine.contains q }
  let s := mine.zipIdx.foldl (fun s q =>
    match lookupA s.syncOps q.1.2 with
    | some op =>
      { s with syncOps := putA s.syncOps q.1.2 { op with slot := some (start + q.2) } }.schedule (start + q.2) (.syncOpPerformed q.1.2)
    | none => s) s
  let s := if n = 0 then s else { s with engineFree := s.engineFree.set (e % 4) (start + n) (Nat.mod_lt _ (by decide)) }
  let leave := if n = 0 then s.clk else start + n - 1
  let s := { s with baton := ((e + 1) % 4, leave + 24) }
  .next (if s.batonQ.isEmpty then s else s.schedule (leave + 24) (.batonHop ((e + 1) % 4)))

/-- The register that a reply writes. -/
def replyWrite (i : Instr) (reply : Word) (r : Regs) : Regs :=
  match i with
  | .scst _ | .prel _ => r
  | .pacq f | .pqry f | .bell f => r.setX f.d reply
  | i => match syncForm i with | some f => r.setX f.d reply | none => r

/-- SYNC_REPLY (R261): a reply reaches the stalled instance. -/
def execSyncReply (k : Nat) (s : State) : Host.Outcome State Fault Refusal :=
  match lookupA s.syncOps k with
  | none => .next s
  | some op =>
    let s := { s with syncOps := delA s.syncOps k }
    match s.inst? op.inst with
    | none => .next s
    | some v =>
      if v.status ≠ .waiting (.syncOp k) then .next s
      else
        match op.trap with
        | some c => .next (s.takeTrap op.inst (trapOf stSync c))
        | none =>
          if (match lookupA s.segs v.place.seg with | some g => g.standard | none => false) then
            -- the order pass is granted to a standard lesson, which goes on (13 R297; log 33)
            .next ((s.setInst op.inst { v with status := .waiting .commit, colls := if op.reply = 1#64 then 0 else 1 }).schedule s.clk (.segmentCommit v.place.seg))
          else .next (s.complete op.inst op.instr (replyWrite op.instr op.reply))

/-- BELL_COMPLETE (R270, R271): every participant's segment is engaged and every arriver is released: those of a segment's
own bell now, those of an engine's bell when its reply arrives, with its arrival index. -/
def execBellComplete (key : Nat) (s : State) : Host.Outcome State Fault Refusal :=
  if key % 2 = 0 then
    let g := key / 2
    .next ((s.segInsts g).foldl (fun s i =>
      if i.2.status = .waiting .segBell then
        match s.pendingInstr i.2 with
        | some (.bell f) => s.complete i.1 (.bell f) fun r => r.setX f.d 0#64
        | _ => s
      else s) (s.engage g))
  else
    match s.bells.find? fun b => b.key = key with
    | none => .next s
    | some b =>
      if b.arrivals.length ≠ b.count then .next s
      else
        let s := { s with bells := s.bells.filter fun c => c.key ≠ key }
        .next (b.arrivals.zipIdx.foldl (fun s a =>
          match lookupA s.syncOps a.1 with
          | some op => (s.engage op.seg).replySync a.1 op (BitVec.ofNat 64 a.2) none
          | none => s) s)

/-- A pending release is handed on once its segment's commit step has completed and the far writes it covers are performed,
or at once when its expression ended by a trap: to the first waiter, or to none (R268). -/
def State.handPass (s : State) (c p : Nat) : State :=
  let slot := (s.ctx c).slot
  let q := (s.part slot).pass p
  match q.holder, q.pending with
  | some h, some mark =>
    if h ≠ c then s
    else
      let held := s.segs.any fun g => g.2.ctx = c && g.2.releases.contains p
      if q.faulted || (!held && s.writesDone c mark) then
        match q.waiters with
        | [] => s.modPass slot p fun x => { x with holder := none, pending := none }
        | k :: ks =>
          let s := s.modPass slot p fun x => { x with waiters := ks }
          match lookupA s.syncOps k with
          | some op => s.grantPass slot p k op
          | none => s.modPass slot p fun x => { x with holder := none, pending := none }
      else s
  | _, _ => s

/-- PASS_HANDOFF (R268). -/
def execPassHandoff (c p : Nat) (s : State) : Host.Outcome State Fault Refusal := .next (s.handPass c p)

end Sys2Proof.Machine
end

