-- ==== Sys2Proof/Machine/Tree.lean ====
section
/-!
DEFINITION. Machine/Tree.lean: the tree instructions, primaries 0x80 to 0x86, and the events that answer them (10 R208 to
R219).
-/

namespace Sys2Proof.Machine

/-! ## Collective sweeps -/

/-- Issue a collective instruction: the seat brings its word, its lanes (invalid where absent, R210) and its scalar to
sweep k, and stalls until the result reaches it (R208). -/
def collective (i : Instr) (word : Word) (vec : Regs → VecVal) (val : Regs → Word) : State → Nat → Inst → Done := fun s id v =>
  let v' := { v with colls := v.colls + 1, collWord := word, collVec := vec v.regs, collVal := val v.regs }
  let s := settle i id v' s (.wait (s.setInst id v') .sweep)
  .settled (s.tryCollective v.place.seg)

/-- The word of a Q form. -/
def qWord (p : Nat) (f : QForm) : Word := BitVec.ofNat 64 ((Form.q f).word p)

/-- The source of a combining sweep: lanes that the mask does not select are absent (R210). -/
def maskedSource (f : QForm) (r : Regs) : VecVal :=
  let a := r.getV f.a
  VecVal.ofFn a.lane fun j => a.ok j && r.selects f.mask f.neg j

/-- `sred` (R214). -/
def execSred (f : QForm) (s : State) : Host.Outcome State Fault Refusal :=
  issue (.sred f) (collective (.sred f) (qWord 0x80 f) (maskedSource f) fun _ => 0#64) s

/-- `sscan` (R214). -/
def execSscan (f : QForm) (s : State) : Host.Outcome State Fault Refusal :=
  issue (.sscan f) (collective (.sscan f) (qWord 0x81 f) (maskedSource f) fun _ => 0#64) s

/-- `scav` (R214). -/
def execScav (f : QForm) (s : State) : Host.Outcome State Fault Refusal :=
  issue (.scav f) (collective (.scav f) (qWord 0x82 f) (maskedSource f) fun _ => 0#64) s

/-- `sbcast` (R215). -/
def execSbcast (f : QForm) (s : State) : Host.Outcome State Fault Refusal :=
  issue (.sbcast f) (collective (.sbcast f) (qWord 0x83 f) (fun r => r.getV f.a) fun r => r.getX f.b) s

/-- `srank` (R216). -/
def execSrank (f : QForm) (s : State) : Host.Outcome State Fault Refusal :=
  issue (.srank f) (collective (.srank f) (qWord 0x84 f) (fun _ => VecVal.none) fun r => r.getX f.a) s

/-- The combination of positions that a primary asks for, at position p (R214). -/
def sweepValue {α : Type} (op : α → α → α) (primary : Nat) (excl : Bool) (vs : List (Option α)) (p : Nat) : Option α :=
  match primary with
  | 0x80 => reduceOf op vs
  | 0x81 => prefixOf op vs (if excl then p else p + 1)
  | _ => cavityOf op vs p

/-- The result vector of position p of a combining sweep (R212, R214): each lane, or each pair for the affine combiner, on
its own. -/
def sweepVector (f : QForm) (primary : Nat) (rows : List VecVal) (p : Nat) : VecVal :=
  let comb := f.comb.val
  if comb = 7 then
    let pair (j : Nat) : Nat × Nat :=
      (sweepValue affineJoin primary f.ord
        (rows.map fun v => if v.ok (2 * j) && v.ok (2 * j + 1) then some ((v.lane (2 * j)).toNat, (v.lane (2 * j + 1)).toNat) else none)
        p).getD affineIdentity
    VecVal.ofFn (fun j => BitVec.ofNat 32 (if j % 2 = 0 then (pair (j / 2)).1 else (pair (j / 2)).2)) fun _ => true
  else
    VecVal.ofFn (fun j => BitVec.ofNat 32
      ((sweepValue (combine comb f.ty) primary f.ord (rows.map fun v => if v.ok j then some (v.lane j).toNat else none) p).getD
        (identity comb f.ty))) fun _ => true

/-- Whether an instance takes part in sweep k. -/
def Inst.inSweep (v : Inst) (k : Nat) : Bool := v.colls = k && v.status = .waiting .sweep

/-- What a seat of sweep k receives: its destination register written (R214 to R216). `seats` are the instances in seat
order. -/
def sweepWrite (i : Instr) (seglen k seat : Nat) (seats : List (Option Inst)) (r : Regs) : Regs :=
  let inPos (f : QForm) (q : Nat) : Nat := if f.dir then seglen - 1 - q else q
  let at_ (q : Nat) : Option Inst := (seats.getD q none).filter fun v => v.inSweep k
  let rows (f : QForm) : List VecVal :=
    (List.range seglen).map fun p => ((at_ (inPos f p)).map (·.collVec)).getD VecVal.none
  match i with
  | .sred f => r.setV f.d (sweepVector f 0x80 (rows f) (inPos f seat))
  | .sscan f => r.setV f.d (sweepVector f 0x81 (rows f) (inPos f seat))
  | .scav f => r.setV f.d (sweepVector f 0x82 (rows f) (inPos f seat))
  | .sbcast f =>
    let source := (r.getX f.b).toNat
    r.setV f.d (if seglen ≤ source then VecVal.none else ((at_ source).map (·.collVec)).getD VecVal.none)
  | .srank f =>
    let flagged := (List.range seglen).filter fun q =>
      (match at_ q with | some v => v.collVal ≠ 0#64 | none => false) && (bit f.fn 0 || inPos f q < inPos f seat)
    r.setX f.d (BitVec.ofNat 64 flagged.length)
  | _ => r

/-- The seats of a segment, in order, with their instances. -/
def State.seatList (s : State) (g seglen : Nat) : List (Option Inst) :=
  (List.range seglen).map fun q => (s.seatInst g q).map (·.2)

/-- SWEEP_RESULT (R211): the result of sweep k reaches every participating seat in one clk. -/
def execSweepResult (g k : Nat) (s : State) : Host.Outcome State Fault Refusal :=
  match lookupA s.segs g with
  | none => .next s
  | some seg =>
    if seg.sweeps + 1 ≠ k then .next s
    else
      let seats := s.seatList g seg.seglen
      let s' := (s.segInsts g).foldl (fun t i =>
        if i.2.inSweep k then
          match s.pendingInstr i.2 with
          | some ins => t.complete i.1 ins (sweepWrite ins seg.seglen k i.2.place.seat seats)
          | none => t
        else t) s
      .next ((s'.modSeg g fun x => { x with sweeps := k }).releaseSweep g false)

/-- NEED_SWEEP_COMPLETE (02 R53, 10 R222): the offsets are the exclusive sums of the declarations in seat order, and T is
their total. -/
def execNeedSweepComplete (g : Nat) (s : State) : Host.Outcome State Fault Refusal :=
  match lookupA s.segs g with
  | none => .next s
  | some seg =>
    let ns := (s.seatList g seg.seglen).map fun v => ((v.bind (·.declared)).getD 0)
    let offs := (List.range seg.seglen).map fun q => (ns.take q).sum
    .next ((s.modSeg g fun x => { x with offsets := some offs, total := ns.sum }).releaseSweep g true)

/-! ## Neighbour forwarding (R217, R218) -/

/-- The time of a vector between neighbouring cells: 2 clk in a strip, 12 clk to the next strip, 72 clk across a quarter
boundary (R218). -/
def State.neighbourTime (s : State) (a b : Nat) : Nat :=
  if s.quarterOf a ≠ s.quarterOf b then 72 else if s.rowOf a = s.rowOf b then 2 else 12

/-- `fwd` (R217): it stalls while the receiver's queue, with the vectors on their way to it, holds four; a send beyond the
segment or to a finished seat is dropped. -/
def execFwd (f : QForm) (s : State) : Host.Outcome State Fault Refusal :=
  issue (.fwd f) (fun s _ v =>
    if f.dir && v.place.seat = 0 then .next s 1 else
    match s.seatInst v.place.seg (if f.dir then v.place.seat - 1 else v.place.seat + 1) with
    | none => .next s 1
    | some (id, u) =>
      let waiting := if f.dir then u.rcvRight.length + u.comingRight else u.rcvLeft.length + u.comingLeft
      if u.finished then .next s 1
      else if 4 ≤ waiting then .stall s
      else
        let s := s.setInst id (if f.dir then { u with comingRight := u.comingRight + 1 } else { u with comingLeft := u.comingLeft + 1 })
        let t := s.neighbourTime (s.devCell v.place.slot v.place.cell) (s.devCell u.place.slot u.place.cell)
        .next (s.schedule (s.clk + t) (.neighbourArrival id (!f.dir) (v.regs.getV f.a))) 1) s

/-- NEIGHBOUR_ARRIVAL (16 R311): a forwarded vector enters the receiver's queue; a waiting `rcv` takes it in the same clk. -/
def execNeighbourArrival (id : Nat) (fromLeft : Bool) (w : VecVal) (s : State) : Host.Outcome State Fault Refusal :=
  .next (s.modInst id fun u =>
    if u.finished then u
    else if fromLeft then { u with rcvLeft := u.rcvLeft ++ [w], comingLeft := u.comingLeft - 1 }
    else { u with rcvRight := u.rcvRight ++ [w], comingRight := u.comingRight - 1 })

/-- `rcv` (R217): the oldest vector of a queue; sixteen invalid lanes of 0 when no such seat exists, or when that seat is
finished and the queue, with what is on its way to it, is empty. One that has waited completes in the clk of arrival, and the
next instruction issues in that clk; another one's result is ready 2 clk later (16 R311). -/
def execRcv (f : QForm) (s : State) : Host.Outcome State Fault Refusal :=
  issue (.rcv f) (fun s id v =>
    let fromRight := f.dir
    let q := if fromRight then v.rcvRight else v.rcvLeft
    match q with
    | w :: rest =>
      let u := if fromRight then { v with rcvRight := rest } else { v with rcvLeft := rest }
      if v.waitSince.isSome then .settled ((s.setInst id u).complete id (.rcv f) fun r => r.setV f.d w)
      else .next (s.setInst id { u with regs := v.regs.setV f.d w }) 2
    | [] =>
      let sender := if !fromRight && v.place.seat = 0 then none
        else s.seatInst v.place.seg (if fromRight then v.place.seat + 1 else v.place.seat - 1)
      let coming := if fromRight then v.comingRight else v.comingLeft
      let gone : Bool := match sender with | none => true | some u => u.2.finished && coming = 0
      if gone then .next (s.setInst id { v with regs := v.regs.setV f.d VecVal.none }) 2 else .stall s) s

end Sys2Proof.Machine
end

