-- ==== Sys2Proof/Machine/Standard.lean ====
section
/-!
DEFINITION. Machine/Standard.lean: the rewrite rules of the standard operators (13 R284 to R301). A standard lesson's image is
no architecture (R302): its results, effects and traps are formed in one step when its segment's commit begins (log 33). Its
seats are instances that wait for the commit; the one after the operator, seat 2, stages its effects.
-/

namespace Sys2Proof.Machine

/-! ## Terms (R284) -/

/-- Split symbols into terms by their brackets. `cur` is the open term, latest symbol first, and `depth` its open brackets. -/
def splitTerms : List Word → Nat → List Word → List (List Word)
  | cur, _, [] => if cur.isEmpty then [] else [cur.reverse]
  | cur, depth, w :: ws =>
    let k := symKind w
    if k = 1 || k = 3 then splitTerms (w :: cur) (depth + 1) ws
    else if k = 2 || k = 4 then
      if depth ≤ 1 then (w :: cur).reverse :: splitTerms [] 0 ws else splitTerms (w :: cur) (depth - 1) ws
    else if depth = 0 then [w] :: splitTerms [] 0 ws
    else splitTerms (w :: cur) depth ws

/-- Lower the levels of symbols. -/
def lowerLevels (n : Nat) (ws : List Word) : List Word := ws.map fun w => setBits w 59 52 (symLevel w - n)

/-- Raise the levels of symbols. -/
def raiseLevels (n : Nat) (ws : List Word) : List Word := ws.map (raiseLevel n)

/-- A term whose first symbol stands at level 0. -/
def rebase (ws : List Word) : List Word := match ws with | w :: _ => lowerLevels (symLevel w) ws | [] => []

/-- The arguments of an application's symbols: the terms after the operator, each with its first symbol at level 0. -/
def argsOf (syms : List Word) : List (List Word) := (splitTerms [] 0 ((syms.drop 2).dropLast)).map rebase

/-- The items of a sequence term. -/
def itemsOf (t : List Word) : Option (List (List Word)) :=
  match t with
  | w :: ws => if symKind w = 3 then some ((splitTerms [] 0 ws.dropLast).map rebase) else none
  | [] => none

/-- The symbol of a kind at level 0 with a payload. -/
def mkSym (kind payload : Nat) : Word := BitVec.ofNat 64 (kind * 2 ^ 60 + payload)

/-- A scalar symbol (06 R138). -/
def mkScalar (t : Ty) (v : Nat) : Word := mkSym 7 (t.code * 2 ^ 40 + v % 2 ^ 32)

/-- A tile symbol. -/
def mkTile (h : Nat) : Word := mkSym 6 h

/-- An operator symbol. -/
def mkOp (n : Nat) : Word := mkSym 5 n

/-- The sequence of terms. -/
def mkSeq (ts : List (List Word)) : List Word := [mkSym 3 0] ++ raiseLevels 1 ts.flatten ++ [mkSym 4 0]

/-- The application of an operator symbol to terms; it carries the record flag of the application that creates it. -/
def mkApp (record : Bool) (f : Word) (args : List (List Word)) : List Word :=
  [mkSym 1 (bitNat record * 2 ^ 51)] ++ raiseLevels 1 ([f] ++ args.flatten) ++ [mkSym 2 0]

/-- A scalar term: its type and value. -/
def scalarOf (t : List Word) : Option (Ty × Nat) :=
  match t with
  | [w] => if symKind w = 7 then (Ty.ofCode (bits w.toNat 44 40)).map fun ty => (ty, bits w.toNat 31 0) else none
  | _ => none

/-- A tile term: its handle. -/
def tileOf (t : List Word) : Option Nat := match t with | [w] => if symKind w = 6 then some (bits w.toNat 19 0) else none | _ => none

/-- An operator term: its number. -/
def opOf (t : List Word) : Option Nat := match t with | [w] => if symKind w = 5 then some (bits w.toNat 15 0) else none | _ => none

/-- A far-tensor term: lease entry and offset. -/
def farOf (t : List Word) : Option (Nat × Nat) :=
  match t with
  | [w] => if symKind w = 8 then some (bits w.toNat 47 42, bits w.toNat 41 0) else none
  | _ => none

/-- A quoted expression with its parked flag clear: its address. -/
def quoteOf (t : List Word) : Option Nat :=
  match t with
  | [w] => if symKind w = 9 && !bit w.toNat 48 then some (bits w.toNat 47 0) else none
  | _ => none

/-! ## Outcomes -/

/-- What a standard operator comes to. -/
inductive StdRun where
  /-- it rewrites to symbols at relative level 0 -/
  | done (s : State) (out : List Word)
  /-- it waits; an event brings it back -/
  | wait (s : State)
  /-- it has ended its expression by a trap -/
  | ended (s : State)
  /-- a far address that does not exist -/
  | fault (addr : Nat)

/-- The trap of a standard lesson (R285): the user-trap status with code 0xF000 plus a cause. -/
def State.standardTrap (s : State) (id : Nat) (cause : Nat) : StdRun := .ended (s.takeTrap id (trapOf stUser cause))

/-- A trap of an instruction that a standard lesson runs. -/
def State.stdTrap (s : State) (id : Nat) (t : TrapInfo) : StdRun := .ended (s.takeTrap id t)

/-! ## Arithmetic (R288, R289) -/

/-- A type's value as a datum. -/
def stdDatum (t : Ty) (v : Nat) : Datum := if Ty.isFloat t then .fp (decodeFp t v) else .int (readInt t v)

/-- One element of a binary operator, in 32 bits: the exact result rounded once, but for float `div` (R288, R289). -/
def stdBinary (op : Nat) (t : Ty) (a b : Nat) : Nat :=
  if Ty.isFloat t then
    let x := decodeFp t a
    let y := decodeFp t b
    let r : Fp := match op with
      | 1 => x.add y
      | 2 => x.add y.opp
      | 3 => x.mul y
      | 4 => f32 (f32Bits (x.mul (f32 (f32Bits (rcpFp y)))))
      | 5 => Fp.max x y
      | 6 => Fp.min x y
      | _ => lseFp x y
    if t = .f32 then f32Bits r else narrowFp t .rne r
  else
    let x := readInt t a
    let y := readInt t b
    match op with
    | 1 => writeInt t 32 (x + y)
    | 2 => writeInt t 32 (x - y)
    | 3 => writeInt t 32 (x * y)
    | 4 => writeInt t 32 (divide t x y).1
    | 5 => writeInt t 32 (max x y)
    | 6 => writeInt t 32 (min x y)
    | 9 => writeInt t 32 ((wbits32 x &&& wbits32 y : Nat) : Int)
    | 0xA => writeInt t 32 ((wbits32 x ||| wbits32 y : Nat) : Int)
    | _ => writeInt t 32 ((wbits32 x ^^^ wbits32 y : Nat) : Int)
where
  wbits32 (v : Int) : Nat := (v % (2 ^ 32 : Nat)).toNat

/-- Whether a binary operator accepts a type for scalars (R288). -/
def stdAccepts (op : Nat) (t : Ty) : Bool :=
  if op = 7 then t = .f32 else if 9 ≤ op then !Ty.isFloat t else true

/-- The tile formats that arithmetic accepts (R288). -/
def tileAccepts (t : Ty) : Bool := t = .f32 || t = .bf16 || t = .f16 || t = .i32

/-! ## Result tiles (R286) -/

/-- Allocate a result tile in the cell of the instance and write its bytes: its handle, or cause 7 (R285). The producer state
is the copybook entry's, or that of a write no entry logs. -/
def State.resultTile (s : State) (id : Nat) (t : Ty) (rows cols : Nat) (band : BitVec 16) (bs : List Byte)
    (log : Option (EntryInfo × List (Nat × Bool))) : Except Nat (Except TrapInfo (State × Nat)) :=
  match s.inst? id with
  | none => .error 7
  | some v =>
    let count := storedGranules t rows cols
    match s.findSpace v count with
    | none => .error 7
    | some (i, b) =>
      let h := handleOf v.place.cell (s.ctx v.place.ctx).home i
      let δ (p : Producer) : HdrDelta :=
        { HdrDelta.none i with alloc := some (newHeader t rows cols b count band), setDirty := true, producer := some p }
      let write (s : State) (v : Inst) (p : Producer) : State × Nat :=
        (((s.pokeSide v.place.ctx v.place.cell (b * 64) (bs ++ List.replicate (count * 64 - bs.length) 0#8)).noteWrite id v v.place.cell
          (b * 64) (count * 64)).writeHeader id v (δ p), h)
      match log with
      | some (e, srcs) =>
        match s.log v e (some h) srcs 0#64 with
        | .error t => .ok (.error t)
        | .ok (st, p) =>
          let v := { v with stage := st }
          .ok (.ok (write (s.setInst id v) v p))
      | none => .ok (.ok (write s v (if s.records v then .opaqueTile else s.unlogged v.place.ctx)))

/-- Finish with a tile. -/
def finishTile (s : State) (id : Nat) (r : Except Nat (Except TrapInfo (State × Nat))) : StdRun :=
  match r with
  | .error c => s.standardTrap id c
  | .ok (.error t) => s.stdTrap id t
  | .ok (.ok (s, h)) => .done s [mkTile h]

/-- The 32-bit codes of a tile's elements in its own type. -/
def tileCodes (h : HdrView) (bs : List Byte) : List Nat :=
  let w := Ty.width h.ty / 8
  (List.range (h.rows * h.cols)).map fun k => wordOfBytes ((List.range w).map fun b => bs.getD (k * w + b) 0#8)

/-- Read the tiles of handles: the trap of a bad handle or of a poisoned granule (06 R140; 24 R395). -/
def State.readTilesOf (s : State) (v : Inst) : List Nat → Except TrapInfo (List Tile)
  | [] => .ok []
  | h :: hs =>
    match s.tile v (BitVec.ofNat 64 h) with
    | .error t => .error t
    | .ok t =>
      if s.tilePoisoned v t then .error dataError
      else match s.readTilesOf v hs with | .error e => .error e | .ok ts => .ok (t :: ts)

/-- The `tew` operation that forms a binary operator on tiles (13 R304; 09 R200). -/
def tewOf (op : Nat) : Option Nat := match op with | 1 => some 0 | 2 => some 1 | 3 => some 2 | 5 => some 3 | 6 => some 4 | _ => none

/-- A binary operator on two tiles. -/
def stdTilePair (s : State) (id : Nat) (v : Inst) (op ha hb : Nat) : StdRun :=
  match s.readTilesOf v [ha, hb] with
  | .error t => s.stdTrap id t
  | .ok ts =>
    match ts with
    | [a, b] =>
      if a.hdr.ty ≠ b.hdr.ty || !tileAccepts a.hdr.ty || !stdAccepts op a.hdr.ty then s.standardTrap id 2
      else if a.hdr.rows ≠ b.hdr.rows || a.hdr.cols ≠ b.hdr.cols then s.standardTrap id 3
      else
        let cs := List.zipWith (stdBinary op a.hdr.ty) (tileCodes a.hdr (s.tileBytes v a)) (tileCodes b.hdr (s.tileBytes v b))
        let log := (tewOf op).map fun k => ((⟨1, 0x7C, k, 0, 0, 0, false, false⟩ : EntryInfo), [(ha, false), (hb, false)])
        finishTile s id (s.resultTile id a.hdr.ty a.hdr.rows a.hdr.cols 0x3F80#16 (packElements a.hdr.ty cs) log)
    | _ => s.standardTrap id 1

/-- Operators 0x0001 to 0x0007 and 0x0009 to 0x000B (R288). -/
def stdArith (s : State) (id : Nat) (v : Inst) (record : Bool) (op : Nat) (args : List (List Word)) : StdRun :=
  match args with
  | [x, y] =>
    match scalarOf x, scalarOf y, tileOf x, tileOf y, itemsOf x, itemsOf y with
    | some (t, a), some (u, b), _, _, _, _ =>
      if t ≠ u || !stdAccepts op t then s.standardTrap id 2 else .done s [mkScalar t (stdBinary op t a b)]
    | _, _, some a, some b, _, _ => stdTilePair s id v op a b
    | _, _, _, _, some xs, some ys =>
      if xs.length ≠ ys.length then s.standardTrap id 3
      else .done s (mkSeq (List.zipWith (fun a b => mkApp record (mkOp op) [a, b]) xs ys))
    | some _, _, _, _, _, some ys => .done s (mkSeq (ys.map fun b => mkApp record (mkOp op) [x, b]))
    | _, some _, _, _, some xs, _ => .done s (mkSeq (xs.map fun a => mkApp record (mkOp op) [a, y]))
    | _, _, _, _, _, _ => s.standardTrap id 1
  | _ => s.standardTrap id 1

/-- The pair of an affine argument: a sequence of two f32 scalars. -/
def affOf (t : List Word) : Option (Option (Nat × Nat)) :=
  match itemsOf t with
  | some [a, b] =>
    match scalarOf a, scalarOf b with
    | some (.f32, x), some (.f32, y) => some (some (x, y))
    | some _, some _ => some none
    | _, _ => none
  | _ => none

/-- The sequence of an affine pair. -/
def mkAff (p : Nat × Nat) : List Word := mkSeq [[mkScalar .f32 p.1], [mkScalar .f32 p.2]]

/-- `aff` (R289). -/
def stdAff (s : State) (id : Nat) (args : List (List Word)) : StdRun :=
  match args with
  | [x, y] =>
    match affOf x, affOf y with
    | some (some p), some (some q) => .done s (mkAff (affineJoin p q))
    | some none, _ | _, some none => s.standardTrap id 2
    | _, _ => s.standardTrap id 1
  | _ => s.standardTrap id 1

/-! ## Reductions, scans and cavities (R292, R293) -/

/-- The combiner that an operator symbol selects. -/
def combOf (op : Nat) : Option Nat :=
  match op with
  | 1 => some 0 | 3 => some 1 | 5 => some 2 | 6 => some 3 | 9 => some 4 | 0xA => some 5 | 0xB => some 6 | 8 => some 7 | 7 => some 8
  | _ => none

/-- Whether a combiner accepts an element type: bf16 and f16 are combined in f32. -/
def combAccepts (comb : Nat) (t : Ty) : Bool :=
  if comb = 8 then t = .f32
  else if t = .f32 || t = .bf16 || t = .f16 then comb ≤ 3
  else !Ty.isFloat t

/-- The type that elements are combined in. -/
def wideTy (t : Ty) : Ty := if t = .bf16 || t = .f16 then .f32 else t

/-- An element widened for combination. -/
def widenCode (t : Ty) (v : Nat) : Nat := if t = .bf16 || t = .f16 then f32Bits (decodeFp t v) else v

/-- A combined value narrowed once to the element type. -/
def narrowCode (t : Ty) (v : Nat) : Nat := if t = .bf16 || t = .f16 then narrowFp t .rne (f32 v) else v

/-- The combiners' operation on widened codes. -/
def wideCombine (comb : Nat) (t : Ty) (a b : Nat) : Nat :=
  if comb ≤ 3 || comb = 8 then combine comb (wideTy t) a b
  else writeInt t 32 (readInt t (combine comb t a b))

/-- The identity of a combiner in a type, widened. -/
def wideIdentity (comb : Nat) (t : Ty) : Nat := if wideTy t = .f32 then identity comb .f32 else writeInt t 32 (readInt t (identity comb t))

/-- Elements at their positions in a segment: element i at `first + step·i`. -/
def atPositions {α : Type} (seglen first step : Nat) (es : List α) : List (Option α) :=
  (List.range seglen).map fun p => if first ≤ p && (p - first) % step = 0 then es[(p - first) / step]? else none

/-- Which combination: 0 reduction, 1 inclusive, 2 exclusive prefix, 3 cavity. -/
def sweepPrimary (mode : Nat) : Nat × Bool :=
  match mode with | 0 => (0x80, false) | 1 => (0x81, false) | 2 => (0x81, true) | _ => (0x82, false)

/-- Combine codes standing at positions: the result of each element, or the single result of a reduction. -/
def sweepCodes (seglen first : Nat) (mode comb : Nat) (t : Ty) (cs : List Nat) : List Nat :=
  let vs := atPositions seglen first 1 (cs.map (widenCode t))
  let m := sweepPrimary mode
  let out (p : Nat) : Nat := narrowCode t ((sweepValue (wideCombine comb t) m.1 m.2 vs p).getD (wideIdentity comb t))
  if mode = 0 then [out first] else (List.range cs.length).map fun i => out (first + i)

/-- Put results into tiles of a shape, one after the other. -/
def State.resultTiles (s : State) (id : Nat) (t : Ty) (rows cols : Nat) : List (List Nat) → List Nat →
    Except Nat (Except TrapInfo (State × List Nat))
  | [], hs => .ok (.ok (s, hs.reverse))
  | cs :: rest, hs =>
    match s.resultTile id t rows cols 0x3F80#16 (packElements t cs) none with
    | .error c => .error c
    | .ok (.error e) => .ok (.error e)
    | .ok (.ok (s, h)) => s.resultTiles id t rows cols rest (h :: hs)

/-- A reduction, scan or cavity over the items of a sequence (R292, R293). -/
def stdSweep (s : State) (id : Nat) (v : Inst) (mode comb first : Nat) (items : List (List Word)) : StdRun :=
  let wrap (ts : List (List Word)) : List Word := if mode = 0 then ts.flatten else mkSeq ts
  if items.isEmpty then
    .done s (if mode = 0 then [mkScalar .f32 (identity comb .f32)] else mkSeq [])
  else if comb = 7 then
    let ps := items.map affOf
    if ps.any fun p => p.isNone then s.standardTrap id 1
    else if ps.any fun p => p = some none then s.standardTrap id 2
    else
      let es := ps.filterMap fun p => p.bind fun q => q
      let vs := atPositions v.place.seglen 4 4 es
      let m := sweepPrimary mode
      .done s (wrap ((List.range es.length).map fun i =>
        mkAff ((sweepValue affineJoin m.1 m.2 vs (4 + 4 * i)).getD affineIdentity)))
  else
    let scs := items.map scalarOf
    let tls := items.map tileOf
    if scs.all fun x => x.isSome then
      let es := scs.filterMap id'
      match es with
      | [] => s.standardTrap id 1
      | (t, _) :: _ =>
        if es.any (fun e => e.1 ≠ t) || !combAccepts comb t then s.standardTrap id 2
        else .done s (wrap ((sweepCodes v.place.seglen first mode comb t (es.map (·.2))).map fun c => [mkScalar t c]))
    else if tls.all fun x => x.isSome then
      match s.readTilesOf v (tls.filterMap id') with
      | .error t => s.stdTrap id t
      | .ok ts =>
        match ts with
        | [] => s.standardTrap id 1
        | t0 :: _ =>
          if (ts.any fun t => t.hdr.ty ≠ t0.hdr.ty) || !tileAccepts t0.hdr.ty || !combAccepts comb t0.hdr.ty ||
              ts.any fun t => t.hdr.rows ≠ t0.hdr.rows || t.hdr.cols ≠ t0.hdr.cols then s.standardTrap id 2
          else
            let codes := ts.map fun t => tileCodes t.hdr (s.tileBytes v t)
            let n := t0.hdr.rows * t0.hdr.cols
            -- per element index, the results of every output
            let cols := (List.range n).map fun e => sweepCodes v.place.seglen first mode comb t0.hdr.ty (codes.map fun c => c.getD e 0)
            let outs := (List.range (if mode = 0 then 1 else ts.length)).map fun i => cols.map fun c => c.getD i 0
            match s.resultTiles id t0.hdr.ty t0.hdr.rows t0.hdr.cols outs [] with
            | .error c => s.standardTrap id c
            | .ok (.error t) => s.stdTrap id t
            | .ok (.ok (s, hs)) => .done s (wrap (hs.map fun h => [mkTile h]))
    else if items.all fun x => (scalarOf x).isSome || (tileOf x).isSome then s.standardTrap id 2
    else s.standardTrap id 1
where
  id' {α : Type} (x : Option α) : Option α := x

/-! ## Functional forms and sequence operators (R294, R295) -/

/-- `ins`: applications bracketed as block(lo, 2^k) over element indices (R294; 04 R102). -/
def insertBlock (record : Bool) (f : Word) (xs : List (List Word)) : Nat → Nat → Option (List Word)
  | 0, lo => xs[lo]?
  | k + 1, lo =>
    match insertBlock record f xs k lo, insertBlock record f xs k (lo + 2 ^ k) with
    | some a, some b => some (mkApp record f [a, b])
    | some a, none => some a
    | none, r => r

/-- Whether a condition's scalar is true (R294). -/
def scalarTrue (t : Ty) (v : Nat) : Bool :=
  if Ty.isFloat t then !(decodeFp t v).eqv (.fin (Frac.ofInt 0)) || (decodeFp t v).isNan else readInt t v ≠ 0

/-- The seats that an unfolding request is allowed (03 R81). -/
def State.allowance (s : State) (c q a : Nat) : Nat :=
  let n := (s.part (s.ctx c).slot).cellcount
  min q (max a ((s.ctx c).emptySeats n - n / 8))

/-- The operator symbols that an application's arguments begin with. -/
def leadingOps (args : List (List Word)) : Option (List Word × List Word) :=
  match args.reverse with
  | x :: fs => if fs.isEmpty || fs.any (fun f => (opOf f).isNone) then none else some (fs.reverse.flatten, x)
  | [] => none

/-- Functional forms, 0x0030 to 0x0037 (R294). -/
def stdForm (s : State) (id : Nat) (record : Bool) (op : Nat) (args : List (List Word)) : StdRun :=
  match op, args with
  | 0x30, [f, xs] =>
    match opOf f, itemsOf xs with
    | some n, some is => .done s (mkSeq (is.map fun x => mkApp record (mkOp n) [x]))
    | _, _ => s.standardTrap id 1
  | 0x31, [f, xs] =>
    match opOf f, itemsOf xs with
    | some n, some is =>
      match insertBlock record (mkOp n) is (log2Ceil is.length) 0 with
      | some t => .done s t
      | none => s.standardTrap id 3
    | _, _ => s.standardTrap id 1
  | 0x32, args =>
    match leadingOps args with
    | some (fs, x) => .done s (fs.foldr (fun f t => mkApp record f [t]) x)
    | none => s.standardTrap id 1
  | 0x33, [fs, x] =>
    match itemsOf fs with
    | some ops =>
      if ops.isEmpty then s.standardTrap id 3
      else if ops.any (fun f => (opOf f).isNone) then s.standardTrap id 1
      else .done s (mkSeq (ops.map fun f => mkApp record (f.headD 0#64) [x]))
    | none => s.standardTrap id 1
  | 0x34, [b, f, g, x] =>
    match scalarOf b, opOf f, opOf g with
    | some (t, v), some m, some n => .done s (mkApp record (mkOp (if scalarTrue t v then m else n)) [x])
    | _, _, _ => s.standardTrap id 1
  | 0x35, [c, _] => .done s c
  | 0x36, [i, xs] =>
    match scalarOf i, itemsOf xs with
    | some (t, v), some is =>
      if Ty.isFloat t then s.standardTrap id 2
      else if readInt t v < 0 ∨ (is.length : Int) ≤ readInt t v then s.standardTrap id 4
      else .done s (is.getD (readInt t v).toNat [])
    | _, _ => s.standardTrap id 1
  | 0x37, [x] => .done s x
  | _, _ => s.standardTrap id 1

/-- The transpose of a list of rows of one length. -/
def transposeRows {α : Type} (rows : List (List α)) : List (List α) :=
  match rows with
  | [] => []
  | r :: _ => (List.range r.length).map fun j => rows.filterMap fun x => x[j]?

/-- Sequence operators, 0x0040 to 0x0046 (R295). -/
def stdSequence (s : State) (id : Nat) (v : Inst) (record : Bool) (op : Nat) (args : List (List Word)) : StdRun :=
  match op, args with
  | 0x40, [xs] => match itemsOf xs with | some is => .done s [mkScalar .i32 is.length] | none => s.standardTrap id 1
  | 0x41, [x] =>
    match itemsOf x, tileOf x with
    | some rows, _ =>
      let rs := rows.map itemsOf
      if rs.any fun r => r.isNone then s.standardTrap id 1
      else
        let rs := rs.filterMap fun r => r
        if rs.any fun r => r.length ≠ (rs.headD []).length then s.standardTrap id 3
        else .done s (mkSeq ((transposeRows rs).map mkSeq))
    | none, some h =>
      match s.readTilesOf v [h] with
      | .ok [t] =>
        if t.hdr.ty = .e2m1 then s.standardTrap id 2
        else
          let cs := tileCodes t.hdr (s.tileBytes v t)
          let out := (List.range (t.hdr.rows * t.hdr.cols)).map fun k => cs.getD (k % t.hdr.rows * t.hdr.cols + k / t.hdr.rows) 0
          finishTile s id (s.resultTile id t.hdr.ty t.hdr.cols t.hdr.rows t.hdr.band (packElements t.hdr.ty out) none)
      | .ok _ => s.standardTrap id 1
      | .error t => s.stdTrap id t
    | none, none => s.standardTrap id 1
  | 0x42, [x, ys] => match itemsOf ys with | some is => .done s (mkSeq (is.map fun y => mkSeq [x, y])) | none => s.standardTrap id 1
  | 0x43, [ys, x] => match itemsOf ys with | some is => .done s (mkSeq (is.map fun y => mkSeq [y, x])) | none => s.standardTrap id 1
  | 0x44, [x, ys] => match itemsOf ys with | some is => .done s (mkSeq (x :: is)) | none => s.standardTrap id 1
  | 0x45, [ys, x] => match itemsOf ys with | some is => .done s (mkSeq (is ++ [x])) | none => s.standardTrap id 1
  | 0x46, [n] =>
    match scalarOf n with
    | some (t, w) =>
      if Ty.isFloat t then s.standardTrap id 2
      else if readInt t w < 0 ∨ 7168 < readInt t w then s.standardTrap id 4
      else .done s (mkSeq [mkApp record (mkOp 0x46) [n, [mkScalar .i32 0]]])
    | none => s.standardTrap id 1
  | 0x46, [n, b] =>
    match scalarOf n, scalarOf b with
    | some (t, w), some (u, z) =>
      if Ty.isFloat t || Ty.isFloat u then s.standardTrap id 2
      else if readInt t w < 0 ∨ 7168 < readInt t w ∨ readInt u z < 0 then s.standardTrap id 4
      else
        let n' := (readInt t w).toNat
        let z' := (readInt u z).toNat
        let c := min (n' - z') (min 250 (s.allowance v.place.ctx (n' - z' + 5) 10 - 5))
        let more := if z' + c < n' then mkApp record (mkOp 0x46) [n, [mkScalar .i32 (z' + c)]] else []
        .done s ((List.range c).map (fun i => mkScalar .i32 (z' + i)) ++ more)
    | _, _ => s.standardTrap id 1
  | _, _ => s.standardTrap id 1

/-! ## Quoted terms and far tiles (R296, R299) -/

/-- The symbols of a quoted record, brought back by the `fetch` instruction (10 R229). -/
def State.quotedTerm (s : State) (v : Inst) (a : Nat) : Except (Option Nat × TrapInfo) (List Word) :=
  let n := v.place.cellcount
  if !s.fetchable v.place.ctx a 8 then .error (none, { status := stLease, cause := 0, addr := a })
  else if !farExists a 8 then .error (some a, dataError)
  else
    let h := readNat s.mem a 8
    let len := bits h 63 48
    if s.farPoisoned a 8 then .error (none, { dataError with addr := a })
    else if bits h 39 1 ≠ 0 then .error (none, trapOf stMalformedExpr 0)
    else if !s.fetchable v.place.ctx (a + 8) (8 * len) then .error (none, { status := stLease, cause := 0, addr := a + 8 })
    else if !farExists (a + 8) (8 * len) then .error (some (a + 8), dataError)
    else if len > 0 && s.farPoisoned (a + 8) (8 * len) then .error (none, { dataError with addr := a + 8 })
    else
      let ws := readWords s.mem (a + 8) len
      if ws.any fun w => !symbolOk n w then .error (none, trapOf stMalformedResult 0) else .ok ws

/-- Finish with the one term of a quoted record, changed symbol by symbol. -/
def stdQuoted (s : State) (id : Nat) (v : Inst) (a : Nat) (f : Word → Word) (k : List Word → List Word) : StdRun :=
  match s.quotedTerm v a with
  | .error (some x, _) => .fault x
  | .error (none, t) => s.stdTrap id t
  | .ok ws =>
    if (splitTerms [] 0 ws).length ≠ 1 || !termsOk 0 [] false (rebase ws) then s.standardTrap id 3
    else .done s (k (rebase (ws.map f)))

/-- Set the record flag on application opens and tile symbols (R299). -/
def setRecord (w : Word) : Word := if symKind w = 1 || symKind w = 6 then w ||| BitVec.ofNat 64 (2 ^ 51) else w

/-- Read bytes of a leased range: its address checked (24 R390). -/
def State.leasedRead (s : State) (v : Inst) (entry off n : Nat) : Except (Option Nat × TrapInfo) (List Byte) :=
  match leased (s.rangesOf v.place.launch) entry off n false with
  | none => .error (none, leaseTrap entry off)
  | some a =>
    if !farExists a n then .error (some a, dataError)
    else if s.farPoisoned a n then .error (none, { dataError with addr := a })
    else .ok (readBytes s.mem a n)

/-- `( fetch q )` and `( fetch fa sh )` (R296). -/
def stdFetch (s : State) (id : Nat) (v : Inst) (args : List (List Word)) : StdRun :=
  match args with
  | [q] => match quoteOf q with | some a => stdQuoted s id v a (fun w => w) (fun ws => ws) | none => s.standardTrap id 1
  | [fa, sh] =>
    match farOf fa, scalarOf sh with
    | some (e, o), some (t, n) =>
      if t ≠ .n32 then s.standardTrap id 2
      else
        match Ty.ofCode (bits n 20 16) with
        | none => s.standardTrap id 4
        | some ty =>
          let rows := bits n 7 0 + 1
          let cols := bits n 15 8 + 1
          if bits n 31 21 ≠ 0 || !tileTypes.contains ty || (ty = .e2m1 && cols % 8 ≠ 0) || 640 < storedGranules ty rows cols then
            s.standardTrap id 4
          else
            match s.leasedRead v e o (storedLength ty rows cols) with
            | .error (some a, _) => .fault a
            | .error (none, t) => s.stdTrap id t
            | .ok bs =>
              match s.resultTile id ty rows cols 0x3F80#16 bs none with
              | .error c => s.standardTrap id c
              | .ok (.error t) => s.stdTrap id t
              | .ok (.ok (s, h)) =>
                -- the new tile is a leaf (R304)
                let s := s.writeHeader id v { HdrDelta.none (h % 64) with producer := some .none }
                .done s [mkTile h]
    | _, _ => s.standardTrap id 1
  | _ => s.standardTrap id 1

/-! ## The order pass: `store` and `seq` (R297, R298) -/

/-- The order pass of a context's syllabus table, when it is enabled (R297, R305). -/
def State.orderPass (s : State) (c : Nat) : Option Nat :=
  let h := readNat s.mem (s.syllabus c) 8
  if bit h 23 && bits h 31 24 < (s.ctx c).passCount then some (bits h 31 24) else none

/-- Acquire the order pass: the first time the operation is sent to its engine, and its grant brings the lesson back
(`colls` counts the grant). -/
def withPass (s : State) (id : Nat) (v : Inst) (k : State → Nat → StdRun) : StdRun :=
  match s.orderPass v.place.ctx with
  | none => s.standardTrap id 6
  | some p =>
    if v.colls = 1 then
      -- released at once: handed on after the commit step and the writes that it covers (12 R268)
      let s := s.modPass v.place.slot p fun x => { x with pending := some s.ids }
      k (s.modSeg v.place.seg fun g => { g with releases := g.releases ++ [p] }) p
    else
      let f : IForm := { mask := 0, neg := false, la := false, ty := .i32, d := 0, a := 0, imm := ⟨p % 256, by omega⟩ }
      match s.sendSync (.pacq f) id v p p 0#64 0#64 with
      | .wait s w => .wait (s.modInst id fun u => { u with status := .waiting w })
      | _ => .wait s

/-- `( store fa t )` (R297): one staged copy of the tile's stored bytes. -/
def stdStore (s : State) (id : Nat) (v : Inst) (args : List (List Word)) : StdRun :=
  match args with
  | [fa, t] =>
    match farOf fa, tileOf t with
    | some (e, o), some h =>
      match s.readTilesOf v [h] with
      | .ok [tile] =>
        withPass s id v fun s _ =>
          let n := storedLength tile.hdr.ty tile.hdr.rows tile.hdr.cols
          let bs := (s.tileBytes v tile).take n
          match leased (s.rangesOf v.place.launch) e o n true with
          | none => s.stdTrap id (leaseTrap e o)
          | some a =>
            if !farExists a n then .fault a
            else
              match s.inst? id with
              | none => .wait s
              | some u =>
                match s.stageFar id u (.stored a bs) with
                | .error t => s.stdTrap id t
                | .ok s => .done s t
      | .ok _ => s.standardTrap id 1
      | .error t => s.stdTrap id t
    | _, _ => s.standardTrap id 1
  | _ => s.standardTrap id 1

/-- `( seq v q2 … qk )` (R298). -/
def stdSeq (s : State) (id : Nat) (v : Inst) (record : Bool) (args : List (List Word)) : StdRun :=
  match args with
  | [x] => .done s x
  | _ :: q :: qs =>
    if (q :: qs).any fun q => (quoteOf q).isNone then s.standardTrap id 1
    else
      match quoteOf q with
      | none => s.standardTrap id 1
      | some a => withPass s id v fun s _ => stdQuoted s id v a (fun w => w) fun t => mkApp record (mkOp 0x52) (t :: qs)
  | [] => s.standardTrap id 1

/-! ## Matrix multiply and quantise (R290, R291, R301) -/

/-- The f32 codes of a 16 × 16 product from accumulators, X and W as functions (04 R100). -/
def productFrom (acc : List Nat) (x w : Nat → Nat → Fp) : List Nat :=
  (List.range 256).map fun e => dotFrom (x (e / 16)) (fun k => w k (e % 16)) 16 0 (acc.getD e 0)

/-- `( mm x w )` (R290): in record mode an `mma` entry and an `acccvt` entry. -/
def stdMmTiles (s : State) (id : Nat) (v : Inst) (hx hw : Nat) : StdRun :=
  match s.readTilesOf v [hx, hw] with
  | .ok [x, w] =>
    if !matTypes.contains x.hdr.ty || !matTypes.contains w.hdr.ty || rateClass x.hdr.ty ≠ rateClass w.hdr.ty then s.standardTrap id 2
    else if x.hdr.rows ≠ 16 || x.hdr.cols ≠ 16 || w.hdr.rows ≠ 16 || w.hdr.cols ≠ 16 then s.standardTrap id 4
    else
      let cs := productFrom [] (tileFp x.hdr (s.tileBytes v x)) (tileFp w.hdr (s.tileBytes v w))
      match s.log v ⟨1, 0x73, 15, 3, 3, 7, false, false⟩ none [(hx, false), (hw, true)] 0#64 with
      | .error t => s.stdTrap id t
      | .ok (st, _) =>
        let s := s.setInst id { v with stage := st }
        finishTile s id (s.resultTile id .f32 16 16 0x3F80#16 (packElements .f32 cs) (some (⟨1, 0x79, 0, 3, 0, 0, false, false⟩, [])))
  | .ok _ => s.standardTrap id 1
  | .error t => s.stdTrap id t

/-- The n32 values of scalar terms. -/
def n32s (ts : List (List Word)) : Option (List Nat) :=
  let vs := ts.map scalarOf
  if vs.all fun v => match v with | some (.n32, _) => true | _ => false then some (vs.filterMap fun v => v.map (·.2)) else none

/-- Whether the sizes of the far form keep R291. -/
def mmSizesOk (m k n : Nat) : Bool :=
  [m, k, n].all (fun d => d % 16 = 0 && 16 ≤ d && d ≤ 65536) && m * k * n ≤ 2 ^ 30

/-- The far forms of `mm` (R291). -/
def stdMmFar (s : State) (id : Nat) (v : Inst) (record : Bool) (fa fb : List Word) (nums : List (List Word)) : StdRun :=
  match farOf fa, farOf fb, n32s nums with
  | some _, some _, some [m, k, n, fm] =>
    if !mmSizesOk m k n then s.standardTrap id 4
    else if fm ≥ 32 || !(match Ty.ofCode fm with | some t => matTypes.contains t && t ≠ .e2m1 | none => false) then s.standardTrap id 2
    else .done s (mkSeq [mkApp record (mkOp 0x10) ([fa, fb] ++ nums ++ [[mkScalar .n32 0]])])
  | some _, some _, some [m, k, n, fm, t0] =>
    if !mmSizesOk m k n || fm ≥ 32 then s.standardTrap id 4
    else
      let total := (m / 16) * (n / 16)
      let rest := total - t0
      let a := s.allowance v.place.ctx (8 * rest + 10) 18
      let c := max 1 (min rest (min 78 ((a - 10) / 8)))
      let tile (t : Nat) : List Word :=
        mkApp record (mkOp 0x11) [fa, fb, [mkScalar .n32 (t / (n / 16) * 65536 + t % (n / 16))], [mkScalar .n32 (k / 16 * 65536 + n / 16)],
          [mkScalar .n32 fm]]
      let more := if t0 + c < total then mkApp record (mkOp 0x10) ([fa, fb] ++ nums.take 4 ++ [[mkScalar .n32 (t0 + c)]]) else []
      if total ≤ t0 then s.standardTrap id 4
      else .done s ((List.range c).flatMap (fun i => tile (t0 + i)) ++ more)
  | _, _, _ => s.standardTrap id 1

/-- Read one 16 × 16 tile of a far row-major matrix: 16 runs of 16 elements. -/
def State.farTile (s : State) (v : Inst) (e o w width : Nat) : Nat → Nat → Except (Option Nat × TrapInfo) (List Byte)
  | 0, _ => .ok []
  | n + 1, r =>
    match s.leasedRead v e (o + r * width * w) (16 * w) with
    | .error x => .error x
    | .ok bs => match s.farTile v e o w width n (r + 1) with | .error x => .error x | .ok cs => .ok (bs ++ cs)

/-- The elements of a far tile as a function. -/
def farFp (t : Ty) (bs : List Byte) : Nat → Nat → Fp := fun i j =>
  let w := Ty.width t / 8
  decodeFp t (wordOfBytes ((bs.drop ((16 * i + j) * w)).take w))

/-- Accumulate `n` tile products in ascending k (R291). -/
def State.mmtSum (s : State) (v : Inst) (ty : Ty) (fa fb : Nat × Nat) (i j kt nt : Nat) :
    Nat → Nat → List Nat → Except (Option Nat × TrapInfo) (List Nat)
  | 0, _, acc => .ok acc
  | n + 1, k, acc =>
    let w := Ty.width ty / 8
    match s.farTile v fa.1 (fa.2 + (16 * i * (16 * kt) + 16 * k) * w) w (16 * kt) 16 0,
        s.farTile v fb.1 (fb.2 + (16 * k * (16 * nt) + 16 * j) * w) w (16 * nt) 16 0 with
    | .ok x, .ok y => s.mmtSum v ty fa fb i j kt nt n (k + 1) (productFrom acc (farFp ty x) (farFp ty y))
    | .error e, _ => .error e
    | _, .error e => .error e

/-- `( mmt fa fb ij kn fm )` (R291). -/
def stdMmt (s : State) (id : Nat) (v : Inst) (args : List (List Word)) : StdRun :=
  match args with
  | [fa, fb, ij, kn, fm] =>
    match farOf fa, farOf fb, n32s [ij, kn, fm] with
    | some a, some b, some [x, y, m] =>
      match (if m < 32 then Ty.ofCode m else none) with
      | none => s.standardTrap id 2
      | some ty =>
        if !matTypes.contains ty || ty = .e2m1 then s.standardTrap id 2
        else
          match s.mmtSum v ty a b (x / 65536) (x % 65536) (y / 65536) (y % 65536) (y / 65536) 0 [] with
          | .error (some z, _) => .fault z
          | .error (none, t) => s.stdTrap id t
          | .ok cs => finishTile s id (s.resultTile id .f32 16 16 0x3F80#16 (packElements .f32 cs) none)
    | _, _, _ => s.standardTrap id 1
  | _ => s.standardTrap id 1

/-- `( quant t fm )` and `( quant t fm b )` (R301). -/
def stdQuant (s : State) (id : Nat) (v : Inst) (t fm : List Word) (band : Option (List Word)) : StdRun :=
  match tileOf t, n32s [fm] with
  | some h, some [m] =>
    match s.readTilesOf v [h] with
    | .error e => s.stdTrap id e
    | .ok [b] =>
      if !(9 ≤ m && m ≤ 0xD) then s.standardTrap id 2
      else
        let ty := (Ty.ofCode m).getD .bf16
        let given : Option (Option Nat) := match band with
          | none => some none
          | some w => match scalarOf w with | some (.bf16, x) => some (some x) | _ => none
        match given with
        | none => s.standardTrap id 2
        | some g =>
          if !(b.hdr.ty = .f32 || b.hdr.ty = .bf16 || b.hdr.ty = .f16) then s.standardTrap id 2
          else if ty = .e2m1 && b.hdr.cols % 8 ≠ 0 then s.standardTrap id 4
          else
            let els := tileElements b.hdr (s.tileBytes v b)
            let amax := amaxOf (els.map Datum.toFp)
            let own : Nat := if amax.num = 0 then 0x3F80 else bandOf amax
            let use : Nat := match g with
              | some x => let y := x % 2 ^ 15; if y = 0 ∨ (FFmt.ofTy .bf16).maxCode < y then own else y
              | none => own
            let bs := if ty = .e2m1 then packE2m1 .rne (bandFrac (BitVec.ofNat 16 use)) (els.map Datum.toFp)
              else packElements ty (els.map (convertDatum .rne ty))
            let prim := if g.isSome then 0x7B else 0x7A
            finishTile s id (s.resultTile id ty b.hdr.rows b.hdr.cols (if ty = .e2m1 then BitVec.ofNat 16 use else 0x3F80#16) bs
              (some (⟨1, prim, 0, 0, 0, 0, false, false⟩, [(h, false)])))
    | .ok _ => s.standardTrap id 1
  | _, _ => s.standardTrap id 1

/-! ## One standard operator -/

/-- Run a standard operator of a segment, but for `reverse` and `xchg` (13, R288 to R301). -/
def State.runOperator (s : State) (id : Nat) (v : Inst) (op : Nat) (record : Bool) (args : List (List Word)) : StdRun :=
  if op = 8 then stdAff s id args
  else if op ≤ 0xB then stdArith s id v record op args
  else if op = 0x10 then
    match args with
    | [x, w] =>
      match tileOf x, tileOf w with
      | some hx, some hw => stdMmTiles s id v hx hw
      | _, _ => s.standardTrap id 1
    | fa :: fb :: nums => stdMmFar s id v record fa fb nums
    | _ => s.standardTrap id 1
  else if op = 0x11 then stdMmt s id v args
  else if op = 0x20 ∨ op = 0x21 then
    match args with
    | [xs] =>
      match itemsOf xs with
      | some is =>
        if is.isEmpty then .done s [mkScalar .f32 (if op = 0x20 then 0 else 0x3F800000)]
        else stdSweep s id v 0 (op - 0x20) 3 is
      | none => s.standardTrap id 1
    | _ => s.standardTrap id 1
  else if op ≤ 0x24 then
    match args with
    | [f, xs] =>
      match (opOf f).bind combOf, itemsOf xs with
      | some comb, some is => stdSweep s id v (if op = 0x22 then 1 else if op = 0x23 then 2 else 3) comb 4 is
      | _, _ => s.standardTrap id 1
    | _ => s.standardTrap id 1
  else if op ≤ 0x37 then stdForm s id record op args
  else if op ≤ 0x46 then stdSequence s id v record op args
  else if op = 0x50 then stdFetch s id v args
  else if op = 0x51 then stdStore s id v args
  else if op = 0x52 then stdSeq s id v record args
  else if op = 0x60 then
    match args with
    | [q] => match quoteOf q with | some a => stdQuoted s id v a setRecord (fun ws => ws) | none => s.standardTrap id 1
    | _ => s.standardTrap id 1
  else
    match args with
    | [t, fm] => stdQuant s id v t fm none
    | [t, fm, b] => stdQuant s id v t fm (some b)
    | _ => s.standardTrap id 1

end Sys2Proof.Machine
end

