-- ==== Sys2Proof/Machine/Collective.lean ====
section
/-!
DEFINITION. Machine/Collective.lean: the standard operator `xchg`, its layouts and steps, the failures of a collective, and
writes that arrive from peers (21 R358 to R368; 22 R369). What other members hold and when it arrives are free values (log 36).
-/

namespace Sys2Proof.Machine

/-- collective-mismatch (24 R391) -/
def stCollMismatch : Nat := 0x40
/-- digest-mismatch -/
def stDigestMismatch : Nat := 0x41
/-- member-lost -/
def stMemberLost : Nat := 0x42

/-! ## Layouts (R358, R359) -/

/-- A layout: base device, combiner, type, tensor sizes, mesh sizes, shard axes and axis roles. -/
structure Layout where
  base : Nat
  comb : Nat
  ty : Ty
  dims : List Nat
  mesh : List Nat
  shard : List Nat
  role : List Nat
deriving DecidableEq, Repr

/-- The product of a list. -/
def product (l : List Nat) : Nat := l.foldl (· * ·) 1

/-- Read a layout from the symbols of its record, or a cause of R285. -/
def Layout.ofTerm (ws : List Word) : Except Nat Layout :=
  match splitTerms [] 0 ws with
  | [t] =>
    match itemsOf t with
    | none => .error 1
    | some is =>
      match n32s is with
      | none => .error 1
      | some vs =>
        match vs with
        | [] => .error 3
        | w :: rest =>
          let d := bits w 3 0
          let r := bits w 5 4 + 1
          if bits w 31 29 ≠ 0 ∨ bits w 15 13 ≠ 0 ∨ bits w 7 6 ≠ 0 ∨ d = 0 ∨ 4 < d ∨ 3 < r ∨ !([0, 2, 3].contains (bits w 19 16)) then .error 4
          else if rest.length ≠ 2 * d + 2 * r then .error 3
          else
            match Ty.ofCode (bits w 12 8) with
            | none => .error 2
            | some ty =>
              let l : Layout := { base := bits w 28 20, comb := bits w 19 16, ty, dims := rest.take d, mesh := (rest.drop d).take r,
                                  shard := (rest.drop (d + r)).take d, role := rest.drop (2 * d + r) }
              let sharded := l.shard.filter (· ≠ 0)
              let ok := l.dims.all (fun n => 1 ≤ n && n ≤ 2 ^ 24) && l.mesh.all (1 ≤ ·) && product l.mesh ≤ 512 &&
                l.base + product l.mesh ≤ 512 && sharded.all (· ≤ r) && sharded.eraseDups.length = sharded.length &&
                (l.dims.zip l.shard).all (fun p => p.2 = 0 || p.1 % max 1 (l.mesh.getD (p.2 - 1) 1) = 0) &&
                l.role.all (· ≤ 1) && l.role.zipIdx.all fun p => p.1 = 0 || !sharded.contains (p.2 + 1)
              if !(ty = .i32 || ty = .n32 || ty = .f32 || ty = .bf16) then .error 2
              else if ok then .ok l else .error 4
  | _ => .error 3

/-- A member's mesh coordinates: the last axis varies fastest (R359). -/
def coordOf (mesh : List Nat) (n : Nat) : List Nat :=
  (mesh.zipIdx).map fun p => n / product (mesh.drop (p.2 + 1)) % max 1 p.1

/-- The dimension that an axis shards, if any. -/
def Layout.dimOf (l : Layout) (axis : Nat) : Option Nat := l.shard.findIdx? (· = axis + 1)

/-- The sizes of a member's block. -/
def Layout.block (l : Layout) : List Nat :=
  (l.dims.zip l.shard).map fun p => if p.2 = 0 then p.1 else p.1 / max 1 (l.mesh.getD (p.2 - 1) 1)

/-- Bytes of a block. -/
def Layout.bytes (l : Layout) : Nat := product l.block * (Ty.width l.ty / 8)

/-- The steps along an axis by its change of role; none where it is refused (R361). -/
def axisSteps (a b : Layout) (axis : Nat) : Option (List CollStep) :=
  let st (k : CollKind) : CollStep := { axis, kind := k }
  let pa : Bool := a.role.getD axis 0 = 1
  let pb : Bool := b.role.getD axis 0 = 1
  match pa, a.dimOf axis, pb, b.dimOf axis with
  | true, _, true, _ => some []
  | true, _, false, some k => some [st (.reduceScatter k)]
  | true, _, false, none => some [st .reduceWhole, st .gatherWhole]
  | false, _, true, _ => none
  | false, none, false, none => some []
  | false, some k, false, none => some [st (.allGather k)]
  | false, none, false, some k => some [st (.slice k)]
  | false, some k, false, some l => some (if k = l then [] else [st (.allToAll k l)])

/-! ## Blocks as lists of element codes -/

/-- All indices of a block, the last dimension fastest. -/
def indicesOf : List Nat → List (List Nat)
  | [] => [[]]
  | d :: ds => (List.range d).flatMap fun i => (indicesOf ds).map (i :: ·)

/-- The place of an index in a block. -/
def flatIndex (dims idx : List Nat) : Nat := (dims.zip idx).foldl (fun n p => n * p.1 + p.2) 0

/-- Block c of a along a dimension. -/
def sliceDim (dims : List Nat) (k a c : Nat) (es : List Nat) : List Nat × List Nat :=
  let n := dims.getD k 1 / max 1 a
  let dims' := dims.set k n
  (dims', (indicesOf dims').map fun i => es.getD (flatIndex dims (i.set k (i.getD k 0 + c * n))) 0)

/-- Blocks joined along a dimension. -/
def joinDim (dims : List Nat) (k : Nat) (parts : List (List Nat)) : List Nat × List Nat :=
  let n := dims.getD k 1
  let dims' := dims.set k (n * parts.length)
  (dims', (indicesOf dims').map fun i => (parts.getD (i.getD k 0 / max 1 n) []).getD (flatIndex dims (i.set k (i.getD k 0 % max 1 n))) 0)

/-- Element codes of bytes, and the bytes of codes. -/
def codesOf (t : Ty) (bs : List Byte) : List Nat :=
  let w := Ty.width t / 8
  (List.range (bs.length / max 1 w)).map fun i => wordOfBytes ((bs.drop (i * w)).take w)
/-- See `codesOf`. -/
def bytesOfCodes (t : Ty) (cs : List Nat) : List Byte := cs.flatMap fun c => bytesOfWord (Ty.width t / 8) c

/-- The codes that a peer sends: a free value. -/
def peerCodes (t : Ty) (n count : Nat) : List Nat :=
  let need := count * (Ty.width t / 8)
  codesOf t ((Config.peerBytes n ++ List.replicate need 0#8).take need)

/-- One combination of two elements, rounded once in the type (R363). -/
def collCombine (comb : Nat) (t : Ty) (a b : Nat) : Nat :=
  stdBinary (match comb with | 2 => 5 | 3 => 6 | _ => 1) t a b % 2 ^ Ty.width t

/-- Insert by a key. -/
def insertKey (x : Nat × Nat) : List (Nat × Nat) → List (Nat × Nat)
  | [] => [x]
  | y :: ys => if x.1 < y.1 then x :: y :: ys else y :: insertKey x ys

/-- The combination of the partials of an axis: the canonical order over the coordinates at levels 1 and 2, an arrival order that
free values choose at level 0; a lost member is absent (R363, R368). -/
def combinePartials (level comb run : Nat) (t : Ty) (ps : List (Option Nat)) : Nat :=
  if level = 0 then
    let order := (ps.zipIdx.filterMap fun p => p.1.map fun v => (Config.arrivalTie (run + p.2), v)).foldl (fun l x => insertKey x l) []
    match order with
    | [] => 0
    | x :: xs => xs.foldl (fun a y => collCombine comb t a y.2) x.2
  else (reduceOf (collCombine comb t) ps).getD 0

/-- Apply a step to a member's block. `n` numbers the free values of the step: member m's block is number n + m. -/
def Collective.apply (k : Collective) (st : CollStep) (n : Nat) : Collective :=
  let a := max 1 (k.mesh.getD st.axis 1)
  let c := k.coord.getD st.axis 0
  let es := codesOf k.ty k.data
  let out (p : List Nat × List Nat) : Collective := { k with dims := p.1, data := bytesOfCodes k.ty p.2 }
  -- the blocks of all members of the axis, the own one at its coordinate
  let members (own : List Nat) : List (List Nat) :=
    (List.range a).map fun m => if m = c then own else peerCodes k.ty (n + m) own.length
  let reduce (own : List Nat) : List Nat :=
    let all := members own
    (List.range own.length).map fun e => combinePartials k.level k.comb n k.ty
      (all.zipIdx.map fun p => if k.lost.contains p.2 then none else some (p.1.getD e 0))
  match st.kind with
  | .reduceScatter d => let p := sliceDim k.dims d a c es; out (p.1, reduce p.2)
  | .reduceWhole => out (k.dims, reduce es)
  | .gatherWhole => k
  | .allGather d => out (joinDim k.dims d (members es))
  | .slice d => out (sliceDim k.dims d a c es)
  | .allToAll d l => let p := sliceDim k.dims l a c es; out (joinDim p.1 d (members p.2))

/-- Whether a step needs traffic with other members. -/
def Collective.remote (k : Collective) (st : CollStep) : Bool :=
  1 < k.mesh.getD st.axis 1 && (match st.kind with | .slice _ => false | _ => true)

/-! ## The operator (R360 to R362; 13 R300) -/

/-- A fabric event (27 R419). -/
def State.fabricEvent (s : State) : State :=
  { s with dev := { s.dev with live := { s.dev.live with fabric := s.dev.live.fabric + 1#64 } } }

/-- Whether a collective may start a step: its context runs and is not being pre-empted (R364). -/
def State.mayStep (s : State) (c : Nat) : Bool :=
  let p := s.part (s.ctx c).slot
  p.running = some c && p.preempt.isNone

/-- Start the next step, or the end of the collective: it completes after a free time; a member that sends nothing for 2 ms is
lost (R361, R368). -/
def State.startStep (s : State) (id : Nat) (k : Collective) : State :=
  if !s.mayStep k.ctx then { s with colls := putA s.colls id { k with stepping := false } }
  else
    let s := { s with colls := putA s.colls id { k with stepping := true, lastBeat := s.clk } }
    match k.steps with
    | [] => s.schedule s.clk (.collectiveStepComplete id)
    | st :: _ =>
      if k.remote st then
        ({ s with fresh := s.fresh + 1 }.schedule (s.clk + 1 + Config.stepTime s.fresh) (.collectiveStepComplete id)).schedule
          (s.clk + 6600000) (.memberLostTimeout id)
      else s.schedule (s.clk + 1) (.collectiveStepComplete id)

/-- The symbols of a quoted layout, or how the operator stops. -/
def State.layoutOf (s : State) (v : Inst) (t : List Word) : Except (Option Nat × TrapInfo) Layout :=
  match quoteOf t with
  | none => .error (none, trapOf stUser 1)
  | some a =>
    match s.quotedTerm v a with
    | .error e => .error e
    | .ok ws => match Layout.ofTerm ws with | .ok l => .ok l | .error c => .error (none, trapOf stUser c)

/-- `( xchg fa qa qb )`: the collective begins, and its segment is engaged (R300, R359 to R362). -/
def State.runXchg (s : State) (id : Nat) (v : Inst) (args : List (List Word)) : StdRun :=
  match args with
  | [fa, qa, qb] =>
    match farOf fa with
    | none => s.standardTrap id 1
    | some (e, o) =>
      match s.layoutOf v qa, s.layoutOf v qb with
      | .error (some a, _), _ | _, .error (some a, _) => .fault a
      | .error (none, t), _ => s.stdTrap id t
      | _, .error (none, t) => s.stdTrap id t
      | .ok a, .ok b =>
        let steps := (List.range a.mesh.length).map (axisSteps a b)
        let member := s.dev.number - a.base
        if a.dims ≠ b.dims ∨ a.mesh ≠ b.mesh ∨ a.base ≠ b.base ∨ a.ty ≠ b.ty ∨ a.comb ≠ b.comb ∨ s.dev.number < a.base ∨
            product a.mesh ≤ member ∨ steps.any (·.isNone) then s.standardTrap id 4
        else
          match s.leasedRead v e o a.bytes with
          | .error (some x, _) => .fault x
          | .error (none, t) => s.stdTrap id t
          | .ok bs =>
            let key := (v.place.ctx, a.base, a.mesh)
            let n := ((s.collCounts.find? fun p => p.1 = key).map (·.2)).getD 0
            let level := ((lookupA s.launches v.place.launch).map (·.level)).getD 0
            let w := s.newId
            let k : Collective := {
              inst := id, seg := v.place.seg, ctx := v.place.ctx, launch := v.place.launch, level, entry := e,
              dest := o + (a.bytes + 63) / 64 * 64, base := a.base, mesh := a.mesh, coord := coordOf a.mesh member, comb := a.comb,
              ty := a.ty, dims := a.block, data := bs, steps := (steps.filterMap fun x => x).flatten, number := n, stepNo := 0,
              stepping := true, lastBeat := s.clk, lost := [] }
            let s := { w.2 with colls := putA w.2.colls w.1 k,
                                collCounts := (key, n + 1) :: w.2.collCounts.filter fun p => p.1 ≠ key, fresh := w.2.fresh + 1 }
            .wait ((s.engage v.place.seg).schedule (s.clk + 1 + Config.stepTime s.fresh) (.collectiveHandshake w.1))
  | _ => s.standardTrap id 1

/-- A collective ends its expression on this member: its segment is dropped (R362, R365, R366, R368). -/
def State.endCollective (s : State) (id : Nat) (k : Collective) (status : Nat) : State :=
  let seg := lookupA s.segs k.seg
  let openSeat := (seg.map (·.openSeat)).getD 0
  let s := s.report k.ctx { Card.ofStatus status 1 with opnum := 0x70, openSeat, launch := k.launch }
  let s := (s.handReleases k.ctx ((seg.map (·.releases)).getD [])).discard k.seg
  (({ s with colls := delA s.colls id }).fabricEvent).endExpression k.launch status openSeat

/-- COLLECTIVE_HANDSHAKE (R362): the members' layout pairs are compared; step 0 starts, or the collective ends. -/
def execCollectiveHandshake (id : Nat) (s : State) : Host.Outcome State Fault Refusal :=
  match lookupA s.colls id with
  | none => .next s
  | some k =>
    let agree := Config.peersAgree s.fresh
    let s := { s with fresh := s.fresh + 1 }
    if agree then .next (s.startStep id k) else .next (s.endCollective id k stCollMismatch)

/-- The collective is complete: the destination shard is written, and the segment may commit (R360, R365). -/
def State.finishCollective (s : State) (id : Nat) (k : Collective) : Host.Outcome State Fault Refusal :=
  match leased (s.rangesOf k.launch) k.entry k.dest k.data.length true with
  | none => .next (s.endCollective id k stLease)
  | some a =>
    if !farExists a k.data.length then .fault (.noSuchFarAddress a)
    else
      let s := ({ s with colls := delA s.colls id }.pokeFar a k.data).modSeg k.seg fun g =>
        { g with result := some [mkSym 8 (farRef k.entry k.dest)] }
      let s := if k.lost.isEmpty then s
        else (s.report k.ctx { Card.ofStatus stMemberLost 1 with opnum := 0x70, launch := k.launch }).modLaunch k.launch fun l =>
          { l with noted := some stMemberLost }
      .next (s.schedule s.clk (.segmentCommit k.seg))

/-- COLLECTIVE_STEP_COMPLETE (R361, R366): this member's part of a step is complete; at level 2 the digests of what it received
are compared; then the next step starts. -/
def execCollectiveStepComplete (id : Nat) (s : State) : Host.Outcome State Fault Refusal :=
  match lookupA s.colls id with
  | none => .next s
  | some k =>
    if !k.stepping then .next s
    else
      match k.steps with
      | [] => s.finishCollective id k
      | st :: rest =>
        let n := s.fresh
        let bad := k.level = 2 && k.remote st && Config.digestDiffers n
        let s := { s with fresh := n + k.mesh.getD st.axis 1 }
        if bad then .next (s.endCollective id k stDigestMismatch)
        else .next (s.startStep id { k.apply st n with steps := rest, stepNo := k.stepNo + 1 })

/-- PARKED_REPLY (R364): for a context that is not running here the device answers its peers with a parked reply; a reply that
a peer sends restarts this member's loss timer. -/
def execParkedReply (c id : Nat) (s : State) : Host.Outcome State Fault Refusal :=
  if !((s.part (s.ctx c).slot).running = some c) then
    .next { s with dev := { s.dev with parkedReplies := (c, id) :: s.dev.parkedReplies } }
  else
    match lookupA s.colls id with
    | none => .next s
    | some k =>
      if !k.stepping then .next s
      else .next ({ s with colls := putA s.colls id { k with lastBeat := s.clk } }.schedule (s.clk + 6600000) (.memberLostTimeout id))

/-- SWITCH_SLOT_LOSS (R367): the affected chunks are rerun in the same order of combination, which adds time alone. -/
def execSwitchSlotLoss (id : Nat) (s : State) : Host.Outcome State Fault Refusal :=
  match lookupA s.colls id with
  | none => .next s
  | some k =>
    let s := s.unschedule (· = Instr.collectiveStepComplete id)
    .next (s.startStep id k)

/-- A member of a collective's step is lost (R368). -/
def State.memberLost (s : State) (id : Nat) (k : Collective) : State :=
  match k.steps with
  | [] => s
  | st :: _ =>
    if !k.stepping || !k.remote st then s
    else
      let reduces := match st.kind with | .reduceScatter _ | .reduceWhole => true | _ => false
      let needsLost := st.kind = .reduceWhole
      if k.level = 2 ∨ !reduces ∨ needsLost then s.endCollective id k stMemberLost
      else
        -- the survivors rerun the affected chunks with the lost member absent
        let a := max 1 (k.mesh.getD st.axis 1)
        let m := Config.lostMember s.fresh % a
        let m := if m = k.coord.getD st.axis 0 then (m + 1) % a else m
        let s := ({ s with fresh := s.fresh + 1 }.unschedule (· = Instr.collectiveStepComplete id)).fabricEvent
        s.startStep id { k with lost := k.lost ++ [m] }

/-- MEMBER_LOST_TIMEOUT (R368): no beat, parked replies included, for 2 ms. -/
def execMemberLostTimeout (id : Nat) (s : State) : Host.Outcome State Fault Refusal :=
  match lookupA s.colls id with
  | none => .next s
  | some k => if k.lastBeat + 6600000 ≤ s.clk then .next (s.memberLost id k) else .next s

/-- LINK_DOWN (R368): a port reports link-down; every step under way loses a member. -/
def execLinkDown (plane : Nat) (s : State) : Host.Outcome State Fault Refusal :=
  let s := { s with dev := { s.dev with links := s.dev.links.set (plane % 16) { (s.dev.links[plane % 16]'(Nat.mod_lt _ (by decide))) with up := false }
                                          (Nat.mod_lt _ (by decide)) } }
  .next (s.colls.foldl (fun s k => s.memberLost k.1 k.2) s)

/-! ## Writes from peers (22 R369) -/

/-- A peer window entry: its first byte's address and its size (23 R380). -/
def Ctx.window (x : Ctx) (e : Nat) : Nat × Nat := (x.blockWord (10 + e) % 2 ^ 48, bits (x.blockWord (10 + e)) 63 48 * 65536)

/-- The context of a fabric tag. -/
def State.ctxOfTag (s : State) (tag : Nat) : Option Nat :=
  (s.ctxs.find? fun x => x.2.state ≠ .absent && bits (x.2.blockWord 0) 63 48 = tag).map (·.1)

/-- PEER_WRITE_ARRIVAL (R369): the write is resolved through the peer window of the context with its tag; what the window covers
is performed, and a whole write's counter is incremented 40 clk later, whether or not the context is resident. A write wakes
a device in retention (26 R409). -/
def execPeerWriteArrival (w : PeerWrite) (s : State) : Host.Outcome State Fault Refusal :=
  let s := if s.dev.power = .retention then { s with dev := { s.dev with power := .active } } else s
  if w.device ≠ s.dev.number then .next s
  else
    match s.ctxOfTag w.fabric with
    | none => .next s
    | some c =>
      let win := (s.ctx c).window w.entry
      let n := min w.bytes.length (win.2 - w.offset)
      let a := win.1 + w.offset
      if 8 ≤ w.entry ∨ win.2 = 0 ∨ n = 0 then .next s
      else if !farExists a n then .fault (.noSuchFarAddress a)
      else
        let new := w.bytes.take n
        let bs := match w.red with
          | some (t, comb) => combineBytes t comb (readBytes s.mem a n) new
          | none => new
        let s := s.pokeFar a bs
        match w.counter with
        | some k => if n = w.bytes.length then .next (s.schedule (s.clk + 40) (.counterIncrement c k)) else .next s
        | none => .next s

end Sys2Proof.Machine
end

