-- ==== Sys2Proof/Machine/Queues.lean ====
section
/-!
DEFINITION. Machine/Queues.lean: launch queues with their spill rings, the places of records and their launches, the
virtual queues and the memory-side agent (23 R375, R377, R378, R383; 25 R397 to R400).
-/

namespace Sys2Proof.Machine

/-! ## Records (23 R375) -/

/-- Word `i` of a record as a number. -/
def recWord (r : List Word) (i : Nat) : Nat := (r.getD i 0#64).toNat

/-- A record's kind: 0 launch, 1 fence, 2 level, 3 marker. -/
def recKind (r : List Word) : Nat := bits (recWord r 0) 47 44

/-- A record's context. -/
def recCtx (r : List Word) : Nat := bits (recWord r 0) 39 32

/-- Whether a record asks for a completion record. -/
def recCen (r : List Word) : Bool := bit (recWord r 5) 63

/-- Whether a record fails the checks made at the head of a queue (R375). The stated ranges of rmax and lcount and the
alignments of expr and crec are checked with the reserved bits (log 31). -/
def State.badRecord (s : State) (slot q : Nat) (r : List Word) : Bool :=
  let w := recWord r
  let kind := recKind r
  let x := s.ctx (recCtx r)
  bits (w 0) 63 48 ≠ bits s.dev.chosen.toNat 15 0 || 3 < kind || bits (w 0) 43 42 ≠ q ||
    (if kind = 2 then bits (w 0) 41 40 = 3 else bits (w 0) 41 40 ≠ 0) ||
    (kind = 0 && (x.state = .absent || x.slot ≠ slot)) || bits (w 0) 22 0 ≠ 0 ||
    bits (w 1) 63 48 ≠ 0 || w 1 % 8 ≠ 0 || bits (w 2) 63 32 ≠ 0 || bits (w 2) 23 13 ≠ 0 || 56 < bits (w 2) 31 24 ||
    bits (w 3) 63 56 ≠ 0 || 64 < bits (w 3) 55 48 || bits (w 4) 63 57 ≠ 0 || bits (w 5) 62 48 ≠ 0 ||
    (recCen r && bits (w 5) 47 0 % 64 ≠ 0)

/-! ## Launch queues (R377, R397) -/

/-- A launch queue of a partition. -/
def Part.queue (p : Part) (q : Nat) : LQueue := p.queues[q % 4]'(Nat.mod_lt _ (by decide))

/-- Change a launch queue. -/
def State.modQueue (s : State) (slot q : Nat) (f : LQueue → LQueue) : State :=
  s.modPart slot fun p => { p with queues := p.queues.set (q % 4) (f (p.queue q)) (Nat.mod_lt _ (by decide)) }

/-- The far address of ring slot j of a launch queue (R397). -/
def LQueue.slotAddr (u : LQueue) (j : Nat) : Nat := u.base.toNat % 2 ^ 48 + 64 * (j % max 1 u.size)

/-- Free places of a launch queue (R397). -/
def LQueue.free (u : LQueue) : Nat := (32 - u.die.length) + (u.size - u.ringCount)

/-- A launch of a record. -/
def Launch.ofRecord (slot q pos : Nat) (r : List Word) : Launch :=
  { ctx := recCtx r, slot, queue := q, pos, record := r, level := 0, phase := .queued, deps := [], ranges := [],
    setupBegan := 0, pendingPages := [], startClk := none, endClk := 0, status := none, statusClk := 0, statusSeat := 0,
    firstCard := 0, outstanding := 0, digest := 0#64, noted := none }

/-- The launch of a queue's record. -/
def State.launchAt (s : State) (slot q pos : Nat) : Option (Nat × Launch) :=
  s.launches.find? fun l => l.2.slot = slot && l.2.queue = q && l.2.pos = pos && l.2.phase ≠ .retired

/-- Launches enter a partition's dependence unit in hub arrival order while it holds fewer than 64 (R378): the entry of the
next one is scheduled. -/
def State.fillUnit (s : State) (slot : Nat) : State :=
  let p := s.part slot
  ((s.launches.filter fun l => l.2.slot = slot && l.2.phase = .queued).take (64 - p.depUnit.length)).foldl
    (fun s l => s.schedule s.clk (.dependenceEntry l.1)) s

/-- The root starts a discovery sweep in this clk when none is under way (02 R42; log 32); a partition that is gated has its clocks
back 1 µs later, and one in retention waits for them (26 R409). -/
def State.wakeSweep (s : State) (slot : Nat) : State :=
  if (s.part slot).sweeping || s.dev.power ≠ .active then s
  else
    let at_ := if (s.part slot).gated then s.clk + 3300 else s.clk
    (s.modPart slot fun p => { p with sweeping := true, gated := false, idleSince := none }).schedule at_ (.discoverySweep slot)

/-- Where a push was placed. -/
inductive Placed where
  | die
  | ring (addr : Nat)
  | dropped
deriving DecidableEq, Repr

/-- A record that a queue has taken: its position, its launch, and the record at the head. -/
def State.takenRecord (s : State) (slot q : Nat) (r : List Word) : State :=
  let pos := ((s.part slot).queue q).nextPos
  let s := s.modQueue slot q fun u => { u with nextPos := pos + 1 }
  let s := if recKind r = 0 then
      let k := s.newId
      ({ k.2 with launches := putA k.2.launches k.1 (Launch.ofRecord slot q pos r) }).fillUnit slot
    else s
  (s.schedule s.clk (.recordAtHead slot q)).wakeSweep slot

/-- Push a record to a launch queue (R377): on the die while the ring is empty and a place is free, else at the ring's
tail while it has room, else dropped and counted. -/
def State.pushLaunch (s : State) (slot q : Nat) (r : List Word) : State × Placed :=
  let u := (s.part slot).queue q
  if u.ringCount = 0 && u.die.length < 32 then
    ((s.modQueue slot q fun u => { u with die := u.die ++ [(u.nextPos, r)] }).takenRecord slot q r, .die)
  else if u.ringCount < u.size then
    let a := u.slotAddr (u.ringHead + u.ringCount)
    let s := { s with mem := writeWords s.mem a r }
    ((s.modQueue slot q fun u => { u with ringCount := u.ringCount + 1 }).takenRecord slot q r, .ring a)
  else (s.modQueue slot q fun u => { u with drops := u.drops + 1 }, .dropped)

/-- The place that a push takes, before it is taken: the far address that it writes, if any. -/
def LQueue.spillsTo (u : LQueue) : Option Nat :=
  if u.ringCount = 0 && u.die.length < 32 then none
  else if u.ringCount < u.size then some (u.slotAddr (u.ringHead + u.ringCount)) else none

/-- The head record leaves its on-die place, which is refilled from the ring's head (R377, R397); the next record is
looked at. -/
def State.popHead (s : State) (slot q : Nat) : State :=
  let s := s.modQueue slot q fun u =>
    let die := u.die.drop 1
    if u.ringCount = 0 then { u with die }
    else
      let r := readWords s.mem (u.slotAddr u.ringHead) 8
      { u with die := die ++ [(u.nextPos - u.ringCount, r)], ringHead := u.ringHead + 1, ringCount := u.ringCount - 1 }
  s.schedule s.clk (.recordAtHead slot q)

/-! ## Virtual queues and the memory-side agent (23 R383; 25 R398 to R400) -/

/-- The ring address of a context's management (4) or fleet (5) queue. -/
def Ctx.virtualRing (x : Ctx) (q : Nat) : Nat := x.blockWord (if q = 4 then 6 else 7) % 2 ^ 48

/-- A virtual queue's size when its header keeps R398, else 0: every push is then refused. -/
def State.virtualSize (s : State) (a : Nat) : Nat :=
  let n := readNat s.mem (a + 16) 8
  let zero := (List.range 5).all fun i => readNat s.mem (a + 24 + 8 * i) 8 = 0
  if zero && 64 ≤ n && n ≤ 65536 && n = 2 ^ Nat.log2 n then n else 0

/-- The slot of record i of a virtual queue. -/
def virtualSlot (a size i : Nat) : Nat := a + 64 + 64 * (i % max 1 size)

/-- Append a record to a virtual queue, or refuse it when the context does not exist, the header breaks R398 or the ring is
full (R399). -/
def State.appendVirtual (s : State) (c q : Nat) (r : List Word) : State × Bool :=
  let a := (s.ctx c).virtualRing q
  let size := s.virtualSize a
  let head := readNat s.mem a 8
  let tail := readNat s.mem (a + 8) 8
  if (s.ctx c).state = .absent || size = 0 || size ≤ (tail + 2 ^ 64 - head) % 2 ^ 64 then (s, false)
  else
    let m := writeWords s.mem (virtualSlot a size tail) r
    ({ s with mem := writeNat m (a + 8) 8 ((tail + 1) % 2 ^ 64) }, true)

/-- AGENT_APPEND (R399): a record reaches the memory-side agent, which appends it or refuses it. -/
def execAgentAppend (c q : Nat) (r : List Word) (s : State) : Host.Outcome State Fault Refusal :=
  .next (s.appendVirtual c q r).1

/-- The oldest record of a fleet queue that no `qpop` holds (R280): its number and its words. -/
def State.oldestFleet (s : State) (c : Nat) : Option (Nat × List Word) :=
  let x := s.ctx c
  let a := x.virtualRing 5
  let size := s.virtualSize a
  let head := readNat s.mem a 8
  let n := if size = 0 then 0 else min size ((readNat s.mem (a + 8) 8 + 2 ^ 64 - head) % 2 ^ 64)
  ((List.range (min n (x.held.length + 1))).map (head + ·)).findSome? fun i =>
    if x.held.any fun h => h.1 = 5 && h.2.2 = [BitVec.ofNat 64 i] then none
    else some (i, readWords s.mem (virtualSlot a size i) 8)

/-- Advance a fleet queue's head over the records that committed pops have removed (R399). -/
def State.advanceFleet (s : State) (c : Nat) : Nat → State
  | 0 => s
  | n + 1 =>
    let x := s.ctx c
    let a := x.virtualRing 5
    let head := readNat s.mem a 8
    if x.held.any fun h => h.1 = 5 && h.2.1 = 0 && h.2.2 = [BitVec.ofNat 64 head] then
      let s := { s with mem := writeNat s.mem a 8 ((head + 1) % 2 ^ 64) }
      (s.modCtx c fun x => { x with held := x.held.filter fun h => !(h.1 = 5 && h.2.2 = [BitVec.ofNat 64 head]) }).advanceFleet c n
    else s

/-- The pops of an instance are permanent at its commit (R280): user-queue records are gone, fleet heads advance. -/
def State.commitPops (s : State) (c id : Nat) : State :=
  if (s.ctx c).held.any fun h => h.2.1 = id then
    let s := s.modCtx c fun x => { x with
      held := (x.held.filter fun h => !(h.2.1 = id && h.1 ≠ 5)).map fun h => if h.2.1 = id then (h.1, 0, h.2.2) else h }
    s.advanceFleet c (s.ctx c).held.length
  else s

end Sys2Proof.Machine
end

