-- ==== Sys2Proof/Machine/Reverse.lean ====
section
/-!
DEFINITION. Machine/Reverse.lean: the standard operator `reverse`: reading a copybook, rebuilding operands, the adjoints and
the order of accumulation (19 R351 to R354; 20 R355, R356; 09 R205, R206).
-/

namespace Sys2Proof.Machine

/-! ## Reading a copybook (19 R341 to R344) -/

/-- An operand word. -/
structure CbOp where
  flag : Nat
  handle : Nat
  seg : Nat
  low : Nat
deriving DecidableEq, Repr

/-- The fields of an operand word (R344). -/
def CbOp.ofWord (n : Nat) : CbOp := { flag := bits n 63 61, handle := bits n 60 41, seg := bits n 40 35, low := bits n 34 0 }

/-- An entry as read from a copybook (R343). -/
structure CbRec where
  kind : Nat
  primary : Nat
  func : Nat
  acc : Nat
  comp : Bool
  round : Nat
  seqno : Nat
  opnum : Nat
  cell : Nat
  index : Nat
  row : Nat
  addr : Nat
  ops : List CbOp
deriving DecidableEq, Repr

/-- Read an entry's granule. -/
def State.readEntry (s : State) (a : Nat) : CbRec :=
  let w (i : Nat) : Nat := readNat s.mem (a + 8 * i) 8
  { kind := bits (w 0) 63 60, primary := bits (w 0) 59 52, func := bits (w 0) 51 44, acc := bits (w 0) 43 42, comp := bit (w 0) 36,
    round := bits (w 0) 34 32, seqno := bits (w 0) 31 0, opnum := bits (w 1) 47 32, cell := bits (w 1) 26 14,
    index := bits (w 5) 47 0, row := bits (w 2) 15 0, addr := a, ops := [CbOp.ofWord (w 2), CbOp.ofWord (w 3), CbOp.ofWord (w 4)] }

/-- The destination of an entry: the handle of its operand 0, in the instructions that have one. -/
def CbRec.dest (e : CbRec) : Option Nat :=
  if e.kind = 1 && 0x79 ≤ e.primary && e.primary ≤ 0x7D then
    (e.ops[0]?).bind fun o => if o.flag = 3 then some o.handle else none
  else none

/-- The sources of an entry, with their slots. -/
def CbRec.sources (e : CbRec) : List (Nat × CbOp) :=
  if e.kind ≠ 1 then [] else ([1, 2].map fun i => (i, e.ops.getD i (CbOp.ofWord 0))).filter fun o => o.2.flag ≠ 0

/-- The addresses of a copybook's segments, by its links. -/
def State.bookSegments (s : State) : Nat → Nat → List Nat
  | 0, _ => []
  | n + 1, a => a :: s.bookSegments n (readNat s.mem a 8 % 2 ^ 48)

/-- The bytes of the save copies that an entry's operands name. -/
def State.savedBytes (s : State) (addrs : List Nat) (e : CbRec) : Nat :=
  (e.ops.map fun o =>
    if e.kind = 1 && o.flag = 1 then 64 + 64 * bits (readNat s.mem (addrs.getD o.seg 0 + o.low) 8) 25 16 else 0).sum

/-- Read the entries [i, limit) of one segment from an offset on: the entries of an application stand together, and their save
copies follow them (R348). `pend` counts the bytes of the copies still to come. -/
def State.readSegment (s : State) (addrs : List Nat) (a limit : Nat) : Nat → Nat → Nat → Nat → Option Nat → List CbRec
  | 0, _, _, _, _ => []
  | fuel + 1, o, i, pend, seq =>
    if limit ≤ i then []
    else
      let e := s.readEntry (a + o)
      match seq with
      | some q =>
        if e.seqno = q && e.index = i then
          e :: s.readSegment addrs a limit fuel (o + 64) (i + 1) (pend + s.savedBytes addrs e) (some q)
        else s.readSegment addrs a limit fuel (o + pend) i 0 none
      | none => e :: s.readSegment addrs a limit fuel (o + 64) (i + 1) (s.savedBytes addrs e) (some e.seqno)

/-- All entries of the copybook with a header, in index order. -/
def State.readBook (s : State) (h : Nat) (addrs : List Nat) : List CbRec :=
  let next := readNat s.mem (h + 8) 8 % 2 ^ 48
  let used := readNat s.mem (h + 32) 8
  let n := addrs.length
  -- the index of a segment's first entry
  let first (k : Nat) : Nat :=
    if n ≤ k ∨ (k + 1 = n ∧ used ≤ 64) then next else min next (readNat s.mem (addrs.getD k 0 + 64 + 40) 8 % 2 ^ 48)
  (List.range n).flatMap fun k =>
    let i := if k = 0 then 0 else first k
    let limit := first (k + 1)
    s.readSegment addrs (addrs.getD k 0) limit (2 * (limit - i) + 2) 64 i 0 none

/-! ## Operand values (19 R345; 20 R355) -/

/-- What a reverse works on: its number among free values, the copybook's entries and segments. -/
structure Rev where
  run : Nat
  entries : List CbRec
  addrs : List Nat
deriving DecidableEq, Repr

/-- A tile as data. -/
structure TileVal where
  hdr : HdrView
  bytes : List Byte
deriving DecidableEq, Repr

/-- The entry that produced a handle's tile as it stood before entry `i`: the latest one that names it as its destination. -/
def Rev.producer (r : Rev) (i h : Nat) : Option Nat := ((List.range i).reverse).find? fun j => (r.entries[j]?.bind (·.dest)) = some h

/-- A value of bytes that nothing recorded. -/
def Rev.free (r : Rev) (place n : Nat) : List Byte := (List.range n).map fun k => Config.reverseByte r.run place k

/-- The header of a tile that a handle names as it stands. -/
def State.liveTile (s : State) (v : Inst) (h : Nat) : Except TrapInfo TileVal :=
  match s.tile v (BitVec.ofNat 64 h) with
  | .error t => .error t
  | .ok t => if s.tilePoisoned v t then .error dataError else .ok { hdr := t.hdr, bytes := s.tileBytes v t }

/-- A save copy (R345). -/
def State.savedTile (s : State) (addrs : List Nat) (o : CbOp) : Except TrapInfo TileVal :=
  let a := addrs.getD o.seg 0 + o.low
  let h := HdrView.ofWords (BitVec.ofNat 64 (readNat s.mem a 8)) 0#64
  if s.farPoisoned a (64 + 64 * h.count) then .error { dataError with addr := a }
  else .ok { hdr := h, bytes := readBytes s.mem (a + 64) (64 * h.count) }

/-- The form of an operand of entry `i`: its format, shape and band. A copy gives its own; `tew` and `settle` keep their
source's; otherwise the tile as it stands says it. -/
def Rev.form (r : Rev) (s : State) (v : Inst) : Nat → Nat → CbOp → Except TrapInfo HdrView
  | 0, _, o => (s.liveTile v o.handle).map (·.hdr)
  | n + 1, i, o =>
    if o.flag = 1 then (s.savedTile r.addrs o).map (·.hdr)
    else
      match r.producer i o.handle with
      | some j =>
        match r.entries[j]? with
        | some e =>
          match (if e.primary = 0x7C ∨ e.primary = 0x7D then e.ops[1]? else none) with
          | some p => r.form s v n j p
          | none => (s.liveTile v o.handle).map (·.hdr)
        | none => (s.liveTile v o.handle).map (·.hdr)
      | none => (s.liveTile v o.handle).map (·.hdr)

/-- The weight that an `mma` entry used, from its source tile: dense, compressed by `wcmp`, or an image (09 R190 to R192). -/
def weightOf (comp : Bool) (x w : TileVal) : WEntry :=
  if comp && w.hdr.ty = .n8 then
    let t := if imageBytes x.hdr.ty = 16 * w.hdr.cols then x.hdr.ty else if w.hdr.cols = 8 then .e2m1 else if w.hdr.cols = 10 then .e4m3 else .bf16
    { valid := true, comp, ty := t, band := w.hdr.band, source := 0, data := w.bytes.take (imageBytes t) }
  else
    { valid := true, comp, ty := w.hdr.ty, band := w.hdr.band, source := 0,
      data := if comp then compressImage w.hdr.ty w.hdr.band w.bytes else denseBytes w.hdr.ty w.bytes }

/-- The codes of a product added to an accumulator. -/
def addProduct (acc : List Nat) (x w : Nat → Nat → Fp) : List Nat :=
  (List.range 256).map fun e => dotFrom (x (e / 16)) (fun k => w k (e % 16)) 16 0 (acc.getD e 0)

/-- The value of an operand of entry `i` (R345; 20 R355): a copy, the tile as it stands, or the producing entry run again over
its own operands in the mode that it records. An opaque operand's value is not recorded: it is free (log 35). -/
def Rev.value (r : Rev) (s : State) (v : Inst) : Nat → Nat → CbOp → Except TrapInfo TileVal
  | 0, _, o => s.liveTile v o.handle
  | n + 1, i, o =>
    if o.flag = 1 then s.savedTile r.addrs o
    else if o.flag = 4 then
      (r.form s v (n + 1) i o).map fun h => { hdr := h, bytes := r.free (4 * i) (64 * storedGranules h.ty h.rows h.cols) }
    else if o.flag ≠ 2 then s.liveTile v o.handle
    else
      match r.entries[o.low]?, r.form s v (n + 1) i o with
      | _, .error t => .error t
      | none, _ => s.liveTile v o.handle
      | some e, .ok h =>
        let src (k : Nat) : Except TrapInfo TileVal := r.value s v n o.low (e.ops.getD k (CbOp.ofWord 0))
        let mode := Mode.ofCode e.round
        if e.primary = 0x79 then
          -- the accumulator's history up to the entry
          let start : Except TrapInfo (List Nat) := .ok ((List.range 256).map fun k =>
            wordOfBytes ((List.range 4).map fun b => Config.reverseByte r.run (4 * o.low + 1) (4 * k + b)))
          let acc := (List.range o.low).foldl (fun (a : Except TrapInfo (List Nat)) j =>
            match a, r.entries[j]? with
            | .ok cur, some m =>
              if m.kind ≠ 1 ∨ m.cell ≠ e.cell ∨ m.acc ≠ e.acc then a
              else if m.primary = 0x78 then .ok (List.replicate 256 0)
              else if m.primary = 0x77 then
                .ok (cur.zipIdx.map fun c => if c.2 / 16 = m.func % 16 && Nat.testBit m.row (c.2 % 16) then
                  wordOfBytes ((List.range 4).map fun b => Config.reverseByte r.run (4 * j + 2) (4 * c.2 + b)) else c.1)
              else if m.primary = 0x73 then
                match r.value s v n j (m.ops.getD 1 (CbOp.ofWord 0)), r.value s v n j (m.ops.getD 2 (CbOp.ofWord 0)) with
                | .ok x, .ok w =>
                  .ok (addProduct (if bit m.func 3 then [] else cur) (tileFp x.hdr x.bytes) (weightOf m.comp x w).value)
                | .error t, _ => .error t
                | _, .error t => .error t
              else a
            | _, _ => a) start
          acc.map fun cur =>
            { hdr := h, bytes := packElements h.ty (cur.map fun c => if h.ty = .f32 then c else convertLane mode .f32 h.ty c) }
        else if e.primary = 0x7C then
          if e.func % 8 = 5 then (src 1).map fun b => { hdr := h, bytes := b.bytes }
          else
            match src 1, src 2 with
            | .ok b, .ok c =>
              let bs := tileElements b.hdr b.bytes
              let cs := tileElements c.hdr c.bytes
              .ok { hdr := h, bytes := packElements h.ty ((List.range (h.rows * h.cols)).map fun k =>
                tewElement h.ty (e.func % 8) (bs.getD k (.int 0)) (cs.getD k (.int 0))) }
            | .error t, _ => .error t
            | _, .error t => .error t
        else if e.primary = 0x7D then (src 1).map fun b => { hdr := h, bytes := b.bytes }
        else
          (src 1).map fun b =>
            let els := tileElements b.hdr b.bytes
            if h.ty ≠ .e2m1 then { hdr := h, bytes := packElements h.ty (els.map (convertDatum mode h.ty)) }
            else { hdr := h, bytes := packE2m1 mode (bandFrac h.band) (els.map Datum.toFp) }

/-! ## Gradients (R353; 09 R205, R206) -/

/-- A tile by its handle and the entry that produced it, none for a leaf. -/
abbrev TileKey := Nat × Option Nat

/-- The gradient of a tile, +0 throughout before its first contribution. -/
def gradOf (gs : List (TileKey × List Nat)) (k : TileKey) (n : Nat) : List Nat :=
  ((gs.find? fun g => g.1 = k).map (·.2)).getD (List.replicate n 0)

/-- Add a contribution to a gradient, each element rounded to f32 nearest-even. -/
def addGrad (gs : List (TileKey × List Nat)) (k : TileKey) (c : List Nat) : List (TileKey × List Nat) :=
  let old := gradOf gs k c.length
  (k, List.zipWith (fun a b => f32Bits ((f32 a).add (f32 b))) old c) :: gs.filter fun g => g.1 ≠ k

/-- An elementwise product, rounded once to f32. -/
def timesGrad (d : List Nat) (x : TileVal) : List Nat :=
  let es := tileElements x.hdr x.bytes
  d.zipIdx.map fun a => f32Bits ((f32 a.1).mul (es.getD a.2 (.int 0)).toFp)

/-- Whether `max` (or `min`) chose its first operand, or that operand is a NaN. -/
def choseFirst (isMax : Bool) (b c : Fp) : Bool :=
  b.isNan || (!c.isNan && (if isMax then !(b.below c) else !(c.below b)))

/-- Whether one element of `quant` neither saturated nor became a NaN (R205). -/
def passesQuant (t : Ty) (mode : Mode) (x : Fp) : Bool :=
  match x with
  | .nan => false
  | .inf _ => (FFmt.ofTy t).ieee
  | .fin a => (FFmt.ofTy t).roundMag mode a.abs ≤ (FFmt.ofTy t).maxCode

/-- Which elements of a source pass their gradient through `quant` to a format and band (R205). -/
def quantPasses (t : Ty) (mode : Mode) (band : BitVec 16) (xs : List Fp) : List Bool :=
  if t ≠ .e2m1 then xs.map (passesQuant t mode)
  else
    (List.range ((xs.length + 7) / 8)).flatMap fun g =>
      let group := (xs.drop (8 * g)).take 8
      if group.any Fp.isNan then group.map fun _ => false
      else
        let b := bandFrac band
        let sv := (scaleValue (quantGroup mode b group).1).getD (Frac.ofInt 1)
        group.map fun x => match x with
          | .fin a => if a.num = 0 then true else passesQuant .e2m1 mode (.fin (a.div (sv.mul b)))
          | _ => false

/-- dA · Wᵀ: element (i, k) sums over j in ascending order (R206). -/
def gradX (d : List Nat) (w : Nat → Nat → Fp) : List Nat :=
  (List.range 256).map fun e => dotFrom (fun j => f32 (d.getD (e / 16 * 16 + j) 0)) (fun j => w (e % 16) j) 16 0 0

/-- Xᵀ · dA: element (k, j) sums over i in ascending order (R206). -/
def gradW (d : List Nat) (x : Nat → Nat → Fp) : List Nat :=
  (List.range 256).map fun e => dotFrom (fun i => x i (e / 16)) (fun i => f32 (d.getD (i * 16 + e % 16) 0)) 16 0 0

/-- Whether a compressed weight keeps position (k, j). -/
def WEntry.keeps (w : WEntry) (k j : Nat) : Bool :=
  !w.comp ||
    (let q := k / 4
     let nib := (w.data.getD (128 * Ty.width w.ty / 8 + (4 * j + q) / 2) 0#8).toNat / (if q % 2 = 0 then 1 else 16) % 16
     nib / 4 % 4 = k % 4 || nib % 4 = k % 4)

/-- Gradients of tiles and of accumulators (cell and number), and the temporaries that hold space: owner, cell, header, granules. -/
structure RevState where
  grads : List (TileKey × List Nat)
  accs : List ((Nat × Nat) × List Nat)
  held : List (TileKey × Nat × Nat × Nat × Nat)
deriving DecidableEq, Repr

/-- The gradient of an accumulator's present contents. -/
def RevState.acc (g : RevState) (k : Nat × Nat) : List Nat := ((g.accs.find? fun a => a.1 = k).map (·.2)).getD (List.replicate 256 0)

/-- Set an accumulator's gradient. -/
def RevState.setAcc (g : RevState) (k : Nat × Nat) (d : List Nat) : RevState := { g with accs := (k, d) :: g.accs.filter fun a => a.1 ≠ k }

/-- Reserve space for a temporary or result in its handle's cell by the rule of `talloc`; none where there is none. -/
def RevState.reserve (g : RevState) (s : State) (v : Inst) (k : TileKey) (rows cols : Nat) (t : Ty) : Option RevState :=
  if g.held.any fun h => h.1 = k then some g
  else
    let cell := k.1 / 128
    let n := storedGranules t rows cols
    let mine := g.held.filterMap fun h => if h.2.1 = cell then some (h.2.2.1, h.2.2.2.1, h.2.2.2.2) else none
    let base := if cell = v.place.cell then s.heldRanges v else s.cellHeld v.place.ctx cell
    (freePlace (base ++ mine) n).map fun p => { g with held := g.held ++ [(k, cell, p.1, p.2, n)] }

/-- Give a temporary's space back. -/
def RevState.release (g : RevState) (k : TileKey) : RevState := { g with held := g.held.filter fun h => h.1 ≠ k }

/-- The key of a source operand of entry `i`, none where no gradient flows: an opaque operand, or one of integer format. -/
def Rev.sourceKey (r : Rev) (s : State) (v : Inst) (fuel i : Nat) (o : CbOp) : Option (TileKey × HdrView) :=
  if o.flag = 4 ∨ o.flag = 0 then none
  else
    match r.form s v fuel i o with
    | .ok h => if Ty.isFloat h.ty then some ((o.handle, r.producer i o.handle), h) else none
    | .error _ => none

/-- Which source slots of an entry's adjoint read operand values (20 R355). -/
def CbRec.readsValues (e : CbRec) : List Nat :=
  if e.primary = 0x73 then [1, 2]
  else if e.primary = 0x7A ∨ e.primary = 0x7B then [1]
  else if e.primary = 0x7C && (e.func % 8 = 2 || e.func % 8 = 3 || e.func % 8 = 4) then [1, 2]
  else []

/-- The contributions of one entry, by source slot, from the gradient of its destination or accumulator; and the new gradient
of its accumulator (R205, R206). -/
def Rev.adjoint (r : Rev) (s : State) (v : Inst) (fuel i : Nat) (e : CbRec) (dD : List Nat) (dA : List Nat) :
    Except TrapInfo (List (Nat × List Nat) × Option (List Nat)) :=
  let val (k : Nat) : Except TrapInfo TileVal := r.value s v fuel i (e.ops.getD k (CbOp.ofWord 0))
  let neg (c : Nat) : Nat := f32Bits ((f32 c).opp)
  match e.primary with
  | 0x73 =>
    match val 1, val 2 with
    | .ok x, .ok w =>
      let we := weightOf e.comp x w
      let dw := (gradW dA (tileFp x.hdr x.bytes)).zipIdx.map fun c => if we.keeps (c.2 / 16) (c.2 % 16) then c.1 else 0
      .ok ([(1, gradX dA we.value), (2, dw)], if bit e.func 3 then some (List.replicate 256 0) else none)
    | .error t, _ => .error t
    | _, .error t => .error t
  | 0x77 => .ok ([], some (dA.zipIdx.map fun c => if c.2 / 16 = e.func % 16 && Nat.testBit e.row (c.2 % 16) then 0 else c.1))
  | 0x78 => .ok ([], some (List.replicate 256 0))
  | 0x79 => .ok ([], some (List.zipWith (fun a b => f32Bits ((f32 a).add (f32 b))) dA dD))
  | 0x7C =>
    match e.func % 8 with
    | 0 => .ok ([(1, dD), (2, dD)], none)
    | 1 => .ok ([(1, dD), (2, dD.map neg)], none)
    | 5 => .ok ([(1, dD)], none)
    | op =>
      match val 1, val 2 with
      | .ok b, .ok c =>
        if op = 2 then .ok ([(1, timesGrad dD c), (2, timesGrad dD b)], none)
        else
          let bs := tileElements b.hdr b.bytes
          let cs := tileElements c.hdr c.bytes
          let first (k : Nat) : Bool := choseFirst (op = 3) (bs.getD k (.int 0)).toFp (cs.getD k (.int 0)).toFp
          .ok ([(1, dD.zipIdx.map fun d => if first d.2 then d.1 else 0), (2, dD.zipIdx.map fun d => if first d.2 then 0 else d.1)], none)
      | .error t, _ => .error t
      | _, .error t => .error t
  | 0x7D => .ok ([(1, dD)], none)
  | _ =>
    match val 1, r.form s v fuel r.entries.length (e.ops.getD 0 (CbOp.ofWord 0)) with
    | .ok x, .ok h =>
      let ps := quantPasses h.ty (Mode.ofCode e.round) h.band ((tileElements x.hdr x.bytes).map Datum.toFp)
      .ok ([(1, dD.zipIdx.map fun d => if ps.getD d.2 false then d.1 else 0)], none)
    | .error t, _ => .error t
    | _, .error t => .error t

/-- The entries that an operand's value is rebuilt from, itself among them, with the handles they stand for. -/
def Rev.rebuilt (r : Rev) : Nat → CbOp → List Nat
  | 0, _ => []
  | n + 1, o =>
    if o.flag ≠ 2 then []
    else match r.entries[o.low]? with
      | some e => o.low :: e.sources.flatMap fun p => r.rebuilt n p.2
      | none => []

/-- How a reverse fails: a cause of R285, or a trap. -/
inductive RevStop where
  | cause (n : Nat)
  | trap (t : TrapInfo)
deriving DecidableEq, Repr

/-- Add an entry's contributions in ascending slot; a gradient of a tile that is neither a leaf nor an output takes space. -/
def Rev.contribute (r : Rev) (s : State) (v : Inst) (fuel i : Nat) (e : CbRec) :
    List (Nat × List Nat) → RevState → Except RevStop RevState
  | [], g => .ok g
  | (slot, c) :: cs, g =>
    match r.sourceKey s v fuel i (e.ops.getD slot (CbOp.ofWord 0)) with
    | none => r.contribute s v fuel i e cs g
    | some (k, h) =>
      match g.reserve s v k h.rows h.cols .f32 with
      | none => .error (.cause 7)
      | some g => r.contribute s v fuel i e cs { g with grads := addGrad g.grads k c }

/-- The operator that reverse applies in place of an application's own: its syllabus entry's adjoint (R352; 13 R305). -/
def State.adjointOf (s : State) (c opnum : Nat) : Nat :=
  if opnum < 0x1000 then 0
  else
    let t := s.syllabus c
    match s.searchTable t opnum 13 0 (bits (readNat s.mem t 8) 63 52) with
    | some (_, w1) => bits w1 31 16
    | none => 0

/-- Expand one entry (R352, R353). The contributions of a context's own adjoint operator are free values (log 35). -/
def Rev.expand (r : Rev) (s : State) (v : Inst) (outputs : List TileKey) (i : Nat) (g : RevState) : Except RevStop RevState :=
  match r.entries[i]? with
  | none => .ok g
  | some e =>
    if e.kind ≠ 1 then .ok g
    else
      let fuel := r.entries.length + 1
      let key : Option TileKey := e.dest.map fun h => (h, some i)
      let drop (g : RevState) : RevState :=
        match key with
        | some k => if outputs.contains k then g else { g.release k with grads := g.grads.filter fun x => x.1 ≠ k }
        | none => g
      if s.adjointOf v.place.ctx e.opnum ≠ 0 then
        let cs := e.sources.map fun o =>
          let n := match r.form s v fuel i o.2 with | .ok h => h.rows * h.cols | .error _ => 0
          (o.1, (List.range n).map fun k => wordOfBytes ((List.range 4).map fun b => Config.reverseByte r.run (4 * i + o.1) (4 * k + b)))
        (r.contribute s v fuel i e cs g).map drop
      else
        let ak := (e.cell, e.acc)
        let dA := g.acc ak
        let isAcc := e.primary = 0x73 ∨ e.primary = 0x77 ∨ e.primary = 0x78 ∨ e.primary = 0x79
        let n := match e.sources.head? with
          | some o => (match r.form s v fuel i o.2 with | .ok h => h.rows * h.cols | .error _ => 256)
          | none => 256
        let dD := match key with | some k => gradOf g.grads k n | none => []
        -- the operands that the expansion rebuilds take space while it lasts
        let need := (e.readsValues.flatMap fun k => r.rebuilt fuel (e.ops.getD k (CbOp.ofWord 0))).eraseDups
        let space := need.foldl (fun (a : Except RevStop RevState) j =>
          match a, r.entries[j]?.bind (·.dest) with
          | .ok g, some h =>
            match r.form s v fuel r.entries.length { flag := 3, handle := h, seg := 0, low := 0 } with
            | .ok w => (match g.reserve s v (h, some (r.entries.length + j)) w.rows w.cols w.ty with
              | some g => .ok g
              | none => .error (.cause 7))
            | .error t => .error (.trap t)
          | a, _ => a) (.ok g)
        match space with
        | .error x => .error x
        | .ok g =>
          match r.adjoint s v fuel i e dD dA with
          | .error t => .error (.trap t)
          | .ok (cs, acc') =>
            let g := match acc' with | some a => if isAcc then g.setAcc ak a else g | none => g
            match r.contribute s v fuel i e cs g with
            | .error x => .error x
            | .ok g =>
              let g := { g with held := g.held.filter fun h => match h.1.2 with | some j => j < r.entries.length | none => true }
              .ok (drop g)

/-! ## The operator -/

/-- The far address of a copybook's header, by number (R340; 23 R380, word 3). -/
def State.bookHeader (s : State) (c n : Nat) : Nat :=
  let dir := readNat s.mem ((s.ctx c).blockAddr.toNat % 2 ^ 48 + 24) 8 % 2 ^ 48
  readNat s.mem (dir + 8 * n) 8 % 2 ^ 48

/-- The copybook number that an application of `reverse` names. -/
def reverseBook (args : List (List Word)) : Option Nat :=
  match args with
  | [c, _] => match scalarOf c with | some (.n32, n) => if n < 16 then some n else none | _ => none
  | _ => none

/-- Binding a `reverse` clears its copybook's open bit (R351). -/
def State.closeBook (s : State) (c : Nat) (args : List (List Word)) : State :=
  match reverseBook args with
  | none => s
  | some n =>
    let h := s.bookHeader c n
    let w0 := readNat s.mem h 8
    if bit w0 47 then { s with mem := writeNat s.mem h 8 (w0 - 2 ^ 47) } else s

/-- The outputs: destinations that no later entry names as a source, by ascending entry (R351). -/
def Rev.outputs (r : Rev) : List TileKey :=
  (List.range r.entries.length).filterMap fun i =>
    match r.entries[i]?.bind (·.dest) with
    | none => none
    | some h =>
      let named := (List.range r.entries.length).any fun j =>
        i < j && (match r.entries[j]? with
          | some e => e.sources.any fun o => o.2.handle = h && r.producer j h = some i
          | none => false)
      if named then none else some (h, some i)

/-- The leaves in order of first appearance, with their forms: source operands that no entry produced (R351). -/
def Rev.leaves (r : Rev) (s : State) (v : Inst) : List (TileKey × Except TrapInfo HdrView) :=
  let all := (List.range r.entries.length).flatMap fun i =>
    match r.entries[i]? with
    | none => []
    | some e => e.sources.filterMap fun o =>
        if o.2.flag = 4 ∨ (r.producer i o.2.handle).isSome then none
        else some (((o.2.handle, none) : TileKey), r.form s v (r.entries.length + 1) i o.2)
  all.foldl (fun acc x => if acc.any fun y => y.1 = x.1 then acc else acc ++ [x]) []

/-- Reserve the leaf gradients in leaf order (20 R355). -/
def reserveLeaves (s : State) (v : Inst) : List (TileKey × Except TrapInfo HdrView) → RevState → Except RevStop RevState
  | [], g => .ok g
  | (_, .error t) :: _, _ => .error (.trap t)
  | (k, .ok h) :: ls, g =>
    match g.reserve s v k h.rows h.cols .f32 with
    | some g => reserveLeaves s v ls g
    | none => .error (.cause 7)

/-- Write a leaf's gradient tile: its granules at once, its header at commit. -/
def State.putLeaf (s : State) (id : Nat) (v : Inst) (g : RevState) (k : TileKey) (h : HdrView) : State × Nat :=
  match g.held.find? fun x => x.1 = k with
  | none => (s, 0)
  | some (_, cell, idx, base, count) =>
    let codes := gradOf g.grads k (h.rows * h.cols)
    let prod := if s.records v then Producer.opaqueTile else s.unlogged v.place.ctx
    let δ := { HdrDelta.none idx with alloc := some (newHeader .f32 h.rows h.cols base count 0x3F80#16), setDirty := true, producer := some prod }
    let s := (s.pokeSide v.place.ctx cell (base * 64) (packElements .f32 codes)).noteWrite id v cell (base * 64) (count * 64)
    (s.modInst id fun u => { u with stage := { u.stage with remoteAllocs := u.stage.remoteAllocs ++ [(cell, δ)] } },
     handleOf cell (s.ctx v.place.ctx).home idx)

/-- `( reverse c < g0 … > )` (13 R299; 19 R351 to R353; 20 R355, R356). -/
def State.runReverse (s : State) (id : Nat) (v : Inst) (args : List (List Word)) : StdRun :=
  match args with
  | [c, gs] =>
    match scalarOf c, itemsOf gs with
    | some (t, n), some seeds =>
      if t ≠ .n32 then s.standardTrap id 2
      else if 16 ≤ n then s.standardTrap id 4
      else if seeds.any fun g => (tileOf g).isNone then s.standardTrap id 1
      else
        let h := s.bookHeader v.place.ctx n
        let addrs := s.bookSegments (bits (readNat s.mem h 8) 37 32 + 1) (readNat s.mem (h + 16) 8 % 2 ^ 48)
        match (h :: addrs).find? fun a => !farExists a 64 with
        | some a => .fault a
        | none =>
          let r : Rev := { run := s.fresh, entries := s.readBook h addrs, addrs }
          let s := { s with fresh := s.fresh + 1 }
          if s.farPoisoned h 64 || r.entries.any fun e => s.farPoisoned e.addr 64 then s.stdTrap id { dataError with addr := h }
          else
            let outs := r.outputs
            if seeds.length ≠ outs.length then s.standardTrap id 3
            else
              match s.readTilesOf v (seeds.filterMap tileOf) with
              | .error t => s.stdTrap id t
              | .ok ts =>
                let fits := (outs.zip ts).all fun p =>
                  match r.form s v (r.entries.length + 1) r.entries.length { flag := 3, handle := p.1.1, seg := 0, low := 0 } with
                  | .ok w => p.2.hdr.ty = .f32 && p.2.hdr.rows = w.rows && p.2.hdr.cols = w.cols
                  | .error _ => false
                if !fits then s.standardTrap id 2
                else
                  let leaves := r.leaves s v
                  let seeded := (outs.zip ts).map fun p => (p.1, tileCodes p.2.hdr (s.tileBytes v p.2))
                  let stop (x : RevStop) : StdRun := match x with | .cause n => s.standardTrap id n | .trap t => s.stdTrap id t
                  match reserveLeaves s v leaves { grads := seeded, accs := [], held := [] } with
                  | .error x => stop x
                  | .ok g =>
                    let done := (List.range r.entries.length).reverse.foldl (fun (a : Except RevStop RevState) i =>
                      match a with | .ok g => r.expand s v outs i g | x => x) (.ok g)
                    match done with
                    | .error x => stop x
                    | .ok g =>
                      let p := leaves.foldl (fun (a : State × List Nat) l =>
                        match l.2 with
                        | .ok w => let q := a.1.putLeaf id v g l.1 w; (q.1, a.2 ++ [q.2])
                        | .error _ => a) (s, [])
                      .done p.1 (mkSeq (p.2.map fun h => [mkTile h]))
    | _, _ => s.standardTrap id 1
  | _ => s.standardTrap id 1

end Sys2Proof.Machine
end

