-- ==== Sys2Proof/Machine/Commit.lean ====
section
/-!
DEFINITION. Machine/Commit.lean: the commit of a segment: its output, the copybook, what becomes permanent, and the tails (02
R51 to R57; 03 R70, R71; 19 R346 to R350).
-/

namespace Sys2Proof.Machine

/-- log-full (24 R391). -/
def stLogFull : Nat := 0x08

/-! ## The output (R53, R54) -/

/-- The instances of a segment in seat order. -/
def State.bySeat (s : State) (g seglen : Nat) : List (Nat × Inst) := (List.range seglen).filterMap fun i => s.seatInst g i

/-- The first instance that has not emitted all its declared symbols (R55). -/
def shortEmit (is : List (Nat × Inst)) : Option Nat :=
  (is.find? fun i => (List.range (i.2.declared.getD 0)).any fun k => (lookupA i.2.stage.syms k).isNone).map (·.1)

/-- The staged symbols of all seats: seat 0's in index order, then seat 1's, and so on (R54). -/
def stagedOutput (is : List (Nat × Inst)) : List Word :=
  is.flatMap fun i => (List.range (i.2.declared.getD 0)).map fun k => getD 0#64 i.2.stage.syms k

/-- Whether an output is malformed (R54). -/
def badOutput (level : Nat) (out : List Word) : Bool :=
  !termsOk 0 [] false out || out.any fun w => bit w.toNat 48 || level + symLevel w > 255

/-- The instance that raises the trap of a malformed output: the first that staged a parked symbol or one whose level is too
high, or else the first that staged a symbol. -/
def malformedBy (level : Nat) (is : List (Nat × Inst)) : Nat :=
  let bad (w : Word) : Bool := bit w.toNat 48 || level + symLevel w > 255
  let first (p : Nat × Inst → Bool) : Option Nat := (is.find? p).map (·.1)
  match first fun i => i.2.stage.syms.any fun e => bad e.2 with
  | some id => id
  | none => (first fun i => !i.2.stage.syms.isEmpty).getD 0

/-! ## The copybook (19 R343 to R350) -/

/-- Entries and copy granules that a segment appends. -/
def logNeeds (is : List (Nat × Inst)) : Nat :=
  (is.map fun i => i.2.stage.lane.length + savedGranules i.2.stage.saves).sum

/-- The address of segment cur and the bytes used in it: a copybook that has taken no entry stands at its first segment,
behind the descriptor (R341, R342; log 34). -/
def State.bookPlace (s : State) (h : Nat) : Nat × Nat :=
  let cur := readNat s.mem (h + 24) 8
  let used := readNat s.mem (h + 32) 8
  (if cur = 0 then readNat s.mem (h + 16) 8 % 2 ^ 48 else cur % 2 ^ 48, max 64 used)

/-- Whether a recorded segment of some granules fits (R349). -/
def State.logFits (s : State) (h n : Nat) : Bool :=
  let p := s.bookPlace h
  s.headerOpen h && 64 * n ≤ readNat s.mem (p.1 + 8) 8 % 2 ^ 32 - p.2

/-- The five words of a published entry from its staged form, its sequence number, its global index, the global index of the
segment's first entry of its lane and the offset of each save copy (R343, R344). -/
def CbEntry.words (e : CbEntry) (seq index laneBase cur : Nat) (saveOff : Nat → Nat) : List Word :=
  let op (o : CbOperand) : Word :=
    let low := match o.save with
      | some k => cur * 2 ^ 35 + saveOff k
      | none => if o.low ≥ 2 ^ 34 then laneBase + (o.low - 2 ^ 34) else o.low
    BitVec.ofNat 64 (o.flag * 2 ^ 61 + o.handle % 2 ^ 20 * 2 ^ 41 + low)
  let ops := (e.ops.map op ++ List.replicate 3 0#64).take 3
  let ops := if e.raw = 0#64 then ops else (if bits e.word0.toNat 63 60 = 2 then [e.raw, 0#64, 0#64] else [e.raw] ++ ops.drop 1)
  [e.word0 + BitVec.ofNat 64 seq,
   BitVec.ofNat 64 (e.seat * 2 ^ 48 + e.opnum % 65536 * 2 ^ 32 + e.lane * 2 ^ 27 + e.cell * 2 ^ 14)] ++ ops ++
    [BitVec.ofNat 64 index, 0#64, 0#64]

/-- Offsets of consecutive save copies from an offset on. -/
def offsetsFrom : Nat → List (List Byte) → List Nat
  | _, [] => []
  | o, b :: bs => o :: offsetsFrom (o + b.length) bs

/-- Publish the lanes of a committing segment: entries by seat and lane, then the save copies in the same order; the header's
seq, next, used and opaque bit; and the producers of the tiles that the entries name as destinations (R346, R348). -/
def State.publish (s : State) (c : Nat) (is : List (Nat × Inst)) : State :=
  let n := (is.map fun i => i.2.stage.lane.length).sum
  if n = 0 then s
  else
    let h := s.cbHeader c
    let w0 := readNat s.mem h 8
    let p := s.bookPlace h
    let cur := bits w0 37 32
    let seq := w0 % 2 ^ 32
    let next := readNat s.mem (h + 8) 8
    let saves := is.flatMap fun i => i.2.stage.saves
    let offs := offsetsFrom (p.2 + 64 * n) saves
    -- per instance: the global index of its first entry, and the number of its first save copy
    let r := is.foldl (fun (acc : Memory × Nat × Nat × Bool) i =>
      let (m, k, sv, opq) := acc
      let m := i.2.stage.lane.foldl (fun m e =>
        writeWords m (p.1 + p.2 + 64 * (k + e.lane)) (e.words seq (next + k + e.lane) (next + k) cur fun j => offs.getD (sv + j) 0)) m
      (m, k + i.2.stage.lane.length, sv + i.2.stage.saves.length, opq || i.2.stage.lane.any (·.hasOpaque)))
      (s.mem, 0, 0, false)
    let m := writeBytes r.1 (p.1 + p.2 + 64 * n) saves.flatten
    let w0' := w0 - seq + (seq + 1) % 2 ^ 32
    let w0' := if r.2.2.2 && !bit w0' 46 then w0' + 2 ^ 46 else w0'
    let m := writeNat m h 8 w0'
    let m := writeNat m (h + 8) 8 (next + n)
    let m := writeNat m (h + 24) 8 p.1
    let m := writeNat m (h + 32) 8 (p.2 + 64 * n + saves.flatten.length)
    { s with mem := m }

/-- Stages whose producers name lane entries by their global indices (R346). -/
def numberProducers (base : Nat) (st : Stage) : Stage :=
  { st with hdrs := st.hdrs.map fun δ =>
      match δ.producer with
      | some (.produced e) => if e ≥ 2 ^ 34 then { δ with producer := some (.produced (base + (e - 2 ^ 34))) } else δ
      | _ => δ }

/-! ## What an instance's commit makes permanent (R51) -/

/-- Apply an instance's stage to its cell: accumulators, weights, headers, gradients, headers that `settle` frees elsewhere,
and held queue records; then release its far effects. -/
def State.applyStage (s : State) (id : Nat) (v : Inst) : State :=
  let c := v.place.ctx
  let cell := v.place.cell
  let st := v.stage
  let s := s.modCell c cell fun x =>
    let x := st.hdrs.foldl (fun x δ => x.applyDelta c δ) x
    { x with
      acc := st.acc.foldl (fun m e => setD 0#32 m e.1 e.2) x.acc
      weights := st.weights.foldl (fun m e => setD WEntry.invalid m e.1 e.2) x.weights }
  let s := st.gradGranules.foldl (fun s g => s.pokeSide c cell (g * 64) (readBytes st.grads (g * 64) 64)) s
  let s := st.remoteFrees.foldl (fun s r => s.modCell c r.1 fun x => x.applyDelta c { HdrDelta.none r.2 with freed := true }) s
  let s := st.remoteAllocs.foldl (fun s r => s.modCell c r.1 fun x => x.applyDelta c r.2) s
  let s := s.modCtx c fun x => { x with parks := x.parks.map fun r =>
    if r.staged && r.seg = v.place.seg then { r with staged := false } else r }
  ((s.commitPops c id).releaseStage v)

/-! ## The commit step (R55) -/

/-- Whether a seat of a segment is frozen (03 R70), or is one that the wave planned in its row moves: a wave moves no seat
whose segment's commit step has begun (03 R69), so none begins there between plan and wave (log 37). -/
def State.frozenSegment (s : State) (seg : Segment) : Bool :=
  let p := s.part seg.slot
  let planned (a : Nat) : Bool := p.running = some seg.ctx &&
    (match p.wave with | some w => w.moves.any fun m => m.1 = a || m.2 = a | none => false)
  (List.range seg.seglen).any fun i => ((s.ctx seg.ctx).seat (seg.openSeat + i)).frozen || planned (seg.openSeat + i)

/-- The level of the union of a segment's cells and its new seats (03 R71). -/
def State.unionLevel (s : State) (seg : Segment) (last : Nat) : Nat :=
  s.treeLevel (s.devCell seg.slot (min seg.openCell seg.openSeat)) (s.devCell seg.slot (max (seg.openCell + seg.seglen - 1) last))

/-- Push the log-full marker and set the full bit (19 R349; 23 R422). -/
def State.logFull (s : State) (g : Nat) (seg : Segment) (bytes : Nat) : State :=
  let h := s.cbHeader seg.ctx
  let w0 := readNat s.mem h 8
  let s := if bit w0 45 then s else { s with mem := writeNat s.mem h 8 (w0 + 2 ^ 45) }
  let book := bits ((s.ctx seg.ctx).blockWord 0) 33 30
  let marker : List Word := [s.markerWord seg.ctx 2, BitVec.ofNat 64 book, BitVec.ofNat 64 (w0 % 2 ^ 32), BitVec.ofNat 64 bytes,
    0#64, 0#64, 0#64, 0#64]
  let s := s.modCtx seg.ctx fun x => { x with logWaiters := x.logWaiters ++ [g] }
  (s.modSeg g fun x => { x with phase := .waitingLog }).schedule s.clk (.agentAppend seg.ctx 4 marker)

/-- Begin a segment's commit step, unless frozen seats or the log hold it (R55; 03 R70; 19 R349): the row is rewritten after
the rest of the two-way time and one clk for each eight symbols. -/
def State.beginCommit (s : State) (g : Nat) : State :=
  match lookupA s.segs g with
  | none => s
  | some seg =>
    let is := s.bySeat g seg.seglen
    let n := logNeeds is
    let entries := (is.map fun i => i.2.stage.lane.length).sum
    let waiting := (s.ctx seg.ctx).logWaiters
    if s.frozenSegment seg then s.modSeg g fun x => { x with phase := .waitingWave }
    else if seg.record && 0 < entries && !waiting.isEmpty && !waiting.contains g then
      (s.modCtx seg.ctx fun x => { x with logWaiters := x.logWaiters ++ [g] }).modSeg g fun x => { x with phase := .waitingLog }
    else if seg.record && 0 < entries && !s.logFits (s.cbHeader seg.ctx) n then
      if waiting.contains g then s else s.logFull g seg (64 * n)
    else
      let grown := seg.granted
      let last := seg.openSeat + max seg.seglen seg.total - 1
      let h := if grown then s.unionLevel seg last else s.segLevel seg
      let time := (if grown || seg.standard then twoWay h else twoWay h - oneWay h) + (seg.total + 7) / 8
      let s := s.modCtx seg.ctx fun x => { x with logWaiters := x.logWaiters.filter (· ≠ g) }
      (s.modSeg g fun x => { x with phase := .committing }).schedule (s.clk + time) (.commitComplete g)

/-- A standard operator's rewrite. -/
def State.runStandard (s : State) (id : Nat) (v : Inst) (op : Nat) (record : Bool) (args : List (List Word)) : StdRun :=
  if op = 0x61 then s.runReverse id v args
  else if op = 0x70 then s.runXchg id v args
  else s.runOperator id v op record args

/-- SEGMENT_COMMIT (R55): the last commit has reached the top tree cell. A seat that has not emitted its symbols, or a
malformed output, raises a trap; a result longer than its segment waits for seats (03 R67). A standard operator's rewrite is
computed here (13; log 33). -/
def execSegmentCommit (g : Nat) (s : State) : Host.Outcome State Fault Refusal :=
  match lookupA s.segs g with
  | none => .next s
  | some seg =>
    if seg.phase ≠ .running then .next s
    else
      let grow (s : State) (n : Nat) : State :=
        let s := s.modSeg g fun x => { x with total := n }
        if n ≤ seg.seglen then s.beginCommit g
        else (s.modSeg g fun x => { x with phase := .waitingSeats }).wakeSweep seg.slot
      let is := s.bySeat g seg.seglen
      if seg.standard then
        match is[2]? with
        | none => .next s
        | some (id, v) =>
          let finish (s : State) (out : List Word) : Host.Outcome State Fault Refusal :=
            if 64 * seg.seglen < out.length then .next (s.takeTrap id (trapOf stUser 5))
            else if out.any fun w => seg.level + symLevel w > 255 then .next (s.takeTrap id (trapOf stMalformedResult 0))
            else .next (grow (s.modSeg g fun x => { x with result := some out }) out.length)
          match seg.result with
          | some out => finish s out
          | none =>
            match s.runStandard id v seg.opnum seg.record (argsOf seg.syms) with
            | .wait s => .next s
            | .ended s => .next s
            | .fault a => .fault (.noSuchFarAddress a)
            | .done s out => finish s out
      else
        match shortEmit is with
        | some id => .next (s.takeTrap id (trapOf stShortEmit 0))
        | none =>
          let out := stagedOutput is
          if badOutput seg.level out then .next (s.takeTrap (malformedBy seg.level is) (trapOf stMalformedResult 0))
          else .next (grow s out.length)

/-- Put output symbols, raised to the open's level, at consecutive seats of a launch (R54). -/
def Ctx.placeSymbols (x : Ctx) (launch : Nat) (busy : Option Nat) (at_ : Nat) : List Word → Ctx
  | [] => x
  | w :: ws => (x.setSeat at_ { SeatState.free with sym := w, launch, busy }).placeSymbols launch busy (at_ + 1) ws

/-- Clear seats from one on, keeping those that still belong to the segment's tails busy. -/
def Ctx.clearSeats (x : Ctx) (busy : Option Nat) (at_ : Nat) : Nat → Ctx
  | 0 => x
  | n + 1 => (x.setSeat at_ { SeatState.free with busy }).clearSeats busy (at_ + 1) n

/-- Rewrite the row at a commit (R55): the output replaces the segment, and the seats beyond it are empty. -/
def State.rewriteRow (s : State) (g : Nat) (seg : Segment) (out : List Word) (tails : Bool) : State :=
  let busy := if tails then some g else none
  s.modCtx seg.ctx fun x =>
    let x := x.mapSeats fun p => if p.reserved = some g then { p with reserved := none } else p
    let x := x.clearSeats none seg.openSeat (max seg.seglen out.length)
    x.placeSymbols seg.launch busy seg.openSeat (out.map (raiseLevel seg.level))

/-- Park records whose last quoted symbol has left the context's row, and that no other record or register can name, are kept
until the expression ends; those of the storage manager are freed at unpark (10 R228; 03 R77). -/
def State.startTails (s : State) (g : Nat) : State :=
  (s.segInsts g).foldl (fun s i =>
    match s.inst? i.1 with
    | none => s
    | some v =>
      let v := { v with committed := true, stage := Stage.empty, gang := none }
      if v.ends then (s.setInst i.1 v).endTail i.1 v
      else
        let i' : Instr := .commit
        let w := v.advance (usesOf i') s.clk 0
        s.setInst i.1 { w with wake := some s.clk, issued := v.issued }) s

/-- Whether an expression is finished: none of its seats holds an application open or a parked quote (R37). -/
def Ctx.exprFinished (x : Ctx) (l : Nat) : Bool :=
  x.row.all fun p => p.2.launch ≠ l || (symKind p.2.sym ≠ 1 && !(symKind p.2.sym = 9 && bit p.2.sym.toNat 48))

/-- The committed tile that a handle names in a context: its cell, its index and its header. -/
def State.committedTile (s : State) (c h : Nat) : Option (Nat × Nat × HdrView) :=
  let cell := bits h 19 7
  let w := getD (0#64, 0#64) (s.cell c cell).hdrs (bits h 5 0)
  let v := HdrView.ofWords w.1 w.2
  if v.valid && v.owner = c then some (cell, bits h 5 0, v) else none

/-- The byte stream of the launch digest (18 R338): each result symbol, and the header and the bytes of its tile. -/
def State.digestStream (s : State) (c l : Nat) : List Byte :=
  ((s.ctx c).row.filter fun p => p.2.launch = l && symKind p.2.sym ≠ 0).flatMap fun p =>
    let w := p.2.sym
    if symKind w ≠ 6 then bytesOfWord 8 w.toNat
    else
      bytesOfWord 8 (setBits w 19 0 0).toNat ++
        match s.committedTile c (bits w.toNat 19 0) with
        | none => []
        | some (cell, _, h) =>
          let n := h.rows * h.cols
          let at_ (a n : Nat) : List Byte := readBytes s.scr (s.scrAddr c cell (h.base * 64 + a)) n
          bytesOfWord 8 (setBits (setBits h.word0 63 62 0) 35 16 0).toNat ++
            (if h.ty = .e2m1 then at_ 0 (n / 2) ++ at_ ((n + 127) / 128 * 64) (n / 8) else at_ 0 (n * (Ty.width h.ty / 8)))

/-- Note an expression's finish (R37; 18 R338; 25 R402): its launch holds the clk and at level 2 the digest, and its
completion is looked at when the clk ends, so that a trap of this clk is on it (02 R63). -/
def State.checkFinished (s : State) (c l : Nat) : State :=
  match lookupA s.launches l with
  | none => s
  | some v =>
    if v.phase = .running && v.status.isNone && (s.ctx c).exprFinished l then
      let digest := if v.level = 2 then BitVec.ofNat 64 (wordOfBytes ((sha384 (s.digestStream c l)).take 8)) else 0#64
      let s := s.modLaunch l fun v => { v with phase := .finishing, endClk := s.clk, digest }
      { s with ending := if s.ending.contains l then s.ending else s.ending ++ [l] }
    else s

/-- COMMIT_COMPLETE (R55, R56): in one event the row is rewritten, the copybook entries are published, every staged effect
takes effect and the far writes are released, and what a standard operator leaves in the resources of 13 R302 is free; then the seats go on as tails, and pending passes are handed on (12 R268). -/
def execCommitComplete (g : Nat) (s : State) : Host.Outcome State Fault Refusal :=
  match lookupA s.segs g with
  | none => .next s
  | some seg =>
    if seg.phase ≠ .committing then .next s
    else
      let is := s.bySeat g seg.seglen
      let out := match seg.result with | some r => r | none => stagedOutput is
      let next := readNat s.mem (s.cbHeader seg.ctx + 8) 8
      let tails := !seg.standard && is.any fun i => !i.2.ends
      let s := s.rewriteRow g seg out tails
      let s := s.publish seg.ctx is
      let r := is.foldl (fun (a : State × Nat) i =>
        (a.1.applyStage i.1 { i.2 with stage := numberProducers a.2 i.2.stage }, a.2 + i.2.stage.lane.length)) (s, next)
      let s := if seg.standard then is.foldl (fun s i => s.leaveStandard i.2.place.ctx i.2.place.cell) r.1 else r.1
      let s := s.modSeg g fun x => { x with phase := .tail, releases := [] }
      let s := seg.releases.foldl (fun s p => s.schedule s.clk (.passHandoff seg.ctx p)) s
      let s := s.startTails g
      let s := if (s.segInsts g).isEmpty then s.dropSegment g else s
      .next ((s.checkFinished seg.ctx seg.launch).wakeSweep seg.slot)

end Sys2Proof.Machine
end

