-- ==== Sys2Proof/Machine/Limiter.lean ====
section
/-!
DEFINITION. Machine/Limiter.lean: the current-slew limiter of a quarter and the unit limit of the power cap (15 R308, R309;
26 R410 to R412), and the event of an accumulator's readiness (09 R194).
-/

namespace Sys2Proof.Machine

/-- MMA_ACCUMULATOR_READY (09 R194): sixteen rows have been streamed (12 R282). The scoreboard holds the clk. -/
def execMmaAccumulatorReady (id _a : Nat) (s : State) : Host.Outcome State Fault Refusal :=
  match s.inst? id with
  | none => .next s
  | some v => .next (s.count v.place.ctx v.place.cell 3 16)

/-- The rise of the ceiling per step under a ramp code (R308, "Ramp table"; 26 R410). -/
def rise (code c : Nat) : Nat :=
  let r := if c ≤ 7 then 2 else if c ≤ 63 then 8 else if c ≤ 511 then 64 else 256
  match code with
  | 0 => r
  | 1 => max 1 (r / 2)
  | _ => max 1 (r / 4)

/-- The fall of the ceiling per step, by C − 1 (R308). -/
def fall (c : Nat) : Nat := if c ≤ 7 then 1 else if c ≤ 63 then 4 else if c ≤ 511 then 32 else 128

/-- The ceiling after step 2 of a boundary (R308). -/
def newCeiling (code c d : Nat) : Nat := if c < d then min d (c + rise code c) else if d < c then max d (c - fall (c - 1)) else c

/-- Admit requests in the order of their lowest cell, up to the first that does not fit (R308): the admitted units, what
still waits, and the requests admitted. -/
def admitRequests (c clk : Nat) : List (List (Nat × Nat) × Nat) → List (Nat × Nat) → List (Nat × Nat) × List (List (Nat × Nat) × Nat)
  | [], adm => (adm, [])
  | r :: rs, adm =>
    if clk < r.2 then admitRequests c clk rs adm
    else if adm.length + r.1.length ≤ c then
      let p := admitRequests c clk rs (adm ++ r.1)
      (p.1, r :: p.2)
    else (adm, [])

/-- Insert a request by its lowest cell. -/
def insertRequest (r : List (Nat × Nat) × Nat) : List (List (Nat × Nat) × Nat) → List (List (Nat × Nat) × Nat)
  | [] => [r]
  | q :: qs => if (r.1.headD (0, 0)).2 < (q.1.headD (0, 0)).2 then r :: q :: qs else q :: insertRequest r qs

/-- LIMITER_STEP (R308, R309, R412): the demand, the ceiling, admission; then the units that stream filler rows in the step
that begins. -/
def execLimiterStep (q : Nat) (s : State) : Host.Outcome State Fault Refusal :=
  let l := s.limiter q
  let ends := l.admitted.filterMap fun u =>
    let x := s.cell u.1 u.2
    if (x.liveMx s.clk).isEmpty then some (min 4 (s.clk - x.mxEnd)) else none
  let s := s.modLimiter q fun l => { l with
    fillerRows := l.fillerRows + BitVec.ofNat 64 (4 * l.fillers + ends.sum)
    admitted := l.admitted.filter fun u => !((s.cell u.1 u.2).liveMx s.clk).isEmpty
    -- a request whose instance has gone asks no more
    waiting := l.waiting.filter fun r => r.1.all fun u => (s.cell u.1 u.2).mx.any fun o => o.first.isNone }
  let l := s.limiter q
  let ready := l.waiting.filter fun r => r.2 ≤ s.clk
  let d := min (l.admitted.length + (ready.map fun r => r.1.length).sum) l.unitLimit
  let c := newCeiling (bits s.dev.cap.toNat 19 16) l.ceiling d
  let order := l.waiting.foldl (fun m r => insertRequest r m) []
  let p := admitRequests c s.clk order l.admitted
  let s := s.modLimiter q fun l => { l with ceiling := c, admitted := p.1, waiting := l.waiting.filter fun r => !p.2.contains r }
  let s := p.2.foldl (fun s r => s.admitRequest r.1 r.2) s
  let l := s.limiter q
  let busy := l.admitted.length + (l.waiting.map fun r => r.1.length).sum
  let s := s.modLimiter q fun l => { l with fillers := min (c - l.admitted.length) (s.perQuarter - busy) }
  if c = 0 && l.waiting.isEmpty then .next (s.modLimiter q fun l => { l with stepping := false })
  else .next (s.schedule (s.clk + 4) (.limiterStep q))

/-- CAP_CONTROL (26 R411): every millisecond firmware moves each quarter's unit limit by the module power of that
millisecond, a free value (log 3). A package's limit stays at the working cells. -/
def execCapControl (s : State) : Host.Outcome State Fault Refusal :=
  let cap := bits s.dev.cap.toNat 15 0
  let power := Config.modulePower s.fresh
  let cells := s.perQuarter
  let move (m : Nat) : Nat :=
    if !s.dev.isModule then cells
    else if cap < power then max 64 (m - m / 8)
    else if 100 * power < 95 * cap then min cells (m + (m + 7) / 8)
    else m
  let s := { s with fresh := s.fresh + 1 }
  let s := [0, 1, 2, 3].foldl (fun s q => s.modLimiter q fun l => { l with unitLimit := move l.unitLimit }) s
  .next (s.schedule (s.clk + 3300000) .capControl)

end Sys2Proof.Machine
end

