-- ==== Sys2Proof/Machine/Launches.lean ====
section
/-!
DEFINITION. Machine/Launches.lean: queue records at the head, dependences, lease setup and page walks, completion records and
retirement (23 R375 to R379; 24 R385 to R389, R392; 25 R397, R402).
-/

namespace Sys2Proof.Machine

/-- More status codes (24 R391). -/
def stBadRecord : Nat := 0x01
/-- lease-timeout -/
def stLeaseTimeout : Nat := 0x31
/-- lease-setup -/
def stLeaseSetup : Nat := 0x32
/-- page-pending (notice) -/
def stPagePending : Nat := 0x61

/-! ## Completion records (R375, R376) -/

/-- Write a completion record where the queue record asks for one, then raise its interrupt (R375, R376); or the address that
does not exist. -/
def State.writeRecord (s : State) (c : Nat) (r : List Word) (words : List Word) : Except Nat State :=
  let a := recWord r 5 % 2 ^ 48
  let irq (s : State) : State := if bit (recWord r 0) 23 then s.raiseMsix c else s
  if !recCen r then .ok (irq s)
  else if !farExists a (8 * words.length) then .error a
  else .ok (irq (s.pokeFar a (words.flatMap fun w => bytesOfWord 8 w.toNat)))

/-- The result symbols of a launch, in row order (02 R37). -/
def State.resultOf (s : State) (c l : Nat) : List Word :=
  ((s.ctx c).row.filter fun p => p.2.launch = l && symKind p.2.sym ≠ 0).map (·.2.sym)

/-- The words of a launch's completion record (R376, R402); the start of a launch that never started is a free value (log 3). -/
def State.completionWords (s : State) (l : Nat) (v : Launch) : List Word :=
  let base := (s.part v.slot).clkBase
  let result := if v.status.isSome then [] else (s.resultOf v.ctx l).take (bits (recWord v.record 2) 31 24)
  [v.record.getD 6 0#64, BitVec.ofNat 64 ((v.status.orElse fun _ => v.noted).getD 0), BitVec.ofNat 64 v.pos,
   if v.status.isSome then 0#64 else v.digest, BitVec.ofNat 64 result.length, BitVec.ofNat 64 v.firstCard,
   (match v.startClk with | some c => BitVec.ofNat 64 (c - base) | none => Config.noStart v.pos), BitVec.ofNat 64 (v.endClk - base)] ++ result

/-- The completion record of a fence, a level, a marker or a record that fails its check: no launch has run, and its start and end
are free values (log 3). -/
def plainCompletion (status pos : Nat) (r : List Word) : List Word :=
  [r.getD 6 0#64, BitVec.ofNat 64 status, BitVec.ofNat 64 pos, 0#64, 0#64, 0#64, Config.noStart pos, Config.noEnd pos]

/-- An ended expression gives its seats back without moving a symbol, and a launch that is over frees its park records
(10 R228; 24 R392). -/
def State.clearExpression (s : State) (l : Nat) (v : Launch) : State :=
  let s := s.modCtx v.ctx fun x =>
    { x.mapSeats fun p => if p.launch = l then { SeatState.free with frozen := p.frozen, reserved := p.reserved } else p with
      parks := x.parks.filter fun r => r.launch ≠ l }
  s.modPart v.slot fun p => { p with placing := p.placing.filter (· ≠ l) }

/-- The oldest records of a queue that are over complete, in order: those that failed their check have their own record
written here, a launch is looked at in its own event (R375, R376). -/
def State.completeFront (slot q : Nat) : Nat → State → Except Nat State
  | 0, s => .ok s
  | n + 1, s =>
    let u := (s.part slot).queue q
    match u.pending with
    | (_, some l) :: _ => .ok (s.schedule s.clk (.completionRecordWrite l))
    | (pos, none) :: rest =>
      match u.done.find? fun d => d.1 = pos with
      | none => .ok (s.modQueue slot q fun u => { u with pending := rest })
      | some (_, r) =>
        match s.writeRecord (recCtx r) r (plainCompletion stBadRecord pos r) with
        | .error a => .error a
        | .ok s =>
          State.completeFront slot q n (s.modQueue slot q fun u =>
            { u with pending := rest, done := u.done.filter fun d => d.1 ≠ pos })
    | [] => .ok (s.schedule s.clk (.recordAtHead slot q))

/-- A launch retires (R375, R378): it leaves the dependence unit, its range entries are free, and what waited for it goes
on. -/
def State.retireLaunch (s : State) (l : Nat) (v : Launch) : Except Nat State :=
  let s := s.modLaunch l fun x => { x with phase := .retired, ranges := [], deps := [] }
  let s := { s with launches := s.launches.map fun (x : Nat × Launch) => (x.1, { x.2 with deps := x.2.deps.filter (· ≠ l) }) }
  let s := s.modPart v.slot fun p => { p with depUnit := p.depUnit.filter (· ≠ l) }
  let s := s.modQueue v.slot v.queue fun u => { u with pending := u.pending.drop 1 }
  let s := ((s.fillUnit v.slot).retrySetups v.ctx).schedule s.clk (.recordAtHead v.slot v.queue)
  (State.completeFront v.slot v.queue (((s.part v.slot).queue v.queue).pending.length + 1) s).map (·.wakeSweep v.slot)

/-- COMPLETION_RECORD_WRITE (R376, R402; 24 R392): a launch all of whose far writes and commands are done, and which has finished, or
has ended and has no segment that still runs, completes when every earlier record of its queue has. -/
def execCompletionRecordWrite (l : Nat) (s : State) : Host.Outcome State Fault Refusal :=
  match lookupA s.launches l with
  | none => .next s
  | some v =>
    if v.phase = .retired || (v.status.isNone && v.phase ≠ .finishing) || (v.status.isSome && s.segs.any fun g => g.2.launch = l) || 0 < v.outstanding then
      .next s
    else
      let s := if v.status.isSome then s.clearExpression l v
        else s.modCtx v.ctx fun x => { x with parks := x.parks.filter fun r => r.launch ≠ l }
      match ((s.part v.slot).queue v.queue).pending with
      | (_, some l') :: _ =>
        if l' ≠ l then .next s
        else
          match s.writeRecord v.ctx v.record (s.completionWords l v) with
          | .error a => .fault (.noSuchFarAddress a)
          | .ok s =>
            match s.retireLaunch l v with
            | .error a => .fault (.noSuchFarAddress a)
            | .ok s => .next s
      | _ => .next s

/-! ## The head of a queue (R375, R397) -/

/-- The record at a queue's head leaves it and completes in queue order. -/
def State.takeHead (s : State) (slot q pos : Nat) (l : Option Nat) : State :=
  (s.modQueue slot q fun u => { u with pending := u.pending ++ [(pos, l)] }).popHead slot q

/-- A launch ends before it starts (R375; 24 R385, R388, R393). -/
def State.endUnstarted (s : State) (l : Nat) (status : Nat) : State :=
  s.modLaunch l fun v => if v.status.isSome then v else { v with status := some status, statusClk := s.clk, endClk := s.clk }

/-- RECORD_AT_HEAD (R375, R393; 18 R332): the record at a queue's head is checked. One that fails completes in queue order; a
fence, a level or a marker completes when every earlier record has retired, and a level sets the queue's level; a launch
that has ended before its start leaves its place. -/
def execRecordAtHead (slot q : Nat) (s : State) : Host.Outcome State Fault Refusal :=
  let u := (s.part slot).queue q
  match u.die with
  | [] => .next s
  | (pos, r) :: _ =>
    match s.launchAt slot q pos with
    | some (l, v) =>
      let s := s.modLaunch l fun v => { v with record := r }
      let s := if v.status.isSome then s
        else if s.badRecord slot q r then s.endUnstarted l stBadRecord
        else if (s.ctx v.ctx).state = .faulted then s.endUnstarted l stContextFaulted
        else s
      if ((lookupA s.launches l).bind (·.status)).isSome then
        .next (((s.modLaunch l fun v => { v with phase := .finishing }).takeHead slot q pos (some l)).schedule s.clk (.completionRecordWrite l))
      else if v.phase = .ready && v.deps.isEmpty then .next (s.wakeSweep slot)
      else .next s
    | none =>
      if s.badRecord slot q r then
        let s := (s.modQueue slot q fun u => { u with done := u.done ++ [(pos, r)] }).takeHead slot q pos none
        match State.completeFront slot q (u.pending.length + 1) s with
        | .error a => .fault (.noSuchFarAddress a)
        | .ok s => .next s
      else if !u.pending.isEmpty then .next s
      else
        match s.writeRecord (recCtx r) r (plainCompletion 0 pos r) with
        | .error a => .fault (.noSuchFarAddress a)
        | .ok s =>
          let s := if recKind r = 2 then s.modQueue slot q fun u => { u with level := bits (recWord r 0) 41 40 } else s
          .next (s.popHead slot q)

/-! ## Page tables (24 R386 to R388) -/

/-- What the walk of a page meets: its physical page with its size, the levels read, their slowest latency and whether writes
are permitted; an entry that is not valid, with the span that it covers; or a broken table. -/
inductive Walk where
  | page (phys size levels latency : Nat) (w : Bool)
  | absent (span : Nat)
  | bad
deriving DecidableEq, Repr

/-- Walk the table of a level, 4 to 1, for a virtual address (R386). An address that cannot be read breaks the table. -/
def State.walkPage (s : State) (va : Nat) : Nat → Nat → Nat → Nat → Bool → Walk
  | 0, _, _, _, _ => .bad
  | level + 1, table, read, latency, w =>
    let span := 4096 * 512 ^ level
    let a := table + 8 * (va / span % 512)
    let latency := max latency (spaceLatency a)
    if !farExists a 8 || s.farPoisoned a 8 then .bad
    else
      let e := readNat s.mem a 8
      if !bit e 0 then .absent span
      else if bits e 63 48 ≠ 0 || bits e 47 46 = 3 || bits e 11 3 ≠ 0 then .bad
      else
        let next := bits e 47 12 * 4096
        let w := w && bit e 2
        if bit e 1 then
          if level = 3 || next % span ≠ 0 then .bad else .page next span (read + 1) latency w
        else if level = 0 then .bad
        else s.walkPage va level next (read + 1) latency w

/-- What setup has learnt of a lease. -/
structure Setup where
  ranges : List Range
  pages : Nat
  levels : Nat
  latency : Nat
  absent : List Nat
  bad : Bool
deriving DecidableEq, Repr

/-- Whether bytes of a page lie under the CXL.mem window at the top of HBM (R372, R387). -/
def State.underWindow (s : State) (phys size : Nat) : Bool :=
  0 < s.dev.window && spaceOf phys = 0 && 512000000000 < phys % 2 ^ 46 + size + s.dev.window * 2 ^ 30

/-- Walk the pages of [va, top): they lie in one space, without a gap, from `phys` on; `fuel` bounds their number. -/
def State.walkRange (s : State) (root : Nat) (wr : Bool) (top : Nat) : Nat → Nat → Option Nat → Setup → Setup
  | 0, _, _, a => a
  | fuel + 1, va, phys, a =>
    if top ≤ va then a
    else
      match s.walkPage va 4 root 0 0 true with
      | .bad => { a with bad := true }
      | .absent span => s.walkRange root wr top fuel ((va / span + 1) * span) none { a with absent := a.absent ++ [va] }
      | .page base size levels latency w =>
        let here := base + va % size
        let torn := match phys with | some p => p ≠ here || spaceOf p ≠ spaceOf here | none => false
        if torn || (wr && !w) || s.underWindow base size then { a with bad := true }
        else
          let next := (va / size + 1) * size
          s.walkRange root wr top fuel next (some (here + (next - va)))
            { a with pages := a.pages + 1, levels := max a.levels levels, latency := max a.latency latency }

/-- The lease table's entries, each walked (R385, R387). -/
def State.walkEntries (s : State) (root table : Nat) : Nat → Nat → Setup → Setup
  | 0, _, a => a
  | n + 1, e, a =>
    let w0 := readNat s.mem (table + 64 + 16 * e) 8
    let w1 := readNat s.mem (table + 72 + 16 * e) 8
    let vbase := w0 % 2 ^ 48
    let len := bits w1 41 0
    if bits w0 61 48 ≠ 0 || bits w1 63 42 ≠ 0 || vbase % 64 ≠ 0 || len % 64 ≠ 0 || len < 64 || 2 ^ 42 - 64 < len || 2 ^ 48 < vbase + len then
      { a with bad := true }
    else
      let a := s.walkRange root (bit w0 62) (vbase + len) (len / 4096 + 2) vbase none a
      let phys := match s.walkPage vbase 4 root 0 0 true with | .page base size _ _ _ => base + vbase % size | _ => 0
      s.walkEntries root table n (e + 1)
        { a with ranges := a.ranges ++ [{ base := phys, length := len, rd := bit w0 63, wr := bit w0 62, vbase }] }

/-- A launch's lease, as the walker reads it (R385 to R388). -/
def State.readLease (s : State) (r : List Word) : Setup :=
  let n := bits (recWord r 3) 55 48
  let t := recWord r 3 % 2 ^ 48
  let none : Setup := { ranges := [], pages := 0, levels := 0, latency := 0, absent := [], bad := false }
  let size := 64 + 64 * ((n + 3) / 4)
  let h := readNat s.mem t 8
  if n = 0 then none
  else if t % 64 ≠ 0 || !farExists t size || s.farPoisoned t size || bits h 63 48 ≠ 0 || bits h 47 46 = 3 || bits h 11 0 ≠ 0 ||
      (List.range 7).any (fun i => readNat s.mem (t + 8 + 8 * i) 8 ≠ 0) then { none with bad := true }
  else s.walkEntries (bits h 47 12 * 4096) t n 0 none

/-- The time of a lease's setup (R387): the table's granules arrive one per clk after the first; then the walks, one begun per
clk, each table read in turn. It keeps the stated bound T + G + 4L + N (log 38). -/
def setupTime (r : List Word) (a : Setup) : Nat :=
  let t := recWord r 3 % 2 ^ 48
  spaceLatency t + (bits (recWord r 3) 55 48 + 3) / 4 + a.levels * a.latency + (a.pages - 1)

/-! ## Range entries (24 R389) -/

/-- The lease entries that a copy's local far endpoints name (22 R370). -/
def Desc.entries (d : Desc) : List Nat :=
  ([d.src.endpoint, d.dst.endpoint].filter fun e => endKind e = 0).map fun e => bits e.toNat 47 42

/-- The range entries of a context that are taken (R389): those of launches whose setup has begun and which have not
retired, and those that armed sends, or commands of fired ones, have captured from launches that have. -/
def State.rangesTaken (s : State) (c : Nat) : Nat :=
  let live := (s.launches.filter fun l => l.2.ctx = c && l.2.phase ≠ .retired).map fun l =>
    if l.2.phase = .setup then bits (recWord l.2.record 3) 55 48 else l.2.ranges.length
  let gone (l : Nat) : Bool := match lookupA s.launches l with | some v => v.phase = .retired | none => true
  let armed := ((s.ctx c).armed.filter fun a => gone a.launch).flatMap fun a => (a.desc.entries.filter (· < a.ranges.length)).map fun e => (a.launch, e)
  let fired := (s.commands.filter fun k => k.2.ctx = c && k.2.send && gone k.2.launch).flatMap fun k =>
    (k.2.desc.entries.filter (· < k.2.ranges.length)).map fun e => (k.2.launch, e)
  live.sum + (armed ++ fired).dedup.length

/-! ## The dependence unit (23 R378) -/

/-- Ranges of a launch: read ranges and write ranges, as first byte and length. -/
structure DepRanges where
  reads : List (Nat × Nat)
  writes : List (Nat × Nat)
  wild : Bool
deriving DecidableEq, Repr

/-- The ranges that a record declares, none where the list cannot be read. -/
def State.depRanges (s : State) (r : List Word) : Option DepRanges :=
  let w := recWord r 4
  let a := w % 2 ^ 48
  let rc := bits w 51 48
  let wc := bits w 55 52
  if rc + wc > 0 && (!farExists a (16 * (rc + wc)) || s.farPoisoned a (16 * (rc + wc))) then none
  else
    let entry (i : Nat) : Nat × Nat := (readNat s.mem (a + 16 * i) 8 % 2 ^ 48, readNat s.mem (a + 16 * i + 8) 8)
    some { reads := (List.range rc).map entry, writes := (List.range wc).map fun i => entry (rc + i), wild := bit w 56 }

/-- Whether two lists of ranges meet. -/
def meets (a b : List (Nat × Nat)) : Bool := a.any fun x => b.any fun y => x.1 < y.1 + y.2 && y.1 < x.1 + x.2

/-- Whether a later launch depends on an earlier one: the cases of R378. -/
def depends (later earlier : DepRanges) : Bool :=
  later.wild || earlier.wild || meets earlier.writes later.reads || meets earlier.reads later.writes ||
    meets earlier.writes later.writes

/-- Begin a launch's lease setup when the hub has range entries for it, behind the earlier setups of its context (R387,
R389). -/
def State.beginSetup (s : State) (l : Nat) (v : Launch) : State :=
  let n := bits (recWord v.record 3) 55 48
  if n = 0 || 64 < n then (s.modLaunch l fun v => { v with phase := .ready }).schedule s.clk (.recordAtHead v.slot v.queue)
  else if (s.launches.any fun e => e.1 < l && e.2.ctx = v.ctx && e.2.phase = .waitingUnit) || 64 < s.rangesTaken v.ctx + n then
    s.modLaunch l fun v => { v with phase := .waitingUnit }
  else
    (s.modLaunch l fun v => { v with phase := .setup, setupBegan := s.clk }).schedule (s.clk + setupTime v.record (s.readLease v.record))
      (.leaseSetupComplete l)

/-- DEPENDENCE_ENTRY (R378): a launch enters the dependence unit and gains its dependences on the launches in it; a range list
that cannot be read makes it a bad record. Its lease setup begins, now or when range entries are free. -/
def execDependenceEntry (l : Nat) (s : State) : Host.Outcome State Fault Refusal :=
  match lookupA s.launches l with
  | none => .next s
  | some v =>
    if v.phase = .waitingUnit then .next (s.beginSetup l v)
    else
      let p := s.part v.slot
      if v.phase ≠ .queued || 64 ≤ p.depUnit.length then .next s
      else
        let s := s.modPart v.slot fun p => { p with depUnit := p.depUnit ++ [l] }
        match s.depRanges v.record with
        | none =>
          .next (((s.modLaunch l fun v => { v with phase := .ready }).endUnstarted l stBadRecord).schedule s.clk (.recordAtHead v.slot v.queue))
        | some d =>
          let deps := p.depUnit.filter fun e =>
            match lookupA s.launches e with
            | some w => (match s.depRanges w.record with | some x => depends d x | none => false)
            | none => false
          .next ((s.modLaunch l fun v => { v with deps }).beginSetup l v)

/-- A launch whose lease cannot be set up ends without starting (24 R385, R388). -/
def State.endSetup (s : State) (l : Nat) (v : Launch) (status : Nat) : State :=
  let s := s.report v.ctx { Card.ofStatus status 1 with launch := l }
  ((s.modLaunch l fun v => { v with phase := .ready }).endUnstarted l status).schedule s.clk (.recordAtHead v.slot v.queue)

/-- Read a launch's lease and act on it: it is ready, it ends, or it waits for pages, each noticed once, which are walked
again every 65,536 clk (R387, R388). -/
def State.trySetup (s : State) (l : Nat) (v : Launch) : State :=
  let a := s.readLease v.record
  if a.bad then s.endSetup l v stLeaseSetup
  else if a.absent.isEmpty then
    ((s.modLaunch l fun v => { v with phase := .ready, ranges := a.ranges, pendingPages := [] }).schedule s.clk (.recordAtHead v.slot v.queue)).wakeSweep
      v.slot
  else
    let new := a.absent.filter fun p => !v.pendingPages.contains p
    let s := new.foldl (fun s p => s.report v.ctx { Card.ofStatus stPagePending 3 with addr := p, launch := l }) s
    let s := if v.pendingPages.isEmpty then s.schedule (s.clk + 330000000) (.leaseTimeout l) else s
    (s.modLaunch l fun v => { v with pendingPages := v.pendingPages ++ new }).schedule (s.clk + 65536) (.pageRewalk l)

/-- LEASE_SETUP_COMPLETE (R385 to R388): the walker has read a launch's lease. -/
def execLeaseSetupComplete (l : Nat) (s : State) : Host.Outcome State Fault Refusal :=
  match lookupA s.launches l with
  | none => .next s
  | some v => if v.phase = .setup && v.status.isNone then .next (s.trySetup l v) else .next s

/-- PAGE_REWALK (R388): the pages that were not resident are walked again. -/
def execPageRewalk (l : Nat) (s : State) : Host.Outcome State Fault Refusal :=
  match lookupA s.launches l with
  | none => .next s
  | some v => if v.phase = .setup && v.status.isNone then .next (s.trySetup l v) else .next s

/-- LEASE_TIMEOUT (R388): a page has stayed away for 100 ms after the first notice. -/
def execLeaseTimeout (l : Nat) (s : State) : Host.Outcome State Fault Refusal :=
  match lookupA s.launches l with
  | none => .next s
  | some v =>
    if v.phase = .setup && v.status.isNone && !v.pendingPages.isEmpty then .next (s.endSetup l v stLeaseTimeout) else .next s

/-! ## Priority (R379) -/

/-- Hand priorities along: the receiver takes the donor's where it is higher, that is, lower in number. -/
def donate (edges : List (Nat × Nat)) (m : Assoc Nat) : Assoc Nat :=
  edges.foldl (fun m e =>
    match lookupA m e.1, lookupA m e.2 with
    | some a, some b => if a < b then putA m e.2 a else m
    | _, _ => m) m

/-- The effective priorities of a partition's unretired launches (R379). -/
def State.priorities (s : State) (slot : Nat) : Assoc Nat :=
  let ls := s.launches.filter fun l => l.2.slot = slot && l.2.phase ≠ .retired
  let deps := ls.flatMap fun l => l.2.deps.map fun d => (l.1, d)
  let passes := (s.part slot).passes.flatMap fun p =>
    match p.2.holder.bind (fun h => (ls.find? fun l => l.2.ctx = h).map (·.1)) with
    | none => []
    | some target => p.2.waiters.filterMap fun k =>
        ((lookupA s.syncOps k).bind fun op => lookupA s.segs op.seg).map fun g => (g.launch, target)
  (List.range ls.length).foldl (fun m _ => donate (deps ++ passes) m) (ls.map fun l => (l.1, l.2.queue))

/-- Whether a launch has not started. -/
def Launch.unstarted (v : Launch) : Bool := v.phase = .queued || v.phase = .waitingUnit || v.phase = .setup || v.phase = .ready

/-- The effective priority of a queue: the highest of its records, 4 when it holds no launch. -/
def State.queuePriority (s : State) (slot q : Nat) : Nat :=
  let m := s.priorities slot
  (s.launches.filter fun l => l.2.slot = slot && l.2.queue = q && l.2.unstarted).foldl (fun n l => min n (getD 4 m l.1)) 4

/-- The launch at a queue's head when it is startable but for its context's turn (R378). -/
def State.startable (s : State) (slot q : Nat) : Option (Nat × Launch) :=
  match ((s.part slot).queue q).die with
  | (pos, r) :: _ =>
    match s.launchAt slot q pos with
    | some (l, v) =>
      if v.phase = .ready && v.deps.isEmpty && v.status.isNone && !s.badRecord slot q r && (s.ctx v.ctx).state ≠ .faulted &&
          !(s.ctx v.ctx).dying then some (l, v) else none
    | none => none
  | [] => none

/-- The effective priority of a context's work: of its launches that have started and are not over, and of the queues at
whose heads it has a startable launch; none without work (R379, R381; log 39). -/
def State.contextPriority (s : State) (slot c : Nat) : Option Nat :=
  let m := s.priorities slot
  let begun := (s.launches.filter fun l => l.2.slot = slot && l.2.ctx = c && l.2.status.isNone &&
    (l.2.phase = .started || l.2.phase = .placed || l.2.phase = .running)).map fun l => getD 4 m l.1
  let heads := (List.range 4).filterMap fun q =>
    match s.startable slot q with
    | some (_, v) => if v.ctx = c then some (s.queuePriority slot q) else none
    | none => none
  (begun ++ heads).min?

/-- Whether a context has work that could run at once. -/
def State.hasWork (s : State) (slot c : Nat) : Bool := (s.contextPriority slot c).isSome

/-- A launch starts (R378, R397, R402): it leaves its place, and waits for its placement. -/
def State.startLaunch (s : State) (slot q l : Nat) (v : Launch) : State :=
  let u := (s.part slot).queue q
  let s := s.modLaunch l fun v => { v with phase := .started, startClk := some s.clk, level := u.level }
  (s.takeHead slot q v.pos (some l)).modPart slot fun p => { p with placing := p.placing ++ [l] }

/-- The startable head of a context in the queue of the highest effective priority, ties to the lower queue (R379). -/
def State.bestHead (s : State) (slot c : Nat) : Option (Nat × Nat × Launch) :=
  let heads := (List.range 4).filterMap fun q =>
    match s.startable slot q with
    | some (l, v) => if v.ctx = c then some (s.queuePriority slot q, q, l, v) else none
    | none => none
  (heads.foldl (fun (b : Option (Nat × Nat × Nat × Launch)) h =>
    match b with | some k => if h.1 < k.1 then some h else b | none => some h) none).map (·.2)

/-- The startable heads of the running context start, in order of their queues' effective priority (R379). A record that becomes
its queue's head by such a start is a startable head of the same sweep (log 50); `n` bounds their number. -/
def State.startHeads (s : State) (slot c : Nat) : Nat → State
  | 0 => s
  | n + 1 =>
    match s.bestHead slot c with
    | some (q, l, v) => (s.startLaunch slot q l v).startHeads slot c n
    | none => s

end Sys2Proof.Machine
end

