-- ==== Sys2Proof/Machine/Storage.lean ====
section
/-!
DEFINITION. Machine/Storage.lean: the storage manager: what a planning step serves, shift waves, placement, parking, unparking
and the background tidy (03 R64 to R83; 24 R396).
-/

namespace Sys2Proof.Machine

/-- expression-too-long (24 R391). -/
def stTooLong : Nat := 0x03
/-- row-exhausted -/
def stRowExhausted : Nat := 0x07
/-- park-write error (notice) -/
def stParkWrite : Nat := 0x60

/-! ## The row as the planning step sees it -/

/-- Whether a seat holds a symbol, or one on its way to it. -/
def SeatState.held (p : SeatState) : Bool := symKind p.sym ≠ 0 || p.launch ≠ 0

/-- Whether a seat belongs to a segment whose commit step has begun (02 R61). -/
def State.committingSeat (s : State) (p : SeatState) : Bool :=
  let begun (g : Nat) : Bool := match lookupA s.segs g with | some x => x.phase = .committing || x.phase = .tail | none => false
  (match p.busy with | some g => begun g | none => false) || (match p.reserved with | some g => begun g | none => false)

/-- What the planning step knows of a context's row: its seats, and the seats that it has planned with so far. -/
structure RowView where
  ctx : Nat
  slot : Nat
  n : Nat
  row : Ctx
  planned : List Nat
deriving DecidableEq, Repr

/-- A seat that a scan may take. -/
def RowView.free (v : RowView) (p : Nat) : Bool :=
  let q := v.row.seat p
  !q.held && q.reserved.isNone && !q.frozen && !v.planned.contains p

/-- A seat that no move crosses: its segment's commit step has begun, or the storage manager has frozen it (R68, R69, R75,
R77; log 37). -/
def State.blocksScan (s : State) (v : RowView) (p : Nat) : Bool :=
  let q := v.row.seat p
  q.frozen || s.committingSeat q

/-- The free seats that a scan in one direction takes, nearest first, until it has enough or meets a seat that stops it or the
row's end (R68). -/
def scanSeats (free stops : Nat → Bool) (n : Nat) (right : Bool) : Nat → Nat → Nat → List Nat
  | 0, _, _ => []
  | fuel + 1, p, want =>
    if want = 0 || n ≤ p || stops p then []
    else
      let rest (w : Nat) : List Nat :=
        if right then scanSeats free stops n right fuel (p + 1) w
        else if p = 0 then [] else scanSeats free stops n right fuel (p - 1) w
      if free p then p :: rest (want - 1) else rest want

/-- A seat taken for a request: the seat, the request's open and close, and whether it lies to the right. -/
structure Take where
  seat : Nat
  first : Nat
  last : Nat
  right : Bool
deriving DecidableEq, Repr

/-- The seats that a request for `want` seats around [first, last] takes: to the right, then to the left (R68); none when they
are too few. -/
def State.takeSeats (s : State) (v : RowView) (taken : List Take) (first last want : Nat) : Option (List Take) :=
  let free (p : Nat) : Bool := v.free p && !taken.any fun t => t.seat = p
  let r := scanSeats free (s.blocksScan v) v.n true v.n (last + 1) want
  let l := if first = 0 then [] else scanSeats free (s.blocksScan v) v.n false v.n (first - 1) (want - r.length)
  if r.length + l.length < want then none
  else some ((r.map fun p => ⟨p, first, last, true⟩) ++ l.map fun p => ⟨p, first, last, false⟩)

/-- How far the symbol at a seat moves (R68). A request's own symbols follow its left-takes, so that the seats it gains lie
behind its close (log 37). -/
def shiftTo (taken : List Take) (p : Nat) : Nat :=
  p + (taken.filter fun t => t.right && p < t.seat && t.last < p).length -
    (taken.filter fun t => !t.right && t.seat < p && p ≤ t.last).length

/-- The moves that takes ask for. -/
def RowView.shifts (v : RowView) (taken : List Take) : List (Nat × Nat) :=
  v.row.row.filterMap fun p => if p.2.held && shiftTo taken p.1 ≠ p.1 then some (p.1, shiftTo taken p.1) else none

/-- The row seen with more seats planned: takes, and the sources and destinations of moves. -/
def RowView.plan (v : RowView) (taken : List Take) (moves : List (Nat × Nat)) : RowView :=
  { v with planned := v.planned ++ taken.map (·.seat) ++ moves.flatMap fun m => [m.1, m.2] }

/-! ## Applications of the row -/

/-- An application of the row: open, close, and whether it contains another open. -/
structure App where
  first : Nat
  last : Nat
  nested : Bool
deriving DecidableEq, Repr

/-- All applications of a row, by their closes. `st` holds the open brackets: kind, seat, whether an application opens inside. -/
def applications : List (Nat × Nat × Bool) → Assoc SeatState → List App
  | _, [] => []
  | st, (p, q) :: rest =>
    let k := symKind q.sym
    if k = 1 then applications ((1, p, false) :: st.map fun b => (b.1, b.2.1, true)) rest
    else if k = 3 then applications ((3, p, false) :: st) rest
    else if k = 2 || k = 4 then
      match st with
      | (1, o, inner) :: st' => ⟨o, p, inner⟩ :: applications st' rest
      | _ :: st' => applications st' rest
      | [] => applications [] rest
    else applications st rest

/-- What a discovery sweep tells of an innermost application: its seats, whether one is empty, and whether any blocks readiness
(02 R39 to R41). -/
structure Found where
  first : Nat
  last : Nat
  gap : Bool
  blocked : Bool
deriving DecidableEq, Repr

/-- Whether a seat's own state blocks readiness (02 R40): frozen, busy, a parked quote, or an expression that has not finished
its placement or has ended. -/
def State.blocksReady (s : State) (q : SeatState) : Bool :=
  q.frozen || q.busy.isSome || (symKind q.sym = 9 && bit q.sym.toNat 48) ||
    (match lookupA s.launches q.launch with | some v => v.phase ≠ .running || v.status.isSome | none => true)

/-- The two-way sweep over a row (02 R41): `cur` is the nearest open, its level, whether a gap and whether a blocking seat has
been seen since, and the last seat seen. -/
def State.sweepRow (s : State) : Option (Nat × Nat × Bool × Bool) → Nat → Assoc SeatState → List Found
  | _, _, [] => []
  | cur, seen, (p, q) :: rest =>
    let k := symKind q.sym
    let b := s.blocksReady q
    if k = 1 then s.sweepRow (some (p, symLevel q.sym, false, b)) p rest
    else
      match cur with
      | none => s.sweepRow none p rest
      | some (o, l, gap, blk) =>
        let gap := gap || p ≠ seen + 1 || k = 0
        let blk := blk || b
        let here := if k = 2 && symLevel q.sym = l then [⟨o, p, gap, blk || gap⟩] else []
        here ++ s.sweepRow (some (o, l, gap, blk)) p rest

/-- The innermost applications of a row. -/
def State.innermost (s : State) (x : Ctx) : List Found := s.sweepRow none 0 x.row

/-! ## Growth (R67, R68) -/

/-- The pending growth requests of a context, leftmost open first. -/
def State.growthRequests (s : State) (c : Nat) : List (Nat × Segment) :=
  (s.segs.filter fun g => g.2.ctx = c && g.2.phase = .waitingSeats && !g.2.granted).mergeSort fun a b => a.2.openSeat ≤ b.2.openSeat

/-- Serve growth requests in order until one cannot be served: the takes, the segments served and the first left. -/
def State.serveGrowth (s : State) (v : RowView) : List (Nat × Segment) → List Take → List (Nat × Segment) → List Take × List (Nat × Segment) × Option (Nat × Segment)
  | [], taken, served => (taken, served, none)
  | (g, x) :: rest, taken, served =>
    match s.takeSeats v taken x.openSeat (x.openSeat + x.seglen - 1) (x.total - x.seglen) with
    | none => (taken, served, some (g, x))
    | some ts => s.serveGrowth v rest (taken ++ ts) (served ++ [(g, x)])

/-- Reserve seats for a request. -/
def Ctx.reserve (x : Ctx) (owner at_ : Nat) : Nat → Ctx
  | 0 => x
  | n + 1 => (x.setSeat at_ { x.seat at_ with reserved := some owner }).reserve owner (at_ + 1) n

/-- Freeze or unfreeze the seats of a list (R70). -/
def Ctx.freeze (x : Ctx) (on : Bool) (seats : List Nat) : Ctx :=
  seats.foldl (fun x p => x.setSeat p { x.seat p with frozen := on }) x

/-! ## Parking (R74, R78) -/

/-- The candidates for parking, rightmost open first: whole applications that contain another open, hold no busy, frozen,
reserved or planned seat, are not about to be bound, and do not contain the requester (R74). -/
def State.parkCandidates (s : State) (v : RowView) (found : List Found) (seg : Segment) : List App :=
  let ok (a : App) : Bool :=
    a.nested && !(a.first ≤ seg.openSeat && seg.openSeat ≤ a.last) && !seg.parkTried.contains a.first &&
      (v.row.row.all fun p => p.1 < a.first || a.last < p.1 ||
        (p.2.busy.isNone && !p.2.frozen && p.2.reserved.isNone && !v.planned.contains p.1)) &&
      (found.all fun f => f.blocked || f.last < a.first || a.last < f.first) &&
      (match lookupA s.launches (v.row.seat a.first).launch with | some l => l.phase = .running && l.status.isNone | none => false)
  ((applications [] v.row.row).filter ok).mergeSort fun a b => b.first ≤ a.first

/-- Symbols of the row in [first, last], in order. -/
def Ctx.symbolsIn (x : Ctx) (first last : Nat) : List Word :=
  (x.row.filter fun p => first ≤ p.1 && p.1 ≤ last && symKind p.2.sym ≠ 0).map (·.2.sym)

/-- A request that no seats can be found for ends its expression with row-exhausted (R78, R83). -/
def State.exhaust (s : State) (g : Nat) (seg : Segment) : State :=
  let s := s.report seg.ctx { Card.ofStatus stRowExhausted 1 with opnum := seg.opnum, openSeat := seg.openSeat, launch := seg.launch }
  (((s.handReleases seg.ctx seg.releases).discard g).endExpression seg.launch stRowExhausted seg.openSeat)

/-- Park one candidate for the first request that could not be served, unless a storage move is under way: what begins, or the
request is exhausted (R74, R78; log 37). -/
def State.planPark (s : State) (v : RowView) (found : List Found) (g : Nat) (seg : Segment) : State × List Move :=
  if !(s.part v.slot).moves.isEmpty then (s, [])
  else
    match s.parkCandidates v found seg with
    | [] => (s.exhaust g seg, [])
    | a :: _ =>
      match v.row.parkSpace (8 * (v.row.symbolsIn a.first a.last).length + 8) with
      | none => (s.exhaust g seg, [])
      | some addr => (s, [.park a.first a.last addr g])

/-! ## Placement (R65, R66) -/

/-- The leftmost run of n free seats that lies inside no bracket: a launch is one top-level term (02 R37; log 37). `depth` counts
the open brackets before seat `p`. -/
def RowView.findRun (v : RowView) (n : Nat) : Nat → Nat → Nat → Nat → Option Nat
  | 0, _, _, _ => none
  | fuel + 1, p, depth, run =>
    if v.n ≤ p then none
    else
      let k := symKind (v.row.seat p).sym
      let depth' := if k = 1 || k = 3 then depth + 1 else if k = 2 || k = 4 then depth - 1 else depth
      if depth = 0 && v.free p then
        if n ≤ run + 1 then some (p + 1 - n) else v.findRun n fuel (p + 1) depth' (run + 1)
      else v.findRun n fuel (p + 1) depth' 0

/-- Take the seats of a run for a launch. -/
def Ctx.takeRun (x : Ctx) (launch at_ : Nat) : Nat → Ctx
  | 0 => x
  | n + 1 => (x.setSeat at_ { SeatState.free with launch }).takeRun launch (at_ + 1) n

/-- A seat that a compaction wave does not move, and that bounds its stretch (R66): one that stops scans, that is reserved, or
that is planned with. -/
def State.boundary (s : State) (v : RowView) (p : Nat) : Bool :=
  let q := v.row.seat p
  s.blocksScan v p || q.reserved.isSome || v.planned.contains p ||
    (match q.busy with | some g => (match lookupA s.segs g with | some x => x.granted | none => false) | none => false)

/-- The moves of a compaction wave: in each stretch the symbols go leftward, keeping their order (R66). `to` is the next seat to
fill. -/
def State.compact (s : State) (v : RowView) : Nat → Nat → Nat → List (Nat × Nat)
  | 0, _, _ => []
  | fuel + 1, p, dest =>
    if v.n ≤ p then []
    else if s.boundary v p then s.compact v fuel (p + 1) (p + 1)
    else if (v.row.seat p).held then
      (if p = dest then [] else [(p, dest)]) ++ s.compact v fuel (p + 1) (dest + 1)
    else s.compact v fuel (p + 1) dest

/-- The space of an expression's first granule and its descent (R65). -/
def State.placeTime (s : State) (slot addr n : Nat) : Nat :=
  spaceLatency addr + (if s.isQuarter slot then 20 else 32) + ((n + 7) / 8 - 1)

/-- Serve one placement at the end `fin` of a planning step: the state, the moves of a compaction wave, and the row with its planned
seats (R65, R66, R83). -/
def State.planPlacement (s : State) (v : RowView) (fin : Nat) : State × List (Nat × Nat) × RowView :=
  match (s.part v.slot).placing.find? fun l => match lookupA s.launches l with | some x => x.ctx = v.ctx | none => false with
  | none => (s, [], v)
  | some l =>
    let r := ((lookupA s.launches l).map (·.record)).getD []
    let n := bits (recWord r 2) 12 0
    let placed (s : State) : State := s.modPart v.slot fun p => { p with placing := p.placing.filter (· ≠ l) }
    if v.n - v.n / 8 < n then
      let s := (placed s).report v.ctx { Card.ofStatus stTooLong 1 with launch := l }
      (s.endExpression l stTooLong 0, [], v)
    else if v.row.emptySeats v.n < n + v.n / 8 then (s, [], v)
    else
      match (if n = 0 then some 0 else v.findRun n (v.n + 1) 0 0 0) with
      | some p =>
        let take (x : Ctx) : Ctx :=
          { x.takeRun l p n with roll := { x.roll with symbols := x.roll.symbols + n } }
        let s := ((placed s).modCtx v.ctx take).modLaunch l fun x => { x with phase := .placed }
        (s.schedule (fin + s.placeTime v.slot (recWord r 1 % 2 ^ 48) n) (.expressionPlaced l), [],
          { v with row := take v.row, planned := v.planned ++ (List.range n).map (p + ·) })
      | none =>
        let moves := s.compact v (v.n + 1) 0 0
        (s, moves, v.plan [] moves)

/-- EXPRESSION_PLACED (R65; 02 R36; 06 R139): the last symbol is in its seat. An expression that is not one well-formed term ends
with malformed-expression. -/
def execExpressionPlaced (l : Nat) (s : State) : Host.Outcome State Fault Refusal :=
  match lookupA s.launches l with
  | none => .next s
  | some v =>
    if v.phase ≠ .placed || v.status.isSome then .next s
    else
      let a := recWord v.record 1 % 2 ^ 48
      let n := bits (recWord v.record 2) 12 0
      if !farExists a (8 * n) then .fault (.noSuchFarAddress a)
      else
        let ws := readWords s.mem a n
        let cellcount := (s.part v.slot).cellcount
        let seats := ((s.ctx v.ctx).row.filter fun p => p.2.launch = l).map (·.1)
        let fail (status addr : Nat) : State :=
          (s.report v.ctx { Card.ofStatus status 1 with addr, launch := l }).endExpression l status 0
        if 0 < n && s.farPoisoned a (8 * n) then .next (fail stDataError a)
        else if !(termsOk 0 [] false ws) || !(ws.all (symbolOk cellcount)) || (splitTerms [] 0 (ws.filter fun w => symKind w ≠ 0)).length ≠ 1 then
          .next (fail stMalformedExpr 0)
        else
          let s := s.modCtx v.ctx fun x =>
            (seats.zip ws).foldl (fun x p => x.setSeat p.1 (if symKind p.2 = 0 then SeatState.free else { x.seat p.1 with sym := p.2 })) x
          let s := s.modLaunch l fun v => { v with phase := .running }
          .next (((s.checkFinished v.ctx l).wakeSweep v.slot).nudge v.slot)

/-! ## Unparking and the tidy (R77, R80) -/

/-- The leftmost parked symbol of a row with its record's length. -/
def Ctx.leftmostParked (x : Ctx) : Option (Nat × Nat) :=
  match x.row.find? fun p => symKind p.2.sym = 9 && bit p.2.sym.toNat 48 with
  | none => none
  | some (p, q) => (x.parks.find? fun r => r.manager && r.addr = bits q.sym.toNat 47 0).map fun r => (p, r.bytes / 8 - 1)

/-- Plan an unpark: the takes and moves, and what begins when the wave has made room (R77). -/
def State.planUnpark (s : State) (v : RowView) : Option (List Take × List (Nat × Nat) × Move) :=
  if !(s.part v.slot).moves.isEmpty then none
  else
    match v.row.leftmostParked with
    | none => none
    | some (p, n) =>
      if v.row.emptySeats v.n < n - 1 + v.n / 8 || v.planned.contains p || (v.row.seat p).frozen then none
      else
        match s.takeSeats v [] p p (n - 1) with
        | none => none
        | some ts =>
          let moves := v.shifts ts
          if moves.any fun m => v.planned.contains m.1 || v.planned.contains m.2 then none
          else some (ts, moves, .unpark (shiftTo ts p) n)

/-- Whether the context may be tidied: its driver enables it, no copybook is open and nothing is parked (R80). -/
def State.mayTidy (s : State) (c : Nat) : Bool :=
  bit ((s.ctx c).blockWord 0) 34 && !s.anyOpen c && !(s.ctx c).row.any fun p => symKind p.2.sym = 9 && bit p.2.sym.toNat 48

/-- The leftmost tile symbol that tidy may bring under its seat: the seat and the handle (R80). -/
def State.tidyChoice (s : State) (v : RowView) (found : List Found) : Option (Nat × Nat) :=
  let row := v.row.row
  let handle (q : SeatState) : Nat := bits q.sym.toNat 19 0
  (row.find? fun p =>
    symKind p.2.sym = 6 && bits p.2.sym.toNat 19 7 ≠ p.1 && !bit p.2.sym.toNat 51 && !v.planned.contains p.1 &&
      (found.all fun f => f.blocked || p.1 < f.first || f.last < p.1) &&
      (row.filter fun o => symKind o.2.sym = 6 && handle o.2 = handle p.2).length = 1 && !p.2.frozen && p.2.busy.isNone &&
      (match s.committedTile v.ctx (handle p.2) with
        | some (_, _, h) => (freePlace (s.cellHeld v.ctx p.1) h.granules).isSome
        | none => false)).map fun p => (p.1, handle p.2)

/-! ## Closing gaps (R73) -/

/-- The closing moves of an innermost application with empty seats: its symbols go leftward until none is left. -/
def Ctx.closeGaps (x : Ctx) (f : Found) : List (Nat × Nat) :=
  let seats := (x.row.filter fun p => f.first ≤ p.1 && p.1 ≤ f.last && symKind p.2.sym ≠ 0).map (·.1)
  (seats.zipIdx.map fun p => (p.1, f.first + p.2)).filter fun m => m.1 ≠ m.2

/-- The closing moves of a planning step; an application with a seat that is planned with, reserved, frozen or committing is left to
the next (log 37). -/
def State.planClosing (s : State) (v : RowView) (found : List Found) : List (Nat × Nat) :=
  (found.filter fun f => f.gap && ((List.range (f.last + 1 - f.first)).all fun i =>
    let p := f.first + i
    !v.planned.contains p && !s.blocksScan v p && (v.row.seat p).reserved.isNone)).flatMap v.row.closeGaps

/-! ## The planning step (R67) -/

/-- The time of a wave (R71). -/
def State.waveTime (s : State) (slot : Nat) (moves : List (Nat × Nat)) : Nat :=
  let h := moves.foldl (fun h m => max h (s.treeLevel (s.devCell slot m.1) (s.devCell slot m.2))) 0
  twoWay h + (moves.length + 7) / 8

/-- The interval of discovery sweeps (02 R42). -/
def State.sweepInterval (s : State) (slot : Nat) : Nat := if s.isQuarter slot then 40 else 64

/-- One planning step for the running context, at the start of a sweep: growth, one placement, one unpark, one tidy move, and the
closing moves, in one wave; and the allowances of the requests that came before (R67; 10 R226). While a pre-emption drains the
context it serves only growth (23 R381; log 37). -/
def State.planStep (s : State) (slot c : Nat) (found : List Found) (draining : Bool) : State :=
  let n := (s.part slot).cellcount
  let fin := s.clk + s.sweepInterval slot
  let v : RowView := { ctx := c, slot, n, row := s.ctx c, planned := [] }
  let requests := s.growthRequests c
  let g := s.serveGrowth v requests [] []
  let moves := v.shifts g.1
  let v := v.plan g.1 moves
  let s := g.2.1.foldl (fun s r =>
    (s.modCtx c fun x => x.reserve r.1 (shiftTo g.1 r.2.openSeat + r.2.seglen) (r.2.total - r.2.seglen)).modSeg r.1
      fun x => { x with granted := true }) s
  let v : RowView := { v with row := s.ctx c }
  let p := match g.2.2 with | some (q, seg) => s.planPark v found q seg | none => (s, [])
  let s := p.1
  let v := (match p.2 with | [.park a b ..] => { v with planned := v.planned ++ (List.range (b + 1 - a)).map (a + ·) } | _ => v)
  let pl := if draining then (s, [], v) else s.planPlacement v fin
  let s := pl.1
  let v := pl.2.2
  let u : Option (List Take × List (Nat × Nat) × Move) := if requests.isEmpty && !draining then s.planUnpark v else none
  let s := match u with
    | some (_, _, Move.unpark at_ k) => s.modCtx c fun x => x.reserve 0 (at_ + 1) (k - 1)
    | _ => s
  let um := match u with | some (_, m, _) => m | none => []
  let v := match u with | some (ts, m, Move.unpark at_ k) => { v.plan ts m with planned := (v.plan ts m).planned ++ (List.range k).map (at_ + ·) } | _ => v
  let cm := if draining then [] else s.planClosing v found
  let all := moves ++ pl.2.1 ++ um ++ cm
  let quiet := requests.isEmpty && (s.part slot).placing.isEmpty && u.isNone && all.isEmpty && (s.part slot).moves.isEmpty
  let t := if quiet && !draining && s.mayTidy c then
      match s.tidyChoice v found with | some (seat, h) => [Move.tidy seat h] | none => []
    else []
  let due := (s.part slot).unfolds.filter fun f => f.2.2 < s.clk
  let begins := p.2 ++ (match u with | some (_, _, m) => [m] | none => []) ++ t
  if all.isEmpty && g.2.1.isEmpty && begins.isEmpty && due.isEmpty then s
  else
    let w : Wave := { moves := all, serves := g.2.1.map (·.1), started := false, duration := s.waveTime slot all, begins,
                      allow := due.map fun f => (f.1, f.2.1) }
    let s := s.modCtx c fun x => { x with roll := { x.roll with symbols := x.roll.symbols + all.length } }
    (s.modPart slot fun p => { p with wave := some w, unfolds := p.unfolds.filter fun f => !(f.2.2 < s.clk) }).scheduleFirst fin (.shiftWave slot)

/-! ## Waves (R70 to R72) -/

/-- The seats that a storage move freezes. -/
def Move.seats : Move → List Nat
  | .park a b _ _ => (List.range (b + 1 - a)).map (a + ·)
  | .unpark p n => (List.range n).map (p + ·)
  | .tidy p _ => [p]

/-- The time of a storage move: a record's write or read (R75, R77), or the copy of a tile over the corridors, as long as a remote
read of its granules (R80; 01 R30; log 37). -/
def State.moveTime (s : State) (slot c : Nat) : Move → Nat
  | .park a b _ _ => 400 + (((s.ctx c).symbolsIn a b).length + 7) / 8
  | .unpark _ n => 400 + (n + 7) / 8
  | .tidy p h =>
    match s.committedTile c h with
    | some (cell, _, v) => s.remoteLatency (s.devCell slot p) (s.devCell slot cell) + v.granules
    | none => 0

/-- The event that ends a storage move. -/
def Move.event (slot : Nat) : Move → Instr
  | .park .. => .parkWriteComplete slot
  | .unpark .. => .unparkComplete slot
  | .tidy .. => .tidyCopyComplete slot

/-- A storage move begins: its seats are frozen until it ends; a park takes its place in the park area. -/
def State.beginMove (s : State) (slot c : Nat) (m : Move) : State :=
  let x := s.ctx c
  let n := match m with | .park a b .. => (x.symbolsIn a b).length | .unpark _ n => n | .tidy .. => 0
  let s := s.modCtx c fun x =>
    let x := { x.freeze true m.seats with roll := { x.roll with symbols := x.roll.symbols + n } }
    match m with
    | .park a _ addr _ => { x with parks := x.parks ++ [{ addr, bytes := 8 * n + 8, staged := false, launch := (x.seat a).launch, seg := 0, manager := true }] }
    | _ => x
  (s.modPart slot fun p => { p with moves := p.moves ++ [m] }).schedule (s.clk + s.moveTime slot c m) (m.event slot)

/-- Whether a storage move begins only when the wave has made room for it. -/
def Move.afterWave : Move → Bool
  | .unpark .. => true
  | _ => false

/-- The storage moves that still begin: a pre-emption lets none begin but a park for a segment that runs on (23 R381). -/
def State.begun (s : State) (slot : Nat) (ms : List Move) : List Move :=
  ms.filter fun m => match m with
    | .park _ _ _ g => (lookupA s.segs g).isSome
    | _ => (s.part slot).preempt.isNone

/-- The seats reserved for an unpark. -/
def Ctx.unreserve (x : Ctx) : Ctx := x.mapSeats fun p => if p.reserved = some 0 then { p with reserved := none } else p

/-- Storage moves begin; the reservations of an unpark that does not are given up. -/
def State.beginMoves (s : State) (slot c : Nat) (ms : List Move) : State :=
  let now := s.begun slot ms
  let s := now.foldl (fun s m => s.beginMove slot c m) s
  if now.length = ms.length then s else s.modCtx c Ctx.unreserve

/-- SHIFT_WAVE (R70, R71; 10 R226): a planning step ends. The allowances reach their instances, parks and tidy copies begin, and the
wave starts and freezes its seats; segments that need no moves begin their commit step. -/
def execShiftWave (slot : Nat) (s : State) : Host.Outcome State Fault Refusal :=
  let p := s.part slot
  match p.wave, p.running with
  | some w, some c =>
    if w.started then .next s
    else
      let s := w.allow.foldl (fun s a =>
        match s.inst? a.1 with
        | some v => (match s.pendingInstr v with
          | some (.unfold f) => s.complete a.1 (.unfold f) fun r => r.setX f.d (BitVec.ofNat 64 a.2)
          | _ => s)
        | none => s) s
      let now := w.begins.filter fun m => w.moves.isEmpty || !m.afterWave
      let s := s.beginMoves slot c now
      if w.moves.isEmpty then
        let s := s.modPart slot fun p => { p with wave := none }
        .next ((w.serves.foldl (fun s g => s.beginCommit g) s).nudge slot)
      else
        let s := s.modCtx c fun x => x.freeze true (w.moves.flatMap fun m => [m.1, m.2])
        .next ((s.modPart slot fun p => { p with wave := some { w with started := true, begins := w.begins.filter fun m => m.afterWave } }).schedule
          (s.clk + w.duration) (.waveComplete slot))
  | _, _ => .next s

/-- Move seats: symbols with their launches and segments go from source to destination, as a whole (R69, R72). -/
def Ctx.applyMoves (x : Ctx) (moves : List (Nat × Nat)) : Ctx :=
  let old (p : Nat) : SeatState := x.seat p
  let cleared := moves.foldl (fun y m => y.setSeat m.1 { SeatState.free with reserved := (old m.1).reserved }) x
  moves.foldl (fun y m => y.setSeat m.2 { old m.1 with frozen := false, reserved := (old m.2).reserved }) cleared

/-- WAVE_COMPLETE (R70 to R72): the symbols are in their places and the seats unfrozen; segments that waited for the wave begin their
commit steps, the leftmost first, and an unpark begins to read. -/
def execWaveComplete (slot : Nat) (s : State) : Host.Outcome State Fault Refusal :=
  let p := s.part slot
  match p.wave, p.running with
  | some w, some c =>
    if !w.started then .next s
    else
      let s := s.modCtx c fun x => (x.applyMoves w.moves).freeze false (w.moves.flatMap fun m => [m.1, m.2])
      let follow (g : Nat × Segment) : Nat × Segment :=
        match w.moves.find? fun m => m.1 = g.2.openSeat with
        | some m => if g.2.ctx = c && g.2.phase ≠ SegPhase.tail then (g.1, { g.2 with openSeat := m.2 }) else g
        | none => g
      let s : State := { s with segs := s.segs.map follow }
      let s := s.modPart slot fun p => { p with wave := none }
      let s := s.beginMoves slot c w.begins
      let waiting := (s.segs.filter fun (g : Nat × Segment) => g.2.ctx = c && (g.2.phase = SegPhase.waitingWave || w.serves.contains g.1)).mergeSort
        fun (a b : Nat × Segment) => a.2.openSeat ≤ b.2.openSeat
      .next (((waiting.foldl (fun s g => s.beginCommit g.1) s).wakeSweep slot).nudge slot)
  | _, _ => .next s

/-! ## The ends of storage moves -/

/-- A storage move is over: its seats are no longer frozen. -/
def State.endMove (s : State) (slot c : Nat) (m : Move) : State :=
  let s := s.modCtx c fun x => x.freeze false m.seats
  ((s.modPart slot fun p => { p with moves := p.moves.filter (· ≠ m) }).wakeSweep slot).nudge slot

/-- Segments whose commit steps frozen seats have held begin them (R70). -/
def State.resumeCommits (s : State) (c : Nat) : State :=
  ((s.segs.filter fun g => g.2.ctx = c && g.2.phase = .waitingWave).mergeSort fun a b => a.2.openSeat ≤ b.2.openSeat).foldl
    (fun s g => s.beginCommit g.1) s

/-- PARK_WRITE_COMPLETE (R74 to R76): a park record is written, and one quoted symbol replaces the candidate. A write that cannot be
made is abandoned with a notice, and the request tries the next candidate. -/
def execParkWriteComplete (slot : Nat) (s : State) : Host.Outcome State Fault Refusal :=
  let p := s.part slot
  match p.running, p.moves.find? (fun m => match m with | .park .. => true | _ => false) with
  | some c, some (.park a b addr g) =>
    let m : Move := .park a b addr g
    let x := s.ctx c
    let ws := x.symbolsIn a b
    let q := x.seat a
    let drop (s : State) : State := (s.modCtx c fun x => { x with parks := x.parks.filter fun r => r.addr ≠ addr }).endMove slot c m
    if symKind q.sym ≠ 1 then .next (drop s)
    else if !farExists addr (8 * ws.length + 8) then
      let s := s.report c { Card.ofStatus stParkWrite 3 with openSeat := a, addr, launch := q.launch }
      .next (drop (s.modSeg g fun x => { x with parkTried := a :: x.parkTried }))
    else
      let l := symLevel q.sym
      let words := recordHeader ws.length l true :: ws.map fun w => setBits w 59 52 (symLevel w - l)
      let s := s.pokeFar addr (words.flatMap fun w => bytesOfWord 8 w.toNat)
      let s := s.endMove slot c m
      .next (s.modCtx c fun x =>
        (m.seats.foldl (fun x p => x.setSeat p SeatState.free) x).setSeat a
          { SeatState.free with sym := quotedWord addr l true, launch := q.launch })
  | _, _ => .next s

/-- UNPARK_COMPLETE (R76, R77; 06 R139; 24 R396): a record has been read back; its symbols stand in their seats, at the parked symbol's
level plus their own, and the record's granules are free. -/
def execUnparkComplete (slot : Nat) (s : State) : Host.Outcome State Fault Refusal :=
  let p := s.part slot
  match p.running, p.moves.find? (fun m => match m with | .unpark .. => true | _ => false) with
  | some c, some (.unpark a n) =>
    let m : Move := .unpark a n
    let q := (s.ctx c).seat a
    let addr := bits q.sym.toNat 47 0
    let s₁ := (s.endMove slot c m).modCtx c Ctx.unreserve
    let fail (status : Nat) : State :=
      (s₁.report c { Card.ofStatus status 1 with openSeat := a, addr, launch := q.launch }).endExpression q.launch status a
    if !(symKind q.sym = 9 && bit q.sym.toNat 48) then .next s₁
    else if !farExists addr (8 * n + 8) then .fault (.noSuchFarAddress addr)
    else if s.farPoisoned addr (8 * n + 8) then .next (fail stDataError)
    else
      let h := readNat s.mem addr 8
      let ws := readWords s.mem (addr + 8) n
      if bits h 39 1 ≠ 0 || ws.any (fun w => !symbolOk p.cellcount w) then .next (fail stMalformedExpr)
      else
        let s₁ := s₁.modCtx c fun x =>
          let x := ws.zipIdx.foldl (fun x w => x.setSeat (a + w.2) (if symKind w.1 = 0 then SeatState.free else
            { SeatState.free with sym := raiseLevel (symLevel q.sym) w.1, launch := q.launch })) x
          { x with parks := x.parks.filter fun r => r.addr ≠ addr }
        .next s₁
  | _, _ => .next s

/-- TIDY_COPY_COMPLETE (R80; 24 R396): the tile's copy lies under its symbol: the handle is rewritten and the old header freed in one
step. A copy that met an uncorrectable error is abandoned. -/
def execTidyCopyComplete (slot : Nat) (s : State) : Host.Outcome State Fault Refusal :=
  let p := s.part slot
  match p.running, p.moves.find? (fun m => match m with | .tidy .. => true | _ => false) with
  | some c, some (.tidy a old) =>
    let s := (s.endMove slot c (.tidy a old)).resumeCommits c
    let q := (s.ctx c).seat a
    match s.committedTile c old with
    | none => .next s
    | some (cell, idx, h) =>
      if symKind q.sym ≠ 6 || bits q.sym.toNat 19 0 ≠ old then .next s
      else if s.poisonedAt c cell h.base (h.base + h.count - 1) then .next (s.noticePoison c cell h.base (h.base + h.count - 1) q.launch)
      else
        match freePlace (s.cellHeld c a) h.granules with
        | none => .next s
        | some (i, b) =>
          let bs := readBytes s.scr (s.scrAddr c cell (h.base * 64)) (h.granules * 64)
          let prod := getD Producer.none (s.cell c cell).prods idx
          let s := s.modCell c a fun x => x.applyDelta c
            { HdrDelta.none i with alloc := some (newHeader h.ty h.rows h.cols b h.granules h.band), setDirty := h.dirty, producer := some prod }
          let s := s.pokeSide c a (b * 64) bs
          let s := s.modCell c cell fun x => x.applyDelta c { HdrDelta.none idx with freed := true }
          .next (s.modCtx c fun x => x.setSeat a { x.seat a with sym := setBits (x.seat a).sym 19 0 (handleOf a x.home i) })
  | _, _ => .next s

/-- UNFOLD_REQUEST_ARRIVAL (10 R226; R81): a request for an allowance reaches the partition root, which counts the row's empty seats;
the next planning step that begins later answers it. -/
def execUnfoldRequestArrival (id q a : Nat) (s : State) : Host.Outcome State Fault Refusal :=
  match s.inst? id with
  | none => .next s
  | some v =>
    let allow := s.allowance v.place.ctx q a
    .next ((s.modPart v.place.slot fun p => { p with unfolds := p.unfolds ++ [(id, allow, s.clk)] }).wakeSweep v.place.slot)

end Sys2Proof.Machine
end

