-- ==== Sys2Proof/Machine/Switch.lean ====
section
/-!
DEFINITION. Machine/Switch.lean: roll call, pre-emption, the switch of contexts, and the context commands (17 R329 to R331; 02
R59 to R61; 23 R379 to R384; 24 R393).
-/

namespace Sys2Proof.Machine

/-- pre-emption-timeout (24 R391). -/
def stPreemptTimeout : Nat := 0x50

/-! ## Which context runs (R379, R381) -/

/-- Whether of two contexts, each with its effective priority, the first is brought in before the second: the higher priority,
then one that is resident, then the one longer out of its turn, then the lower number. -/
def State.before (s : State) (a b : Nat × Nat) : Bool :=
  let key (x : Nat × Nat) : Nat × Nat × Nat × Nat := (x.1, if (s.ctx x.2).holds then 0 else 1, (s.ctx x.2).turnOut, x.2)
  let ka := key a
  let kb := key b
  ka.1 < kb.1 || (ka.1 = kb.1 && (ka.2.1 < kb.2.1 || (ka.2.1 = kb.2.1 && (ka.2.2.1 < kb.2.2.1 || (ka.2.2.1 = kb.2.2.1 && ka.2.2.2 < kb.2.2.2)))))

/-- The effective priority and the number of the context, other than one, that has work and would be brought in first. -/
def State.bestOther (s : State) (slot : Nat) (besides : Option Nat) : Option (Nat × Nat) :=
  let able := s.ctxs.filter fun x => x.2.slot = slot && (x.2.state = .resident || x.2.state = .evicted) && !x.2.suspended && !x.2.dying &&
    besides ≠ some x.1
  (able.filterMap fun x => (s.contextPriority slot x.1).map fun p => (p, x.1)).foldl
    (fun b x => match b with | none => some x | some y => if s.before x y then some x else b) none

/-- Whether the partition leaves its running context, and for which (R381): for a suspend, for one of higher effective priority, or at the
end of a 2 ms turn for the other resident one at equal priority. A context that is being destroyed runs until it is quiescent. -/
def State.switchWanted (s : State) (slot : Nat) : Option (Option Nat) :=
  let p := s.part slot
  match p.running with
  | none => (s.bestOther slot none).map fun b => some b.2
  | some c =>
    let x := s.ctx c
    let other := s.bestOther slot (some c)
    if x.dying then none
    else if x.suspended then some (other.map (·.2))
    else
      match other with
      | none => none
      | some (q, o) =>
        match (if x.state = .resident then s.contextPriority slot c else none) with
        | none => some (some o)
        | some mine =>
          if q < mine || (q = mine && (s.ctx o).holds && p.turnStart + 6600000 ≤ s.clk) then some (some o) else none

/-! ## Evicting and bringing in (R381, R382, R384) -/

/-- The base of a context's eviction area. -/
def Ctx.evictArea (x : Ctx) : Nat := x.blockWord 4 % 2 ^ 48

/-- The state of a cell that the area holds at stated places, by offset from its part, scratch aside: the headers, the accumulators, the
weight buffer and the counters. -/
def CellCtx.image (x : CellCtx) : Memory :=
  let m := x.hdrs.foldl (fun m h => writeWords m (40960 + 16 * h.1) [h.2.1, h.2.2]) []
  let m := x.acc.foldl (fun m a => writeNat m (42752 + 4 * a.1) 4 a.2.toNat) m
  let m := x.weights.foldl (fun m w => writeBytes m (46848 + 512 * w.1) (w.2.data.take 512)) m
  writeWords m 63744 (x.perf.toList.drop 2)

/-- The bytes of a part that no rule lays out: the producer words, the ring states and the weight entry states (log 3). -/
def freeImage (n : Nat) (m : Memory) : Memory :=
  let at_ (m : Memory) (k : Nat) : Memory := writeByte m k (Config.evictByte n k)
  (List.range 512).foldl (fun m k => at_ m (63232 + k)) ((List.range 768).foldl (fun m k => at_ m (41984 + k)) m)

/-- The bytes of a context's side, by offset in its eviction area. -/
def State.sideImage (s : State) (c cells : Nat) : Memory :=
  let base := s.scrAddr c 0 0
  s.scr.filterMap fun b =>
    let cell := (b.1 - base) / 131072
    let a := (b.1 - base) % 131072
    if base ≤ b.1 && cell < cells && a < 40960 then some (65536 * cell + a, b.2) else none

/-- The user queues behind the cells' parts (R384). -/
def Ctx.queueImage (x : Ctx) : Memory :=
  let m := writeWords [] 0 [BitVec.ofNat 64 x.queue6.length, BitVec.ofNat 64 x.queue7.length]
  writeWords (writeWords m 64 x.queue6.flatten) (64 + 32 * 64) x.queue7.flatten

/-- Write an image over the bytes of far memory that a test picks, from a base on. -/
def Memory.overlay (m : Memory) (base : Nat) (covers : Nat → Bool) (image : Memory) : Memory :=
  image.foldl (fun m b => writeByte m (base + b.1) b.2) (m.filter fun b => !(base ≤ b.1 && covers (b.1 - base)))

/-- The offsets of an eviction area that eviction writes. -/
def evictCovers (cells o : Nat) : Bool := if o < 65536 * cells then o % 65536 < 63808 else o < 65536 * cells + 4160

/-- Evict a context (R381, R384): its state goes to its eviction area with its poisoned granules (24 R395), its lesson buffers are empty,
and its side is free. -/
def State.evict (s : State) (c : Nat) : State :=
  let x := s.ctx c
  let cells := (s.part x.slot).cellcount
  let k := s.newFree
  let s := k.2
  let area := x.evictArea
  let image := (List.range cells).foldl (fun m cell =>
    (freeImage (k.1 + cell) (getD CellCtx.empty x.cells cell).image).foldl (fun m b => writeByte m (65536 * cell + b.1) b.2) m) (s.sideImage c cells)
  let image := x.queueImage.foldl (fun m b => writeByte m (65536 * cells + b.1) b.2) image
  let lines := (List.range cells).flatMap fun cell => (List.range 640).filterMap fun g =>
    if !s.poison.isEmpty && s.poison.contains (s.poisonKey c cell g) then some ((area + 65536 * cell) / 64 + g) else none
  let s := { s with
    fresh := s.fresh + cells
    mem := Memory.overlay s.mem area (evictCovers cells) image
    poison := (s.poison.filter fun l => !(area / 64 ≤ l && evictCovers cells (64 * l - area))) ++ lines }
  s.modCtx c fun x => { x with
    state := if x.state = .faulted then .faulted else .evicted, holds := false, saved := true, queue6 := [], queue7 := []
    cells := x.cells.map fun (k : Nat × CellCtx) => (k.1, { k.2 with
      buf0 := none, buf1 := none, cur := 0, latched := none, mx := [], mxFree := 0, banks := Vector.replicate 4 0 }) }

/-- Collect listed bytes into the words that they lie in. -/
def gather (m : Memory) : Assoc Nat :=
  m.foldl (fun w b => putA w (b.1 / 8) (getD 0 w (b.1 / 8) + b.2.toNat * 2 ^ (8 * (b.1 % 8)))) []

/-- A cell's state with a word of its part, by the word's offset in the part. -/
def CellCtx.restoreWord (x : CellCtx) (o w : Nat) : CellCtx :=
  let v : Word := BitVec.ofNat 64 w
  if 40960 ≤ o && o < 41984 then
    let i := (o - 40960) / 16
    let h := getD (0#64, 0#64) x.hdrs i
    { x with hdrs := setD (0#64, 0#64) x.hdrs i (if (o - 40960) % 16 = 0 then (v, h.2) else (h.1, v)) }
  else if 42752 ≤ o && o < 46848 then
    let i := (o - 42752) / 4
    { x with acc := setD 0#32 (setD 0#32 x.acc i (BitVec.ofNat 32 w)) (i + 1) (BitVec.ofNat 32 (w / 2 ^ 32)) }
  else if 63744 ≤ o && o < 63792 then
    { x with perf := x.perf.set ((o - 63744) / 8 % 6 + 2) v (by omega) }
  else x

/-- Read a context's state back from its eviction area into the side that it now holds (R381, R384). -/
def State.restore (s : State) (c : Nat) : State :=
  let x := s.ctx c
  let cells := (s.part x.slot).cellcount
  let area := x.evictArea
  let base := s.scrAddr c 0 0
  let bytes : Memory := s.mem.filterMap fun b => if area ≤ b.1 && evictCovers cells (b.1 - area) then some (b.1 - area, b.2) else none
  let side := bytes.filter fun b => b.1 < 65536 * cells && b.1 % 65536 < 40960
  let scr := (s.scr.filter fun b => !(base ≤ b.1 && b.1 < base + 131072 * cells && (b.1 - base) % 131072 < 40960))
  let scr := side.foldl (fun m b => writeByte m (base + b.1 / 65536 * 131072 + b.1 % 65536) b.2) scr
  let mine := (List.range cells).flatMap fun cell => (List.range 640).map fun g => s.poisonKey c cell g
  let poisoned := if s.poison.isEmpty then [] else (List.range cells).flatMap fun cell => (List.range 640).filterMap fun g =>
    if s.poison.contains ((area + 65536 * cell) / 64 + g) then some (s.poisonKey c cell g) else none
  let cleared : Assoc CellCtx := x.cells.map fun k => (k.1, { k.2 with
    hdrs := [], acc := [], perf := (k.2.perf.set 2 0#64).set 3 0#64 |>.set 4 0#64 |>.set 5 0#64 |>.set 6 0#64 |>.set 7 0#64
    weights := k.2.weights.map fun w => (w.1, { w.2 with
      data := readBytes s.mem (area + 65536 * k.1 + 46848 + 512 * w.1) w.2.data.length }) })
  let words := (gather (bytes.filter fun b => b.1 < 65536 * cells && 40960 ≤ b.1 % 65536)).foldl (fun (m : Assoc CellCtx) w =>
    let cell := 8 * w.1 / 65536
    putA m cell ((getD CellCtx.empty m cell).restoreWord (8 * w.1 % 65536) w.2)) cleared
  let q := area + 65536 * cells
  let records (at_ n : Nat) : List (List Word) := (List.range (min 32 n)).map fun i => readWords s.mem (at_ + 64 * i) 8
  let s := { s with
    scr
    poison := if s.poison.isEmpty then s.poison else (s.poison.filter fun k => !mine.contains k) ++ poisoned }
  s.modCtx c fun x => { x with
    cells := words, queue6 := records (q + 64) (readNat s.mem q 8), queue7 := records (q + 64 + 2048) (readNat s.mem (q + 8) 8) }

/-- The lowest side of a partition's cells that no context holds: 0 chalk, 1 ink (R382). -/
def State.freeSide (s : State) (slot : Nat) : Option Nat :=
  [0, 1].find? fun k => s.ctxs.all fun x => !(x.2.slot = slot && x.2.holds && x.2.side = k)

/-- Poison on the parts of an eviction area that hold no scratch: reading it back faults the context (24 R395). -/
def State.areaPoisoned (s : State) (c : Nat) : Bool :=
  let area := (s.ctx c).evictArea
  let cells := (s.part (s.ctx c).slot).cellcount
  s.poison.any fun l => l < 2 ^ 50 && area / 64 ≤ l && evictCovers cells (64 * l - area) &&
    !(64 * l - area < 65536 * cells && (64 * l - area) % 65536 < 40960)

/-- A context begins its turn (R380 to R382): it is brought in where it holds no side, its block is read again, sends that have become
due fire, and collectives that paused go on (21 R364). -/
def State.enter (s : State) (slot c : Nat) : State :=
  let x := s.ctx c
  let bad := !x.holds && x.saved && s.areaPoisoned c
  let s := if x.holds then s
    else
      let s := s.modCtx c fun x => { x with holds := true, side := (s.freeSide slot).getD 0 }
      if x.saved then s.restore c else s
  let s := s.modCtx c fun x => { x with state := .resident, saved := false, block := readWords s.mem (x.blockAddr.toNat % 2 ^ 48) 24 }
  let s := s.modPart slot fun p => { p with running := some c, turnStart := s.clk, found := [] }
  let s := (s.schedule (s.clk + 6600000) (.turnExpiry slot)).fireSends c
  let s := (s.colls.filter fun k => k.2.ctx = c && !k.2.stepping).foldl (fun s k => s.startStep k.1 k.2) s
  let s := if bad then (s.report c (Card.ofStatus stDataError 2)).faultContext c else s
  s.wakeSweep slot

/-- The resident context that gives up its side for another (R381): the one of lower effective priority, or the one longer out of its turn;
none while a side is free. -/
def State.victim (s : State) (slot : Nat) : Option Nat :=
  let held := (s.ctxs.filter fun x => x.2.slot = slot && x.2.holds).map (·.1)
  let out (c : Nat) : Nat := if (s.part slot).running = some c then s.clk + 1 else (s.ctx c).turnOut
  let prio (c : Nat) : Nat := (if (s.ctx c).state = .resident then s.contextPriority slot c else none).getD 4
  match held with
  | a :: b :: _ => some (if prio a < prio b || (prio a = prio b && out b < out a) then b else a)
  | _ => none

/-- The time of a full exchange by grade (R381). -/
def State.exchangeTime (s : State) : Nat := if s.dev.lx36 then 153997 else 175054

/-! ## Quiescence (17 R329 to R331) -/

/-- Whether nothing of a context is under way in its partition: the counters' pairs are equal (R329). A collective that has paused
counts in none. -/
def State.rollClean (s : State) (slot c : Nat) : Bool :=
  let p := s.part slot
  let paused (g : Nat) : Bool := s.colls.any fun k => k.2.seg = g && !k.2.stepping
  (s.launches.all fun l => l.2.ctx ≠ c || l.2.phase ≠ .placed) && (p.running ≠ some c || (p.wave.isNone && p.moves.isEmpty)) &&
    (s.insts.all fun i => i.2.place.ctx ≠ c || paused i.2.place.seg) && (s.commands.all fun k => k.2.ctx ≠ c) &&
    (s.farWrites.all fun w => w.2.ctx ≠ c) && (s.syncOps.all fun o => o.2.ctx ≠ c) && (s.queueOps.all fun o => o.2.ctx ≠ c)

/-- Contexts of a partition on whose quiescence a party waits (R330; 23 R380, R381): one that is destroyed, whose counters are reset,
or that is suspended while another runs; and the running one at step 6 of a pre-emption. -/
def State.callers (s : State) (slot : Nat) : List Nat :=
  let p := s.part slot
  let six := match p.preempt with | some (6, _) => true | _ => false
  (s.ctxs.filter fun x => x.2.slot = slot && x.2.state ≠ .absent &&
    (x.2.dying || x.2.resetting || (x.2.suspended && x.2.holds && p.running ≠ some x.1 && p.leaving ≠ some x.1) || (six && p.running = some x.1))).map (·.1)

/-- The time of a roll-call wave (R330). -/
def State.rollTime (s : State) (slot : Nat) : Nat := if s.isQuarter slot then 20 else 32

/-- Waves run back to back while any party waits. -/
def State.startWave (s : State) (slot : Nat) : State :=
  if (s.callers slot).isEmpty || (s.part slot).rollCall.isSome then s
  else
    let at_ := s.clk + s.rollTime slot
    (s.modPart slot fun p => { p with rollCall := some at_ }).schedule at_ (.rollCallWave slot)

/-- Step 7 of a pre-emption: the switch, with an eviction where one is needed (R381). A context that is to give up its side must be
quiescent as well. -/
def State.beginSwitch (s : State) (slot c began : Nat) : State :=
  let p := s.part slot
  let susp := (s.ctx c).suspended
  let bring := match p.incoming with | some n => !(s.ctx n).holds | none => false
  let leaving := if susp then some c else if bring then s.victim slot else none
  let ok := match leaving with | some v => v = c || s.rollClean slot v | none => true
  if !ok then s
  else
    let time := if susp || bring then s.exchangeTime else 6600
    (s.modPart slot fun p => { p with preempt := some (7, began), leaving }).schedule (s.clk + time) (.contextSwitchComplete slot)

/-- A context that holds its passes gives them up with the faulted flag (23 R380; 24 R393; 12 R267). -/
def State.freePasses (s : State) (slot c : Nat) : State :=
  (((s.part slot).passes.filter fun p => p.2.holder = some c).map (·.1)).foldl (fun s p =>
    (s.modPass slot p fun q => { q with faulted := true, pending := some 0 }).handPass c p) s

/-- The end of a destroy (R380): the context is quiescent. Its armed sends are cancelled, its passes freed with the faulted flag, its
started launches end with context-faulted, and it is absent; its registers stay. -/
def State.finishDestroy (s : State) (slot c : Nat) : State :=
  let s := ((s.segs.filter fun g => g.2.ctx = c).map (·.1)).foldl State.discard s
  let s := s.freePasses slot c
  let live := s.launches.filter fun l => l.2.ctx = c && l.2.phase ≠ .retired && !l.2.unstarted
  let s := live.foldl (fun s l => s.endExpression l.1 stContextFaulted 0xFFFF) s
  let s := s.modPart slot fun p =>
    if p.running = some c then
      { p with running := none, preempt := none, incoming := none, found := [], wave := none, moves := [] } else p
  let s := s.modCtx c fun x => { Ctx.absentCtx with blockAddr := x.blockAddr, cmdStatus := x.cmdStatus }
  let s := [0, 1, 2, 3].foldl (fun s q => s.schedule s.clk (.recordAtHead slot q)) s
  s.schedule s.clk (.preemptDecision slot)

/-- A report of quiescence reaches whoever waits for it (R331). -/
def State.quiescent (s : State) (slot c : Nat) : State :=
  let p := s.part slot
  let s := if (s.ctx c).resetting then s.modCtx c fun x => { x with counters := [], resetting := false } else s
  if (s.ctx c).dying then s.finishDestroy slot c
  else
    match p.preempt with
    | some (6, began) => if p.running = some c then s.beginSwitch slot c began else s
    | some _ => s
    | none =>
      if (s.ctx c).suspended && (s.ctx c).holds && p.running ≠ some c && p.leaving.isNone then
        (s.modPart slot fun p => { p with leaving := some c }).schedule (s.clk + s.exchangeTime) (.contextSwitchComplete slot)
      else s

/-- A wave's totals for a context: two clean waves in a row with equal totals report quiescence (R330). -/
def State.sampleRoll (s : State) (slot c : Nat) : State :=
  let x := s.ctx c
  let clean := s.rollClean slot c
  if clean && x.lastWave = some x.roll then (s.modCtx c fun x => { x with lastWave := none }).quiescent slot c
  else s.modCtx c fun x => { x with lastWave := if clean then some x.roll else none }

/-- Steps 3 to 5 of a pre-emption are over: every segment that ran on is done, no wave or storage move is under way, and a collective has
paused (R381). -/
def State.drained (s : State) (slot c : Nat) : Bool :=
  let p := s.part slot
  p.wave.isNone && p.moves.isEmpty &&
    s.segs.all fun g => g.2.ctx ≠ c || s.colls.any fun k => k.2.seg = g.1 && !k.2.stepping

/-- ROLL_CALL_WAVE (R330, R331; 23 R381): the partition looks whether a pre-emption may go on to roll call, and a wave that is under way
ends: its totals are compared. -/
def execRollCallWave (slot : Nat) (s : State) : Host.Outcome State Fault Refusal :=
  let p := s.part slot
  let s := match p.preempt, p.running with
    | some (3, began), some c => if s.drained slot c then s.modPart slot fun p => { p with preempt := some (6, began) } else s
    | _, _ => s
  match (s.part slot).rollCall with
  | none => .next (s.startWave slot)
  | some e =>
    if s.clk < e then .next s
    else
      let s := s.modPart slot fun p => { p with rollCall := none }
      .next (((s.callers slot).foldl (fun s c => s.sampleRoll slot c) s).startWave slot)

/-! ## Pre-emption (R381) -/

/-- Segments that a pre-emption discards at step 2: uncommitted, unengaged, without a queue push on its way and without a collective (02
R61; 21 R364; 25 R401). -/
def State.preemptVictims (s : State) (c : Nat) : List Nat :=
  let pushing (g : Nat) : Bool := s.queueOps.any fun o => o.2.push && (match s.inst? o.2.inst with | some v => v.place.seg = g | none => false)
  (s.segs.filter fun g => g.2.ctx = c && !g.2.engaged && g.2.phase ≠ .committing && g.2.phase ≠ .tail && !pushing g.1 &&
    !s.colls.any fun k => k.2.seg = g.1).map (·.1)

/-- PREEMPT_DECISION (R381): steps 1 and 2, or, where nothing runs, a context begins its turn or is brought in. -/
def execPreemptDecision (slot : Nat) (s : State) : Host.Outcome State Fault Refusal :=
  let p := s.part slot
  if p.preempt.isSome || p.leaving.isSome || s.dev.power ≠ .active then .next s
  else
    match s.switchWanted slot, p.running with
    | some inc, some c =>
      let s := s.modPart slot fun p => { p with preempt := some (3, s.clk), incoming := inc, found := [] }
      let s := (s.preemptVictims c).foldl State.discard s
      .next (((s.schedule s.clk (.rollCallWave slot)).schedule (s.clk + 3300000) (.preemptionTimeout slot s.clk)).wakeSweep slot)
    | some (some n), none =>
      if (s.ctx n).holds then .next (s.enter slot n)
      else
        let leaving := s.victim slot
        if (match leaving with | some v => s.rollClean slot v | none => true) then
          .next ((s.modPart slot fun p => { p with preempt := some (7, s.clk), incoming := some n, leaving }).schedule (s.clk + s.exchangeTime)
            (.contextSwitchComplete slot))
        else .next (s.schedule (s.clk + s.rollTime slot) (.preemptDecision slot))
    | _, _ => .next s

/-- TURN_EXPIRY (R381): 2 ms of a turn are over: the partition looks whether another context is due. -/
def execTurnExpiry (slot : Nat) (s : State) : Host.Outcome State Fault Refusal :=
  let p := s.part slot
  if p.turnStart + 6600000 ≤ s.clk then execPreemptDecision slot s else .next s

/-- PREEMPTION_TIMEOUT (02 R60; 24 R392, R393): what has not reached `done` 1 ms after a pre-emption began is dropped; its launches end with
pre-emption-timeout and the context faults. Engaged effects stand. -/
def execPreemptionTimeout (slot began : Nat) (s : State) : Host.Outcome State Fault Refusal :=
  let p := s.part slot
  match p.running with
  | none => .next s
  | some c =>
    if p.preempt ≠ some (3, began) then .next s
    else
      let late := s.segs.filter fun g => g.2.ctx = c && !s.colls.any fun k => k.2.seg = g.1
      if late.isEmpty then .next s
      else
        let s := late.foldl (fun s g =>
          (s.report c { Card.ofStatus stPreemptTimeout 1 with opnum := g.2.opnum, openSeat := g.2.openSeat, launch := g.2.launch }).endExpression
            g.2.launch stPreemptTimeout g.2.openSeat) s
        let s := late.foldl (fun s g =>
          (if g.2.phase = .committing || g.2.phase = .tail then s else s.handReleases c g.2.releases).discard g.1) s
        .next (((s.report c (Card.ofStatus stContextFaulted 2)).faultContext c).schedule s.clk (.rollCallWave slot))

/-- CONTEXT_SWITCH_COMPLETE (R381, R382, R384): the exchange ends. A context that leaves is in its eviction area, and the incoming one
begins its turn. -/
def execContextSwitchComplete (slot : Nat) (s : State) : Host.Outcome State Fault Refusal :=
  let p := s.part slot
  let s := match p.leaving with | some v => if (s.ctx v).holds then s.evict v else s | none => s
  let s := s.modPart slot fun p => { p with leaving := none }
  match p.preempt with
  | some (7, _) =>
    let s := match p.running with | some c => s.modCtx c fun x => { x with turnOut := s.clk } | none => s
    let s := s.modPart slot fun p => { p with preempt := none, incoming := none, running := none, sweeping := false }
    match p.incoming with
    | some n =>
      let x := s.ctx n
      if (x.state = .resident || x.state = .evicted) && !x.suspended && !x.dying then .next (s.enter slot n)
      else .next (s.schedule s.clk (.preemptDecision slot))
    | none => .next (s.schedule s.clk (.preemptDecision slot))
  | _ => .next (s.schedule s.clk (.preemptDecision slot))

/-! ## Context commands (R373, R380) -/

/-- The command status of a command (R373). -/
def State.commandDone (s : State) (c code : Nat) (refused : Bool) : State :=
  s.modCtx c fun x => { x with cmdStatus := BitVec.ofNat 64 (code + (if refused then 16 else 0)) }

/-- Whether a context block keeps R380: its reserved bits, a partition of the layout, a park area, peer windows in HBM or the locker. -/
def State.blockOk (s : State) (b : List Word) : Bool :=
  let w (i : Nat) : Nat := (b.getD i 0#64).toNat
  bits (w 0) 27 0 = 0 && (lookupA s.parts (bits (w 0) 29 28)).isSome && bits (w 2) 63 48 ≠ 0 &&
    ((List.range 8).all fun i => bits (w (10 + i)) 63 48 = 0 || bits (w (10 + i)) 47 46 < 2) && ((List.range 6).all fun i => w (18 + i) = 0) &&
    ([1, 3, 4, 5, 6, 7, 8, 9].all fun i => bits (w i) 63 48 = 0)

/-- CREATE (R380, R382; 26 R408; 27 R417): a context comes to be from its block, resident in a free side, or evicted. -/
def execCreate (c : Nat) (s : State) : Host.Outcome State Fault Refusal :=
  let x := s.ctx c
  let a := x.blockAddr.toNat % 2 ^ 48
  let refuse : Host.Outcome State Fault Refusal := .next (s.commandDone c 1 true)
  if x.state ≠ .absent || s.dev.boot ≠ .firmware || s.dev.lifecycle = .blank || !s.dev.choice || 256 ≤ c then refuse
  else if !farExists a 192 then .fault (.noSuchFarAddress a)
  else
    let block := readWords s.mem a 24
    if !s.blockOk block then refuse
    else
      let slot := bits (block.getD 0 0#64).toNat 29 28
      let side := s.freeSide slot
      .next ((s.setCtx c { Ctx.absentCtx with
        blockAddr := x.blockAddr, state := if side.isSome then .resident else .evicted, slot, block, home := side.getD 0, side := side.getD 0
        holds := side.isSome }).commandDone c 1 false)

/-- DESTROY (R380; 24 R393): nothing new starts, and the context goes when it is quiescent. -/
def execDestroy (c : Nat) (s : State) : Host.Outcome State Fault Refusal :=
  let x := s.ctx c
  if x.state = .absent then .next (s.commandDone c 2 true)
  else .next (((s.commandDone c 2 false).modCtx c fun x => { x with dying := true }).schedule s.clk (.rollCallWave x.slot))

/-- RESET_COUNTERS (R380): c0 to c63 are 0 after quiescence. -/
def execResetCounters (c : Nat) (s : State) : Host.Outcome State Fault Refusal :=
  let x := s.ctx c
  if x.state = .absent then .next (s.commandDone c 3 true)
  else .next (((s.commandDone c 3 false).modCtx c fun x => { x with resetting := true }).schedule s.clk (.rollCallWave x.slot))

/-- CANCEL_SENDS (R380; 11 R256; 24 R389): every armed send that has not fired is cancelled. -/
def execCancelSends (c : Nat) (s : State) : Host.Outcome State Fault Refusal :=
  if (s.ctx c).state = .absent then .next (s.commandDone c 4 true)
  else
    let s := (s.commandDone c 4 false).modCtx c fun x => { x with armed := [], reserved := x.reserved - x.armed.length }
    .next (s.retrySetups c)

/-- SUSPEND (R380, R381): the context is pre-empted, and stays evicted. -/
def execSuspend (c : Nat) (s : State) : Host.Outcome State Fault Refusal :=
  let x := s.ctx c
  if x.state = .absent then .next (s.commandDone c 5 true)
  else
    let s := (s.commandDone c 5 false).modCtx c fun x => { x with suspended := true }
    .next ((s.schedule s.clk (.preemptDecision x.slot)).schedule s.clk (.rollCallWave x.slot))

/-- RESUME (R380): the scheduler may bring the context back. -/
def execResume (c : Nat) (s : State) : Host.Outcome State Fault Refusal :=
  let x := s.ctx c
  if x.state = .absent then .next (s.commandDone c 6 true)
  else .next (((s.commandDone c 6 false).modCtx c fun x => { x with suspended := false }).schedule s.clk (.preemptDecision x.slot))

/-- CONTEXT_BLOCK_ADDRESS_WRITE (R373): takes effect only while the context does not exist. -/
def execContextBlockAddressWrite (c : Nat) (value : Word) (s : State) : Host.Outcome State Fault Refusal :=
  if (s.ctx c).state = .absent && c < 256 then .next (s.modCtx c fun x => { x with blockAddr := value &&& 0xFFFFFFFFFFFF#64 }) else .next s

end Sys2Proof.Machine
end

