-- ==== Sys2Proof/Machine/Device.lean ====
section
/-!
DEFINITION. Machine/Device.lean: boot, identity, lifecycle, power, partitions, formats, links and telemetry (26 R403 to R412; 27 R413 to
R419).
-/

namespace Sys2Proof.Machine

/-- Change the device. -/
def State.modDev (s : State) (f : Device → Device) : State := { s with dev := f s.dev }

/-- Whether any context exists. -/
def State.anyContext (s : State) : Bool := s.ctxs.any fun x => x.2.state ≠ .absent

/-! ## Partitions (27 R413, R414) -/

/-- The slots of a layout, and the quarters of each. -/
def layoutSlots (layout : Nat) : List Nat × Nat :=
  match layout with
  | 0 => ([0], 4)
  | 1 => ([0, 2], 2)
  | _ => ([0, 1, 2, 3], 1)

/-- The events of a partition that its reset withdraws. -/
def ofSlot (slot : Nat) : Instr → Bool
  | .discoverySweep p | .shiftWave p | .waveComplete p | .rollCallWave p | .preemptDecision p | .turnExpiry p | .idleGateEntry p
  | .contextSwitchComplete p | .preemptionTimeout p _ | .recordAtHead p _ => p = slot
  | _ => false

/-- Reset one partition (R414): queues, positions, the clk count, levels, spill registers, drop counts and limiters. -/
def State.resetPartition (s : State) (slot quarters : Nat) : State :=
  let zero (v : Vector Nat 8) : Vector Nat 8 :=
    (v.set (slot * 2 % 8) 0 (Nat.mod_lt _ (by decide))).set ((slot * 2 + 1) % 8) 0 (Nat.mod_lt _ (by decide))
  let s := s.unschedule (ofSlot slot)
  let s := { s with
    parts := putA s.parts slot (Part.empty (quarters * s.perQuarter) s.clk)
    launches := s.launches.filter fun l => l.2.slot ≠ slot
    dev := { s.dev with virtualDrops := zero s.dev.virtualDrops } }
  (List.range quarters).foldl (fun s q => (s.unschedule (· = Instr.limiterStep (slot + q))).modLimiter (slot + q) fun l =>
    { l with ceiling := 0, admitted := [], waiting := [], stepping := false, fillers := 0 }) s

/-- Reset every partition of the layout. -/
def State.resetPartitions (s : State) : State :=
  let l := layoutSlots s.dev.layout
  l.1.foldl (fun s slot => (s.resetPartition slot l.2).schedule (s.clk + 330000) (.idleGateEntry slot)) { s with parts := [], launches := [] }

/-- PARTITION_LAYOUT_WRITE (R413): a new layout resets every partition; 3 is refused, and any write while a context exists. -/
def execPartitionLayoutWrite (value : Word) (s : State) : Host.Outcome State Fault Refusal :=
  let v := bits value.toNat 1 0
  if v = 3 || s.anyContext then .next s
  else .next ((s.modDev fun d => { d with layout := v }).resetPartitions)

/-- PARTITION_RESET_WRITE (R414): resets the partition of a slot that no existing context has. -/
def execPartitionResetWrite (value : Word) (s : State) : Host.Outcome State Fault Refusal :=
  let slot := value.toNat
  if (lookupA s.parts slot).isNone || s.ctxs.any (fun x => x.2.state ≠ .absent && x.2.slot = slot) then .next s
  else .next ((s.resetPartition slot (layoutSlots s.dev.layout).2).schedule (s.clk + 330000) (.idleGateEntry slot))

/-! ## Boot (26 R403 to R406, R408) -/

/-- The first check of R405 that an image fails, 0 when it passes all. -/
def Device.imageCause (d : Device) (m : Memory) : Nat :=
  let w (i : Nat) : Nat := readNat m (8 * i) 8
  let n := bits (w 1) 31 0
  if bits (w 0) 63 32 ≠ 0x4C584657 || bits (w 1) 63 32 ≠ 0 || n % 64 ≠ 0 || 16776704 < n || (List.range 44).any (fun i => w (8 + i) ≠ 0) then 1
  else if sha384 (readBytes m 512 n) ≠ readBytes m 16 48 then 2
  else if !Config.signatureGood (readBytes m 0 416 ++ readBytes m 512 n) (readBytes m 416 96) then 3
  else if bits (w 0) 15 0 < d.rollback then 4
  else 0

/-- Whether a debug level needs a token that verifies (R408). -/
def tokenNeeded : Lifecycle → DebugLevel → Bool
  | .blank, _ | .returned, _ | _, .none => false
  | .provisioned, .observe => false
  | _, _ => true

/-- Memory without HBM and the locker (R408). -/
def clearDeviceMemory (m : Memory) : Memory := m.filter fun b => spaceOf b.1 = 2

/-- The TDP of a module by grade, in watts (R403). -/
def Device.tdp (d : Device) : Nat := if d.lx36 then 2550 else 2800

/-- Firmware begins to run (R405, R406, R408, R410, R411; 27 R414, R419): the debug level is fixed, every partition is reset, the cap holds
its default, and the periodic work of firmware begins. -/
def State.startFirmware (s : State) (m : Memory) : State :=
  let w (i : Nat) : Nat := readNat m (8 * i) 8
  let level := s.dev.token.getD .none
  let s := if s.dev.lifecycle = .deployed && level = .intrusive then { s with mem := clearDeviceMemory s.mem } else s
  let s := s.modDev fun d => { d with
    boot := .firmware, verifyCause := 0, debug := level, token := none, hif := bits (w 0) 31 16, svn := bits (w 0) 15 0
    digest := readBytes m 16 48, firmwareSince := s.clk, cap := if d.isModule then BitVec.ofNat 64 d.tdp else 0#64, chosen := 0#64, choice := false
    live := Telemetry.zero, shown := Telemetry.zero }
  let s := { s with limiters := Vector.replicate 4 { Limiter.reset with unitLimit := s.perQuarter } }
  let s := s.resetPartitions
  ((s.schedule (s.clk + 3300000) .capControl).schedule (s.clk + 3300000) .telemetryRefresh).schedule (s.clk + 198000000000) .rollbackRaise

/-- The ROM checks an image: firmware begins to run, or the ROM waits for the host with the cause (R405). -/
def State.bootFrom (s : State) (m : Memory) : State :=
  match s.dev.imageCause m with
  | 0 => s.startFirmware m
  | k => s.modDev fun d => { d with boot := .waitingImage, verifyCause := k }

/-- POWER_ON_BOOT (R405): the ROM reads the flash slot. -/
def execPowerOnBoot (s : State) : Host.Outcome State Fault Refusal := .next (s.bootFrom s.dev.flash)

/-- VERIFY_IMAGE (R405): boot command 1 checks the image buffer while the ROM waits for an image. -/
def execVerifyImage (s : State) : Host.Outcome State Fault Refusal :=
  if s.dev.boot = .waitingImage then .next (s.bootFrom s.dev.imageBuffer) else .next s

/-- WRITE_FLASH (R405): boot command 2 writes the image buffer to the flash slot; refused while the lifecycle is deployed and any context
exists. -/
def execWriteFlash (s : State) : Host.Outcome State Fault Refusal :=
  if s.dev.lifecycle = .deployed && s.anyContext then .next s
  else
    let n := min s.dev.imageLength.toNat 16777216
    .next (s.modDev fun d => { d with flash := d.imageBuffer.filter fun b => b.1 < n, flashLength := n })

/-- PRESENT_DEBUG_TOKEN (R408): boot command 3, before an image is checked; the level of a token that does not verify where it must is
not granted. What the token names and whether it verifies is a free value (log 3). -/
def execPresentDebugToken (s : State) : Host.Outcome State Fault Refusal :=
  if s.dev.boot ≠ .rom && s.dev.boot ≠ .waitingImage then .next s
  else
    let k := s.newFree
    let t := Config.token k.1
    let level : DebugLevel := if t.1 = 1 then .observe else if t.1 = 2 then .intrusive else .none
    .next (k.2.modDev fun d => { d with token := if tokenNeeded d.lifecycle level && !t.2 then d.token else some level })

/-- ROLLBACK_RAISE (R406): after 60 s of the firmware that runs. -/
def execRollbackRaise (s : State) : Host.Outcome State Fault Refusal :=
  if s.dev.boot = .firmware && s.dev.firmwareSince + 198000000000 ≤ s.clk then
    .next (s.modDev fun d => { d with rollback := max d.rollback d.svn })
  else .next s

/-! ## Identity and attestation (R407, R408) -/

/-- Whether the device attests: it has a key that its lifecycle has not disabled (R408). -/
def Device.attests (d : Device) : Bool := d.identityKey && (d.lifecycle = .provisioned || d.lifecycle = .deployed)

/-- The responder's answer. -/
def State.answer (s : State) (a : SpdmAnswer) : Host.Outcome State Fault Refusal := .next (s.modDev fun d => { d with answer := a })

/-- An answer that rests on the identity key. -/
def State.attest (s : State) (a : SpdmAnswer) : Host.Outcome State Fault Refusal := s.answer (if s.dev.attests then a else .refused)

/-- Bits [15:0] of the boot status register (R403). -/
def Device.statusBits (d : Device) : Nat :=
  let boot := match d.boot with | .rom => 0 | .waitingImage => 1 | .verifying => 2 | .firmware => 3 | .halted => 4
  let life := match d.lifecycle with | .blank => 0 | .provisioned => 1 | .deployed => 2 | .returned => 3
  let debug := match d.debug with | .none => 0 | .observe => 1 | .intrusive => 2
  let power := match d.power with | .active => 0 | .retention => 2 | .off => 3
  boot + life * 16 + debug * 256 + power * 4096

/-- The three measurement blocks (R407): the ROM's SHA-384, the image's digest and svn, and the status word with the rollback counter above
bit 16 (log 46). -/
def Device.measurements (d : Device) : List (List Byte) :=
  [Config.identityBytes 0 0, d.digest ++ bytesOfWord 2 d.svn, bytesOfWord 8 (d.statusBits + d.rollback % 2 ^ 48 * 2 ^ 16)]

/-- GET_VERSION (R407): SPDM 1.3. -/
def execGetVersion (s : State) : Host.Outcome State Fault Refusal := s.answer (.version 0x13)

/-- GET_CAPABILITIES (R407). -/
def execGetCapabilities (s : State) : Host.Outcome State Fault Refusal := s.answer .capabilities

/-- NEGOTIATE_ALGORITHMS (R407): ECDSA with brainpoolP384r1 and SHA-384 only. -/
def execNegotiateAlgorithms (s : State) : Host.Outcome State Fault Refusal := s.answer .algorithms

/-- GET_DIGESTS (R407). -/
def execGetDigests (s : State) : Host.Outcome State Fault Refusal := s.attest (.digests (Config.identityBytes 1 0))

/-- GET_CERTIFICATE (R407). -/
def execGetCertificate (s : State) : Host.Outcome State Fault Refusal := s.attest (.certificate (Config.identityBytes 2 0))

/-- CHALLENGE (R407): an answer signed with the identity key. -/
def execChallenge (s : State) : Host.Outcome State Fault Refusal :=
  (s.modDev fun d => { d with nonce := d.nonce + 1 }).attest (.signed s.dev.nonce s.dev.measurements (Config.identityBytes 3 s.dev.nonce))

/-- GET_MEASUREMENTS (R407). -/
def execGetMeasurements (s : State) : Host.Outcome State Fault Refusal :=
  (s.modDev fun d => { d with nonce := d.nonce + 1 }).attest (.signed s.dev.nonce s.dev.measurements (Config.identityBytes 4 s.dev.nonce))

/-- KEY_EXCHANGE (R407) is refused. -/
def execKeyExchange (s : State) : Host.Outcome State Fault Refusal := s.answer .refused

/-- IDENTITY_KEY_CREATE (R407, R408): blank to provisioned. -/
def execIdentityKeyCreate (s : State) : Host.Outcome State Fault Refusal :=
  if s.dev.lifecycle = .blank then .next (s.modDev fun d => { d with lifecycle := .provisioned, identityKey := true }) else .next s

/-- DEPLOY_FUSE_WRITE (R408): provisioned to deployed. -/
def execDeployFuseWrite (s : State) : Host.Outcome State Fault Refusal :=
  if s.dev.lifecycle = .provisioned then .next (s.modDev fun d => { d with lifecycle := .deployed }) else .next s

/-- RETURN_TOKEN (R408): a token that the firmware key has signed moves deployed to returned and clears HBM and the locker. -/
def execReturnToken (s : State) : Host.Outcome State Fault Refusal :=
  let k := s.newFree
  if s.dev.lifecycle = .deployed && (Config.token k.1).2 then
    .next ({ k.2 with mem := clearDeviceMemory s.mem }.modDev fun d => { d with lifecycle := .returned })
  else .next k.2

/-! ## Power (R409 to R411) -/

/-- IDLE_GATE_ENTRY (R409): a partition that has been idle for 100 µs is gated. -/
def execIdleGateEntry (slot : Nat) (s : State) : Host.Outcome State Fault Refusal :=
  let p := s.part slot
  match p.idleSince with
  | some t =>
    if t + 330000 ≤ s.clk && !p.sweeping && s.dev.power = .active then .next (s.modPart slot fun p => { p with gated := true }) else .next s
  | none => .next s

/-- POWER_ACTIVE (R409): from retention, work goes on 20 µs later; from off, a full boot. -/
def execPowerActive (s : State) : Host.Outcome State Fault Refusal :=
  match s.dev.power with
  | .active => .next s
  | .retention =>
    let s := s.modDev fun d => { d with power := .active }
    .next (s.parts.foldl (fun s p => (s.modPart p.1 fun x => { x with sweeping := true, idleSince := none }).schedule (s.clk + 66000)
      (.discoverySweep p.1)) (s.unschedule fun i => match i with | .discoverySweep _ => true | _ => false))
  | .off => .next ((s.modDev fun d => { d with power := .active, boot := .rom }).schedule s.clk .powerOnBoot)

/-- POWER_RETENTION (R409): refused unless roll call is quiescent for every resident context, under intrusive debug, and in blank. -/
def execPowerRetention (s : State) : Host.Outcome State Fault Refusal :=
  let quiet := s.ctxs.all fun x => !x.2.holds || s.rollClean x.2.slot x.1
  if s.dev.power = .active && quiet && s.dev.debug ≠ .intrusive && s.dev.lifecycle ≠ .blank then
    .next (s.modDev fun d => { d with power := .retention })
  else .next s

/-- POWER_OFF (R409): refused while a context exists and under intrusive debug; all on-die state and the locker are lost, HBM keeps its
contents. Host memory, flash, fuses and the identity key are not the die's. -/
def execPowerOff (s : State) : Host.Outcome State Fault Refusal :=
  if s.anyContext || s.dev.debug = .intrusive || s.dev.power = .off then .next s
  else
    let d := s.dev
    .next { State.reset with
      clk := s.clk, fresh := s.fresh, ids := s.ids, agenda := []
      mem := s.mem.filter fun b => spaceOf b.1 ≠ 1
      poison := s.poison.filter fun k => k < 2 ^ 50 && spaceOf (64 * k) ≠ 1
      dev := { Device.reset with
        lx36 := d.lx36, isModule := d.isModule, strips := d.strips, lifecycle := d.lifecycle, power := .off, flash := d.flash
        flashLength := d.flashLength, rollback := d.rollback, identityKey := d.identityKey, window := d.window, debugger := d.debugger
        nonce := d.nonce } }

/-- POWER_CAP_WRITE (R410, R411): watts within the module's range and a ramp code of 0 to 2, else refused; a package reads 0. -/
def execPowerCapWrite (value : Word) (s : State) : Host.Outcome State Fault Refusal :=
  let w := bits value.toNat 15 0
  if s.dev.isModule && 1000 ≤ w && w ≤ s.dev.tdp && bits value.toNat 19 16 < 3 then
    .next (s.modDev fun d => { d with cap := BitVec.ofNat 64 (bits value.toNat 19 0) })
  else .next s

/-! ## Formats and links (27 R415, R417, R418) -/

/-- FORMAT_CHOICE_WRITE (R417): accepted whole when every field lies in its offered range and no context exists, else refused whole. -/
def execFormatChoiceWrite (value : Word) (s : State) : Host.Outcome State Fault Refusal :=
  let field (i : Nat) : Nat := bits value.toNat (16 * i + 15) (16 * i)
  let top (i : Nat) : Nat := if i = 0 then s.dev.hif else (Config.offeredMax i).toNat
  let ok := (List.range 4).all fun i => (Config.offeredMin i).toNat ≤ field i && field i ≤ top i
  if ok && s.dev.boot = .firmware && !s.anyContext then .next (s.modDev fun d => { d with chosen := value, choice := true }) else .next s

/-- LINK_TRAINING (R415, R418): a link takes the lower of both ends' ceilings; it stays down, with a fabric event, when that is below a
minimum or when its plane reports another number than the others. What the plane reports is a free value (log 3). -/
def execLinkTraining (plane : Nat) (s : State) : Host.Outcome State Fault Refusal :=
  let k := s.newFree
  let t := Config.linkTraining k.1
  let s := k.2
  let format := min (bits s.dev.chosen.toNat 63 48) t.2.1
  let others := (List.range 16).any fun p => p ≠ plane % 16 && (s.dev.links[p % 16]'(Nat.mod_lt _ (by decide))).up
  let ok := t.2.2 && (Config.offeredMin 3).toNat ≤ format && t.1 < 512 && (!others || t.1 = s.dev.number)
  let set (l : Link) (d : Device) : Device := { d with links := d.links.set (plane % 16) l (Nat.mod_lt _ (by decide)) }
  if ok then .next (s.modDev fun d => set { up := true, format } { d with number := t.1 })
  else .next (s.modDev fun d => set { up := false, format := 0 } { d with live := { d.live with fabric := d.live.fabric + 1#64 } })

/-! ## Telemetry (27 R419) -/

/-- TELEMETRY_REFRESH (R419): every millisecond the registers show what has been counted, with the energy and the temperature, which are
free values (log 3). -/
def execTelemetryRefresh (s : State) : Host.Outcome State Fault Refusal :=
  let k := s.newFree
  let s := k.2.modDev fun d => { d with shown := { d.live with
    energy := BitVec.ofNat 64 (Config.moduleEnergy k.1), temperature := BitVec.ofNat 64 (Config.moduleTemperature k.1 % 65536) } }
  .next (s.schedule (s.clk + 3300000) .telemetryRefresh)

end Sys2Proof.Machine
end

