-- ==== Sys2Proof/Machine/Discovery.lean ====
section
/-!
DEFINITION. Machine/Discovery.lean: the discovery sweep: binding, the link word of a full copybook, the starts of launches, ready
applications and the planning step (02 R39 to R45; 19 R350; 20 R351, R357; 23 R378).
-/

namespace Sys2Proof.Machine

/-! ## Binding (02 R40, R42 to R45; 13 R305, R306) -/

/-- A segment of an application, bound to a lesson. -/
def State.segmentOf (s : State) (slot c first last : Nat) (img : Image) : Segment :=
  let x := s.ctx c
  let w := (x.seat first).sym
  let standard := img.standard
  let n := bits (x.seat (first + 1)).sym.toNat 15 0
  { ctx := c, slot, launch := (x.seat first).launch, opnum := n, openCell := first, seglen := last + 1 - first, openSeat := first
    level := symLevel w, record := bit w.toNat 51, syms := (List.range (last + 1 - first)).map fun i => (x.seat (first + i)).sym
    header := img.header, words := img.words, memTime := memLatency img.space (s.isQuarter slot), address := img.address, attempt := 0
    beats := beatsOf (if standard then Config.standardLength n else img.words.length), loadAt := [], loads := [], phase := .loading
    engaged := false, clean := [], failed := false, sweeps := 0, needStarted := false, offsets := none, total := 0, unfolded := false
    granted := false, parkTried := [], releases := [], standard, result := none }

/-- Bind one application that a sweep has found ready (R42 to R44): its seats are busy and its lesson is known, or its expression ends with
the status and the refusal code on the report card. -/
def State.bindOne (s : State) (slot c first last : Nat) : State × Option Nat :=
  let x := s.ctx c
  let q := x.seat first
  let l := lookupA s.launches q.launch
  let open_ := match l with | some v => v.phase = .running && v.status.isNone | none => false
  if !open_ || symKind q.sym ≠ 1 || q.busy.isSome then (s, none)
  else
    let n := bits (x.seat (first + 1)).sym.toNat 15 0
    match s.lessonImage c first n ((l.map (·.level)).getD 0) with
    | .error e =>
      let s := s.report c { Card.ofStatus e.status 1 with cause := e.code, opnum := n, openSeat := first, launch := q.launch }
      (s.endExpression q.launch e.status first, none)
    | .ok img =>
      let seg := s.segmentOf slot c first last img
      let k := s.newId
      let s := { k.2 with segs := putA k.2.segs k.1 seg }
      let s := s.modCtx c fun x => (List.range seg.seglen).foldl (fun x i =>
        x.setSeat (first + i) { x.seat (first + i) with busy := some k.1 }) x
      (if n = 0x61 then s.closeBook c (argsOf seg.syms) else s, some k.1)

/-- Bind what the sweep that ends has found, and begin every load (R42, R307): copies that the loads leave in the caches are seen by later
sweeps alone. -/
def State.bindFound (s : State) (slot c : Nat) (found : List (Nat × Nat)) : State :=
  let r := found.foldl (fun (a : State × List Nat) f =>
    let b := a.1.bindOne slot c f.1 f.2
    (b.1, a.2 ++ b.2.toList)) (s, [])
  let live := r.2.filter fun g => (lookupA r.1.segs g).isSome
  let s := live.foldl (fun s g =>
    match lookupA s.segs g with
    | some seg => (List.range seg.seglen).foldl (fun s i => s.loadSeat g i s.clk) s
    | none => s) r.1
  live.foldl (fun s g => s.cacheLoad s.clk g) s

/-! ## The link word of a full copybook (19 R350; 20 R357) -/

/-- End a segment that waits for the log (R349, R350). -/
def State.endWaiter (s : State) (g : Nat) : State :=
  match lookupA s.segs g with
  | none => s
  | some seg =>
    let n := logNeeds (s.bySeat g seg.seglen)
    let s := s.report seg.ctx { Card.ofStatus stLogFull 1 with opnum := seg.opnum, openSeat := seg.openSeat, launch := seg.launch, bytes := 64 * n }
    ((s.handReleases seg.ctx seg.releases).discard g).endExpression seg.launch stLogFull seg.openSeat

/-- The root reads the link word of segment cur while the full bit is set, and acts on it (R350, R357). -/
def State.readLink (s : State) (c : Nat) : State :=
  let h := s.cbHeader c
  let w0 := readNat s.mem h 8
  let waiters := (s.ctx c).logWaiters
  if !bit w0 45 || waiters.isEmpty then s
  else
    let link := readNat s.mem (s.bookPlace h).1 8
    if link = 0 then s
    else
      let next := link % 2 ^ 48
      let w1 := readNat s.mem (next + 8) 8
      let size := w1 % 2 ^ 32
      let cur := bits w0 37 32
      let bad := link = 0xFFFFFFFFFFFFFFFF || cur = 63 || size < 128 || size % 64 ≠ 0 || bits w1 63 32 ≠ 0 ||
        (List.range 6).any fun i => readNat s.mem (next + 16 + 8 * i) 8 ≠ 0
      let s := s.modCtx c fun x => { x with logWaiters := [] }
      if bad then
        let w := w0 - 2 ^ 45 - (if bit w0 47 then 2 ^ 47 else 0)
        waiters.foldl State.endWaiter { s with mem := writeNat s.mem h 8 w }
      else
        let m := writeNat s.mem h 8 (w0 - 2 ^ 45 + 2 ^ 32)
        let s := { s with mem := writeNat (writeNat m (h + 24) 8 next) (h + 32) 8 64 }
        waiters.foldl (fun s g =>
          match lookupA s.segs g with
          | none => s
          | some seg =>
            if size - 64 < 64 * logNeeds (s.bySeat g seg.seglen) then s.endWaiter g else s.beginCommit g) s

/-! ## The sweep (02 R39 to R42) -/

/-- Whether a context holds an unfinished expression, or work that a sweep would begin (R42; 23 R378). -/
def State.unfinished (s : State) (slot c : Nat) : Bool :=
  (s.launches.any fun l => l.2.slot = slot && l.2.ctx = c && l.2.status.isNone &&
    (l.2.phase = .started || l.2.phase = .placed || l.2.phase = .running)) ||
  (s.segs.any fun g => g.2.ctx = c && g.2.phase ≠ .tail) || !(s.part slot).unfolds.isEmpty ||
  ([0, 1, 2, 3].any fun q => match s.startable slot q with | some (_, v) => v.ctx = c | none => false)

/-- Ready applications (R40; 20 R351): `reverse` waits until no segment of the context is bound in record mode. -/
def State.readyOnes (s : State) (c : Nat) (found : List Found) : List (Nat × Nat) :=
  let recording := s.segs.any fun g => g.2.ctx = c && g.2.record && g.2.phase ≠ .tail
  (found.filter fun f => !f.blocked &&
    !(bits ((s.ctx c).seat (f.first + 1)).sym.toNat 15 0 = 0x61 && recording)).map fun f => (f.first, f.last)

/-- A sweep for the running context: what the sweep before it has found is bound, then the row is read and planned with. While a
pre-emption drains the context, growth and the log alone go on (23 R381). -/
def State.sweep (s : State) (slot c : Nat) : State :=
  let p := s.part slot
  let draining := p.preempt.isSome
  let rest := draining || (s.ctx c).dying || (s.ctx c).state ≠ .resident
  let s := if rest then s else s.bindFound slot c p.found
  let s := s.readLink c
  let s := if rest then s else s.startHeads slot c 128
  let s := if (s.unfinished slot c) then s.scheduleFirst (s.clk + s.sweepInterval slot) (.discoverySweep slot)
    else (s.modPart slot fun p => { p with sweeping := false, idleSince := some s.clk }).schedule (s.clk + 330000) (.idleGateEntry slot)
  let all := s.innermost (s.ctx c)
  let s := s.modPart slot fun p => { p with found := if rest then [] else s.readyOnes c all, sweepNo := p.sweepNo + 1 }
  let s := if p.wave.isNone then s.planStep slot c (if rest then [] else all) rest else s
  if !draining && (s.switchWanted slot).isSome then s.schedule s.clk (.preemptDecision slot) else s

/-- DISCOVERY_SWEEP (R41, R42; 23 R378, R381): the root starts a sweep for its running context. With none, or once steps 3 to 5 of a
pre-emption are over, sweeps cease. -/
def execDiscoverySweep (slot : Nat) (s : State) : Host.Outcome State Fault Refusal :=
  let p := s.part slot
  let late := match p.preempt with | some (3, _) => false | some _ => true | none => false
  let cease (s : State) : State := s.modPart slot fun p => { p with sweeping := false, found := [] }
  if s.dev.power ≠ .active || late then .next (cease s)
  else
    match p.running with
    | none =>
      let s := (cease s).modPart slot fun p => { p with idleSince := some s.clk }
      let s := s.schedule (s.clk + 330000) (.idleGateEntry slot)
      .next (if (s.switchWanted slot).isSome then s.schedule s.clk (.preemptDecision slot) else s)
    | some c => .next (s.sweep slot c)

end Sys2Proof.Machine
end

