-- ==== Sys2Proof/Machine/Host.lean ====
section
/-!
DEFINITION. Machine/Host.lean: pushes and register writes of the host, forwarded records, CXL.mem accesses, the limit on ring waits, and
soft errors (07 R159; 23 R372, R373, R377, R380; 24 R395; 25 R400; 27 R416, R419).
-/

namespace Sys2Proof.Machine

/-! ## Queues (R373, R377; 25 R397, R400) -/

/-- QUEUE_PUSH (R377): a record goes to an on-die place, to the ring's tail, or is dropped and counted. -/
def execQueuePush (slot q : Nat) (r : List Word) (s : State) : Host.Outcome State Fault Refusal :=
  if (lookupA s.parts slot).isNone || 4 ≤ q then .next s
  else
    match ((s.part slot).queue q).spillsTo with
    | some a => if farExists a 64 then .next (s.pushLaunch slot q r).1 else .fault (.noSuchFarAddress a)
    | none => .next (s.pushLaunch slot q r).1

/-- VIRTUAL_QUEUE_PUSH (R400): a push to the queue of the context that the record names; a push that is refused is counted on its page. -/
def execVirtualQueuePush (slot q : Nat) (r : List Word) (s : State) : Host.Outcome State Fault Refusal :=
  if (lookupA s.parts slot).isNone || !(q = 4 || q = 5) then .next s
  else
    let a := s.appendVirtual (recCtx r) q r
    if a.2 then .next a.1
    else
      let i := (slot * 2 + (q - 4)) % 8
      .next { s with dev := { s.dev with
        virtualDrops := s.dev.virtualDrops.set i (s.dev.virtualDrops[i]'(Nat.mod_lt _ (by decide)) + 1) (Nat.mod_lt _ (by decide)) } }

/-- Whether a launch queue holds no record. -/
def LQueue.isEmpty (u : LQueue) : Bool := u.die.isEmpty && u.ringCount = 0

/-- SPILL_BASE_WRITE (R373; 25 R397): takes effect while the queue is empty; spills count from ring slot 0 again. -/
def execSpillBaseWrite (slot q : Nat) (value : Word) (s : State) : Host.Outcome State Fault Refusal :=
  if ((s.part slot).queue q).isEmpty then
    .next (s.modQueue slot q fun u => { u with base := value &&& 0xFFFFFFFFFFC0#64, ringHead := 0 })
  else .next s

/-- SPILL_SIZE_WRITE (R373): 0 or a power of two in 64 to 65,536, while the queue is empty; any other write is refused. -/
def execSpillSizeWrite (slot q : Nat) (value : Word) (s : State) : Host.Outcome State Fault Refusal :=
  let n := value.toNat
  if ((s.part slot).queue q).isEmpty && (n = 0 || (64 ≤ n && n ≤ 65536 && n = 2 ^ Nat.log2 n)) then
    .next (s.modQueue slot q fun u => { u with size := n })
  else .next s

/-! ## Registers without a behaviour of their own (R373, R380; 26 R403) -/

/-- REGISTER_WRITE (R373, R380; 26 R403): the image length, the image buffer while the ROM waits for an image, and a context command of a
code that is in no table, which is refused; every other register is read-only or not there, and keeps its value. -/
def execRegisterWrite (offset : Nat) (value : Word) (s : State) : Host.Outcome State Fault Refusal :=
  if offset = 0x300010 then .next { s with dev := { s.dev with imageLength := value } }
  else if 0x2000000 ≤ offset && offset + 8 ≤ 0x3000000 && offset % 8 = 0 then
    if s.dev.boot = .waitingImage then
      .next { s with dev := { s.dev with imageBuffer := writeNat s.dev.imageBuffer (offset - 0x2000000) 8 value.toNat } }
    else .next s
  else if 0x200000 ≤ offset && offset < 0x300000 && offset % 4096 = 8 then
    let code := value.toNat
    if 1 ≤ code && code ≤ 6 then .next s else .next (s.commandDone ((offset - 0x200000) / 4096) (code % 16) true)
  else .next s

/-! ## Forwarded launches (27 R416) -/

/-- The context of a fabric tag. -/
def State.ofFabric (s : State) (tag : Nat) : Option Nat :=
  (s.ctxs.find? fun x => x.2.state ≠ .absent && bits (x.2.blockWord 0) 63 48 = tag).map (·.1)

/-- The state bits [3:0] of a context's state register (R373). -/
def Ctx.stateBits (x : Ctx) : Nat := match x.state with | .absent => 0 | .resident => 1 | .evicted => 2 | .faulted => 3

/-- A residency report (R416). -/
def State.residency (s : State) (plane tag ctx state free : Nat) (pos : Option Nat) : State :=
  let ws : List Word := [BitVec.ofNat 64 (tag * 2 ^ 48 + s.dev.number * 2 ^ 39), BitVec.ofNat 64 (ctx * 2 ^ 56 + state * 2 ^ 52),
    BitVec.ofNat 64 free, (match pos with | some p => BitVec.ofNat 64 p | none => BitVec.allOnes 64), 0#64, 0#64, 0#64, 0#64]
  { s with dev := { s.dev with reports := (plane, ws) :: s.dev.reports } }

/-- FORWARDED_RECORD (R416): a record goes to the context of its packet's fabric tag: to the fleet queue when its kind is 3, else to the
launch queue of its priority; a residency report answers it. -/
def execForwardedRecord (plane fabric : Nat) (r : List Word) (s : State) : Host.Outcome State Fault Refusal :=
  match s.ofFabric fabric with
  | none => .next (s.residency plane fabric 0xFF 0 0 none)
  | some c =>
    let x := s.ctx c
    let r := BitVec.ofNat 64 (recWord r 0 - recCtx r * 2 ^ 32 + c * 2 ^ 32) :: r.drop 1
    if recKind r = 3 then
      let a := x.virtualRing 5
      let tail := readNat s.mem (a + 8) 8
      let p := s.appendVirtual c 5 r
      let used := (readNat p.1.mem (a + 8) 8 + 2 ^ 64 - readNat p.1.mem a 8) % 2 ^ 64
      .next (p.1.residency plane fabric c x.stateBits (p.1.virtualSize a - used) (if p.2 then some tail else none))
    else
      let q := bits (recWord r 0) 43 42
      let pos := ((s.part x.slot).queue q).nextPos
      let go (s : State) : State :=
        let p := s.pushLaunch x.slot q r
        p.1.residency plane fabric c x.stateBits ((p.1.part x.slot).queue q).free (if p.2 = .dropped then none else some pos)
      match ((s.part x.slot).queue q).spillsTo with
      | some a => if farExists a 64 then .next (go s) else .fault (.noSuchFarAddress a)
      | none => .next (go s)

/-! ## CXL.mem (R372) -/

/-- CXL_MEM_ACCESS (R372): a host access to the window at the top of HBM; a read changes nothing, and outside the window there is no such
memory for the host. -/
def execCxlMemAccess (addr : Nat) (write : Bool) (bytes : List Byte) (s : State) : Host.Outcome State Fault Refusal :=
  if write && 512000000000 - s.dev.window * 2 ^ 30 ≤ addr && addr + bytes.length ≤ 512000000000 then .next (s.pokeFar addr bytes)
  else .next s

/-! ## The limit on ring waits (07 R159) -/

/-- WAIT_TIMEOUT (07 R159): a ring instruction of a committed tail that has not completed 65,536 clk after it began raises the
wait-timeout trap. -/
def execWaitTimeout (id began : Nat) (s : State) : Host.Outcome State Fault Refusal :=
  match s.inst? id with
  | none => .next s
  | some v =>
    if v.committed && v.waitSince = some began && v.status = .running then .next (s.takeTrap id (trapOf stWaitTimeout 0)) else .next s

/-! ## Soft errors (24 R395; 27 R419) -/

/-- The telemetry class of a store (27 R419). -/
def errorClass : ErrorStore → Option Nat
  | .instanceState _ | .cellState _ _ => some 0
  | .scratch _ _ _ => some 1
  | .lessonBuffer _ _ => some 2
  | .sweepBuffer _ | .discovery _ | .rowSymbol _ _ => some 3
  | .farLine a => if spaceOf a = 0 then some 4 else if spaceOf a = 1 then some 5 else none
  | .contextStore _ => some 6

/-- Count an error. -/
def countError (v : Vector Word 7) : Option Nat → Vector Word 7
  | none => v
  | some k => v.set (k % 7) (v[k % 7]'(Nat.mod_lt _ (by decide)) + 1#64) (Nat.mod_lt _ (by decide))

/-- CORRECTABLE_ERROR (R395; 27 R419): corrected in place and counted. -/
def execCorrectableError (e : ErrorStore) (s : State) : Host.Outcome State Fault Refusal :=
  .next { s with dev := { s.dev with live := { s.dev.live with correctable := countError s.dev.live.correctable (errorClass e) } } }

/-- A segment is discarded to be bound again; a second error in one application ends the expression with data-error (R395). -/
def State.strike (s : State) (g : Nat) : State :=
  match lookupA s.segs g with
  | none => s
  | some seg =>
    let q := (s.ctx seg.ctx).seat seg.openSeat
    let s := (s.handReleases seg.ctx []).discard g
    if q.struck then
      let s := s.report seg.ctx { Card.ofStatus stDataError 1 with opnum := seg.opnum, openSeat := seg.openSeat, launch := seg.launch }
      s.endExpression seg.launch stDataError seg.openSeat
    else (s.modCtx seg.ctx fun x => x.setSeat seg.openSeat { x.seat seg.openSeat with struck := true }).wakeSweep seg.slot

/-- An error that faults a context (R393, R395). -/
def State.storeFault (s : State) (c : Nat) : State :=
  if (s.ctx c).state = .absent || (s.ctx c).state = .faulted then s
  else (s.report c (Card.ofStatus stDataError 2)).faultContext c

/-- Whether a segment may still be discarded: it is uncommitted and not engaged. -/
def Segment.loose (g : Segment) : Bool := !g.engaged && g.phase ≠ .committing && g.phase ≠ .tail

/-- A bad word in a cell's lesson buffer (R395; 02 R47): a load under way fails its check; an instance's segment is discarded and its lesson
loaded anew from memory, or, where it can no longer be discarded, the instance stops with data-error. -/
def State.bufferError (s : State) (c cell : Nat) : State :=
  let loading := s.segs.find? fun g => g.2.ctx = c && g.2.phase = .loading && g.2.loads.contains (cell - g.2.openCell) && g.2.openCell ≤ cell &&
    cell < g.2.openCell + g.2.seglen
  match loading with
  | some (g, _) => s.modSeg g fun x => { x with failed := true }
  | none =>
    let x := s.cell c cell
    let drop (s : State) : State :=
      let s := match (if x.cur = 0 then x.buf0 else x.buf1) with
        | some b => { s with caches := s.caches.map fun (k : Nat × List LessonCopy) =>
            (k.1, k.2.filter fun j => j.opnum ≠ b.opnum || bits j.header 31 0 ≠ bits b.header 31 0) }
        | none => s
      s.modCell c cell fun x => if x.cur = 0 then { x with buf0 := none } else { x with buf1 := none }
    match s.insts.find? fun i => i.2.place.ctx = c && i.2.place.cell = cell with
    | none => drop s
    | some (id, v) =>
      match lookupA s.segs v.place.seg with
      | none => drop s
      | some seg => if seg.loose then ((drop s).discard v.place.seg).wakeSweep seg.slot else s.takeTrap id (trapOf stDataError 0)

/-- UNCORRECTABLE_ERROR (R395): the path of the store that it struck. -/
def execUncorrectableError (e : ErrorStore) (s : State) : Host.Outcome State Fault Refusal :=
  let s := { s with dev := { s.dev with live := { s.dev.live with uncorrectable := countError s.dev.live.uncorrectable (errorClass e) } } }
  match e with
  | .instanceState i =>
    match s.inst? i with
    | none => .next s
    | some v =>
      match lookupA s.segs v.place.seg with
      | some seg => if seg.loose then .next (s.strike v.place.seg) else .next (s.takeTrap i (trapOf stDataError 0))
      | none => .next s
  | .cellState c _ | .contextStore c | .rowSymbol c _ => .next (s.storeFault c)
  | .lessonBuffer c cell => .next (s.bufferError c cell)
  | .sweepBuffer g =>
    match lookupA s.segs g with
    | none => .next s
    | some seg =>
      if seg.loose then .next ((s.discard g).wakeSweep seg.slot)
      else
        match (s.segInsts g).head? with
        | some (i, _) => .next (s.takeTrap i (trapOf stDataError 0))
        | none => .next s
  | .discovery slot => .next (s.modPart slot fun p => { p with found := [] })
  | .scratch c cell g => .next { s with poison := s.poisonKey c cell g :: s.poison.filter (· ≠ s.poisonKey c cell g) }
  | .farLine a => .next { s with poison := a / 64 :: s.poison.filter (· ≠ a / 64) }

end Sys2Proof.Machine
end

