-- ==== Sys2Proof/Machine/Record.lean ====
section
/-!
DEFINITION. Machine/Record.lean: the record instructions, primaries 0xD0 to 0xD5 (12 R274 to R277).
-/

namespace Sys2Proof.Machine

/-- `logmark` (R275): a mark entry with xA[31:0]; outside record mode nothing. -/
def execLogmark (f : RForm) (s : State) : Host.Outcome State Fault Refusal :=
  issue (.logmark f) (fun s id v =>
    if !s.records v then .next s 1
    else
      match v.stage.putEntry v ⟨2, 0xD0, 0, 0, 0, 0, false, false⟩ [] (BitVec.ofNat 64 ((v.regs.getX f.a).toNat % 2 ^ 32)) none with
      | .error t => .trap s t
      | .ok st => .next (s.setStage id st) 1) s

/-- The granules [base, base + n) that a gradient shadow does not hold yet. -/
def newGranules (held : List Nat) (base n : Nat) : List Nat :=
  ((List.range n).map (base + ·)).filter fun g => !held.contains g

/-- The sum of `gacc`, element by element, rounded to f32 nearest-even (R276). -/
def gaccElements (a b : List Datum) : List Nat :=
  (List.range a.length).map fun k => f32Bits ((a.getD k (.int 0)).toFp.add (b.getD k (.int 0)).toFp)

/-- `gacc` (R276): the new granules of A go to the gradient shadow. -/
def execGacc (f : RForm) (s : State) : Host.Outcome State Fault Refusal :=
  issue (.gacc f) (fun s id v =>
    match s.tile v (v.regs.getX f.a), s.tile v (v.regs.getX f.b) with
    | .error t, _ => .trap s t
    | _, .error t => .trap s t
    | .ok a, .ok b =>
      match operandTrap [(a.hdr.ty ≠ .f32 || b.hdr.ty ≠ f.ty, 1), (a.hdr.rows ≠ b.hdr.rows || a.hdr.cols ≠ b.hdr.cols, 2),
          (a.cell ≠ v.place.cell, 3)] with
      | some e => .trap s e
      | none =>
        readTiles s v [] [a, b] fun s =>
          let fresh := newGranules v.stage.gradGranules a.hdr.base a.hdr.granules
          if 64 < v.stage.gradGranules.length + fresh.length then .trap s (trapOf stRecord 2)
          else
            let es := gaccElements (tileElements a.hdr (s.tileBytes v a)) (tileElements b.hdr (s.tileBytes v b))
            let st := { v.stage with
              grads := writeBytes v.stage.grads (a.hdr.base * 64) (packElements .f32 es)
              gradGranules := v.stage.gradGranules ++ fresh }
            let prod := if s.records v then Producer.opaqueTile else s.unlogged v.place.ctx
            let lat := max (s.tileLatency v a) (s.tileLatency v b) + a.hdr.granules + 6
            let s := (s.setStage id st).touch id v a.hdr.base (a.hdr.base + a.hdr.granules - 1) prod
            .next (s.holdTile id a.index lat) lat) s

/-- Enter a mark in the instance's table of eight handles; a later mark of a handle replaces the earlier (R275). -/
def markHandle (f : RForm) (flag : Nat) : State → Nat → Inst → Done := fun s id v =>
  let h := (v.regs.getX f.a).toNat
  if !s.records v then .next s 1
  else if (lookupA v.stage.marks h).isNone && 8 ≤ v.stage.marks.length then .trap s (trapOf stRecord 1)
  else .next (s.setStage id { v.stage with marks := putA v.stage.marks h flag }) 1

/-- `opsave` (R275). -/
def execOpsave (f : RForm) (s : State) : Host.Outcome State Fault Refusal := issue (.opsave f) (markHandle f 1) s

/-- `oprecomp` (R275). -/
def execOprecomp (f : RForm) (s : State) : Host.Outcome State Fault Refusal := issue (.oprecomp f) (markHandle f 2) s

/-- What `logrd` reads (R277): staged entries, entries that still fit, the current copybook's seq, its sticky opaque
flag. -/
def State.logValue (s : State) (v : Inst) (f : Nat) : Nat :=
  let w := readNat s.mem (s.cbHeader v.place.ctx) 8
  match f with
  | 0 => v.stage.lane.length
  | 1 => 32 - v.stage.lane.length
  | 2 => w % 2 ^ 32
  | _ => bitNat (bit w 46)

/-- `logrd` (R277). -/
def execLogrd (f : RForm) (s : State) : Host.Outcome State Fault Refusal :=
  issue (.logrd f) (fun s id v =>
    let n := if s.records v then s.logValue v (f.fn % 4) else 0
    .next (s.setInst id { v with regs := v.regs.setX f.d (BitVec.ofNat 64 n) }) 2) s

/-- `recq` (R277): the record flag and the record class. -/
def execRecq (f : RForm) (s : State) : Host.Outcome State Fault Refusal :=
  issue (.recq f) (fun s id v =>
    let n := bitNat (s.records v) + 2 * v.hdr.recclass
    .next (s.setInst id { v with regs := v.regs.setX f.d (BitVec.ofNat 64 n) }) 2) s

end Sys2Proof.Machine
end

