-- ==== Sys2Proof/Machine/Scalar.lean ====
section
/-!
DEFINITION. Machine/Scalar.lean: the scalar and address instructions, primaries 0x00 to 0x1F (07 R143 to R149).
-/

namespace Sys2Proof.Machine

/-- A 64-bit word of a result, extended from its type (07 R143). -/
def extend (t : Ty) (v : Int) : Word := BitVec.ofNat 64 (writeInt t 64 v)

/-- The immediate of an I form as source B: sign-extended for a signed type, zero-extended for an unsigned one, then read
by the type (07 R144). -/
def immValue (t : Ty) (bitsN imm : Nat) : Int :=
  let v : Int := if Ty.isSigned t then signed bitsN imm else ((imm % 2 ^ bitsN : Nat) : Int)
  readInt t (v % (2 ^ 64 : Nat)).toNat

/-- A register-form operation: both sources read by the type, the result extended by it (07 R143, R145). -/
def binaryR (f : RForm) (op : Ty → Int → Int → Int) : State → Nat → Inst → Done :=
  regEffect 1 fun v =>
    v.regs.setX f.d (extend f.ty (op f.ty (readInt f.ty (v.regs.getX f.a).toNat) (readInt f.ty (v.regs.getX f.b).toNat)))

/-- An immediate-form operation (07 R144, R148). -/
def binaryI (f : IForm) (op : Ty → Int → Int → Int) : State → Nat → Inst → Done :=
  regEffect 1 fun v =>
    v.regs.setX f.d (extend f.ty (op f.ty (readInt f.ty (v.regs.getX f.a).toNat) (immValue f.ty 32 f.imm)))

/-- The w bits of a value as a natural number. -/
def wbits (t : Ty) (v : Int) : Nat := (v % (2 ^ Ty.width t : Nat)).toNat

/-- Sum (07 R145). -/
def opAdd (_ : Ty) (a b : Int) : Int := a + b
/-- Difference (07 R145). -/
def opSub (_ : Ty) (a b : Int) : Int := a - b
/-- Product, low w bits by the extension (07 R145). -/
def opMul (_ : Ty) (a b : Int) : Int := a * b
/-- High w bits of the exact product (07 R145). -/
def opMulh (t : Ty) (a b : Int) : Int := (a * b).fdiv (2 ^ Ty.width t : Nat)
/-- Quotient (07 R146). -/
def opDiv (t : Ty) (a b : Int) : Int := (divide t a b).1
/-- Remainder (07 R146). -/
def opRem (t : Ty) (a b : Int) : Int := (divide t a b).2
/-- Bitwise AND on w bits (07 R145). -/
def opAnd (t : Ty) (a b : Int) : Int := ((wbits t a &&& wbits t b : Nat) : Int)
/-- Bitwise OR on w bits (07 R145). -/
def opOr (t : Ty) (a b : Int) : Int := ((wbits t a ||| wbits t b : Nat) : Int)
/-- Bitwise XOR on w bits (07 R145). -/
def opXor (t : Ty) (a b : Int) : Int := ((wbits t a ^^^ wbits t b : Nat) : Int)
/-- Left shift by B mod w (07 R145). -/
def opShl (t : Ty) (a b : Int) : Int := a * (2 ^ (wbits t b % Ty.width t) : Nat)
/-- Right shift by B mod w: arithmetic for a signed type, logical for an unsigned one (07 R145). -/
def opShr (t : Ty) (a b : Int) : Int := a.fdiv (2 ^ (wbits t b % Ty.width t) : Nat)
/-- The lesser (07 R145). -/
def opMin (_ : Ty) (a b : Int) : Int := min a b
/-- The greater (07 R145). -/
def opMax (_ : Ty) (a b : Int) : Int := max a b
/-- 1 when a condition holds, else 0 (07 R145, R147). -/
def opCmp (cond : Nat) (_ : Ty) (a b : Int) : Int := if intHolds cond a b then 1 else 0

/-- `add` (07 R145: A + B). -/
def execAdd (f : RForm) (s : State) : Host.Outcome State Fault Refusal := issue (.add f) (binaryR f opAdd) s

/-- `sub` (07 R145: A − B). -/
def execSub (f : RForm) (s : State) : Host.Outcome State Fault Refusal := issue (.sub f) (binaryR f opSub) s

/-- `mul` (07 R145: A × B, low w bits). -/
def execMul (f : RForm) (s : State) : Host.Outcome State Fault Refusal := issue (.mul f) (binaryR f opMul) s

/-- `mulh` (07 R145: high w bits of the product). -/
def execMulh (f : RForm) (s : State) : Host.Outcome State Fault Refusal := issue (.mulh f) (binaryR f opMulh) s

/-- `div` (07 R146: quotient). -/
def execDiv (f : RForm) (s : State) : Host.Outcome State Fault Refusal := issue (.div f) (binaryR f opDiv) s

/-- `rem` (07 R146: remainder). -/
def execRem (f : RForm) (s : State) : Host.Outcome State Fault Refusal := issue (.rem f) (binaryR f opRem) s

/-- `and` (07 R145). -/
def execAnd (f : RForm) (s : State) : Host.Outcome State Fault Refusal := issue (.and f) (binaryR f opAnd) s

/-- `or` (07 R145). -/
def execOr (f : RForm) (s : State) : Host.Outcome State Fault Refusal := issue (.or f) (binaryR f opOr) s

/-- `xor` (07 R145). -/
def execXor (f : RForm) (s : State) : Host.Outcome State Fault Refusal := issue (.xor f) (binaryR f opXor) s

/-- `shl` (07 R145). -/
def execShl (f : RForm) (s : State) : Host.Outcome State Fault Refusal := issue (.shl f) (binaryR f opShl) s

/-- `shr` (07 R145). -/
def execShr (f : RForm) (s : State) : Host.Outcome State Fault Refusal := issue (.shr f) (binaryR f opShr) s

/-- `min` (07 R145). -/
def execMin (f : RForm) (s : State) : Host.Outcome State Fault Refusal := issue (.min f) (binaryR f opMin) s

/-- `max` (07 R145). -/
def execMax (f : RForm) (s : State) : Host.Outcome State Fault Refusal := issue (.max f) (binaryR f opMax) s

/-- `cmpeq` to `cmpgt` (07 R145, R147). -/
def execCmpset (f : RForm) (s : State) : Host.Outcome State Fault Refusal :=
  issue (.cmpset f) (binaryR f (opCmp f.fn)) s

/-- `sel` (07 R145): A when C is not 0 over all 64 bits, else B. -/
def execSel (f : RForm) (s : State) : Host.Outcome State Fault Refusal :=
  issue (.sel f) (regEffect 1 fun v =>
    v.regs.setX f.d (if v.regs.getX f.c ≠ 0#64 then v.regs.getX f.a else v.regs.getX f.b)) s

/-- `adda` (07 R145): A + (B × 2^f) modulo 2^64. -/
def execAdda (f : RForm) (s : State) : Host.Outcome State Fault Refusal :=
  issue (.adda f) (regEffect 1 fun v => v.regs.setX f.d (v.regs.getX f.a + v.regs.getX f.b <<< f.fn.val)) s

/-- `addi` (07 R148). -/
def execAddi (f : IForm) (s : State) : Host.Outcome State Fault Refusal := issue (.addi f) (binaryI f opAdd) s

/-- `muli` (07 R148). -/
def execMuli (f : IForm) (s : State) : Host.Outcome State Fault Refusal := issue (.muli f) (binaryI f opMul) s

/-- `andi` (07 R148). -/
def execAndi (f : IForm) (s : State) : Host.Outcome State Fault Refusal := issue (.andi f) (binaryI f opAnd) s

/-- `ori` (07 R148). -/
def execOri (f : IForm) (s : State) : Host.Outcome State Fault Refusal := issue (.ori f) (binaryI f opOr) s

/-- `xori` (07 R148). -/
def execXori (f : IForm) (s : State) : Host.Outcome State Fault Refusal := issue (.xori f) (binaryI f opXor) s

/-- `mini` (07 R148). -/
def execMini (f : IForm) (s : State) : Host.Outcome State Fault Refusal := issue (.mini f) (binaryI f opMin) s

/-- `maxi` (07 R148). -/
def execMaxi (f : IForm) (s : State) : Host.Outcome State Fault Refusal := issue (.maxi f) (binaryI f opMax) s

/-- `li` (07 R148): the immediate, extended by R144 and then by R143. -/
def execLi (f : IForm) (s : State) : Host.Outcome State Fault Refusal :=
  issue (.li f) (regEffect 1 fun v => v.regs.setX f.d (extend f.ty (immValue f.ty 32 f.imm))) s

/-- `lih` (07 R148): imm × 2^32 + A[31:0]. -/
def execLih (f : IForm) (s : State) : Host.Outcome State Fault Refusal :=
  issue (.lih f) (regEffect 1 fun v =>
    v.regs.setX f.d (BitVec.ofNat 64 (f.imm.val * 2 ^ 32 + (v.regs.getX f.a).toNat % 2 ^ 32))) s

/-- `shli` (07 R148): the count is imm[5:0] mod w. -/
def execShli (f : IForm) (s : State) : Host.Outcome State Fault Refusal :=
  issue (.shli f) (regEffect 1 fun v =>
    v.regs.setX f.d (extend f.ty (opShl f.ty (readInt f.ty (v.regs.getX f.a).toNat) (bits f.imm 5 0)))) s

/-- `shri` (07 R148): the count is imm[5:0] mod w. -/
def execShri (f : IForm) (s : State) : Host.Outcome State Fault Refusal :=
  issue (.shri f) (regEffect 1 fun v =>
    v.regs.setX f.d (extend f.ty (opShr f.ty (readInt f.ty (v.regs.getX f.a).toNat) (bits f.imm 5 0)))) s

/-- `cmpeqi` to `cmpgti` (07 R148): the condition in [31:29], a 29-bit immediate. -/
def execCmpseti (f : IForm) (s : State) : Host.Outcome State Fault Refusal :=
  issue (.cmpseti f) (regEffect 1 fun v =>
    v.regs.setX f.d (extend f.ty (opCmp (bits f.imm 31 29) f.ty (readInt f.ty (v.regs.getX f.a).toNat)
      (immValue f.ty 29 f.imm)))) s

/-- The special registers as they were at the instance's start (01 R22; 07 R149). -/
def Place.special (p : Place) (sel : Nat) : Word :=
  match sel with
  | 0 => BitVec.ofNat 64 p.seat
  | 1 => BitVec.ofNat 64 p.seglen
  | 2 => BitVec.ofNat 64 p.cell
  | 3 => BitVec.ofNat 64 p.cellcount
  | 4 => BitVec.ofNat 64 p.part
  | 5 => BitVec.ofNat 64 p.ctx
  | 6 => p.symbol
  | _ => BitVec.ofNat 64 p.nest

/-- `rdsr` (07 R148, R149). -/
def execRdsr (f : IForm) (s : State) : Host.Outcome State Fault Refusal :=
  issue (.rdsr f) (regEffect 1 fun v => v.regs.setX f.d (v.place.special (bits f.imm 7 0))) s

/-- `addai` (07 R148): A + (imm × 2^f) modulo 2^64, f in [31:29], imm in [28:0] sign-extended for i64 and zero-extended
for n64. -/
def execAddai (f : IForm) (s : State) : Host.Outcome State Fault Refusal :=
  issue (.addai f) (regEffect 1 fun v =>
    v.regs.setX f.d (v.regs.getX f.a +
      (BitVec.ofInt 64 (if Ty.isSigned f.ty then signed 29 f.imm else ((f.imm.val % 2 ^ 29 : Nat) : Int))) <<< bits f.imm 31 29)) s

end Sys2Proof.Machine
end

