-- ==== Sys2Proof/Machine/Symbols.lean ====
section
/-!
DEFINITION. Machine/Symbols.lean: the symbol and storage instructions, primaries 0x90 to 0x98 (10 R221 to R229).
-/

namespace Sys2Proof.Machine

/-- `need` (R222; 02 R53). -/
def execNeed (f : RForm) (s : State) : Host.Outcome State Fault Refusal :=
  issue (.need f) (fun s id v =>
    let n := (v.regs.getX f.a).toNat
    if 64 < n ∨ v.declared.isSome then .trap s (trapOf stNeed 0)
    else
      .settled ((settle (.need f) id v s (.next (s.setInst id { v with declared := some n }) 1)).tryNeed v.place.seg)) s

/-- Stage symbols at indices of the instance's staging area (02 R51). -/
def stageSymbols (v : Inst) (at_ : Nat) : List Word → Inst
  | [] => v
  | w :: ws => stageSymbols { v with stage := { v.stage with syms := putA v.stage.syms at_ w } } (at_ + 1) ws

/-- Whether the offsets of an instance's segment are known (R222). -/
def State.offsetsKnown (s : State) (v : Inst) : Option (List Nat) := (lookupA s.segs v.place.seg).bind (·.offsets)

/-- `emit` (R222): an index at or above n raises the emit-range trap, at issue when no `need` has been executed; it waits
for the offset; a malformed word raises the malformed-result trap. -/
def execEmit (f : RForm) (s : State) : Host.Outcome State Fault Refusal :=
  issue (.emit f) (fun s id v =>
    let i := (v.regs.getX f.a).toNat
    let w := v.regs.getX f.b
    if v.declared.getD 0 ≤ i then .trap s (trapOf stEmitRange 0)
    else if (s.offsetsKnown v).isNone then .stall s
    else if !symbolOk v.place.cellcount w then .trap s (trapOf stMalformedResult 0)
    else .next (s.setInst id (stageSymbols v i [w])) 1) s

/-- `commit` (R222; 02 R55): the seat arrives at its segment's commit, once it has passed on its gang's rows (09 R195). -/
def execCommit (s : State) : Host.Outcome State Fault Refusal :=
  issue .commit (fun s id v =>
    if v.gang.isSome && (s.cell v.place.ctx v.place.cell).passingRows s.clk then .stall s
    else .settled (s.arriveCommit id v false)) s

/-- `symrd` (R224): the symbol that a seat of the segment held at binding; 0 beyond the segment. -/
def execSymrd (f : RForm) (s : State) : Host.Outcome State Fault Refusal :=
  issue (.symrd f) (fun s id v =>
    match lookupA s.segs v.place.seg with
    | none => .stall s
    | some g =>
      let i := (v.regs.getX f.a).toNat
      .next (s.setInst id { v with regs := v.regs.setX f.d (if i < g.seglen then g.syms.getD i 0#64 else 0#64) })
        (twoWay (s.segLevel g))) s

/-- The word that `symbld` assembles from a function and a payload (R225). -/
def builtSymbol (fn : Nat) (payload : Word) : Word :=
  BitVec.ofNat 64 (bits fn 3 0 * 2 ^ 60 + bits fn 11 4 * 2 ^ 52 + bits fn 15 12 * 2 ^ 48 + bits payload.toNat 47 0)

/-- `symbld` (R225). -/
def execSymbld (f : RForm) (s : State) : Host.Outcome State Fault Refusal :=
  issue (.symbld f) (regEffect 1 fun v => v.regs.setX f.d (builtSymbol f.fn (v.regs.getX f.a))) s

/-- `symget` (R223): offset and total wait until they are known. -/
def execSymget (f : RForm) (s : State) : Host.Outcome State Fault Refusal :=
  issue (.symget f) (fun s id v =>
    let put (n : Nat) : Done := .next (s.setInst id { v with regs := v.regs.setX f.d (BitVec.ofNat 64 n) }) 1
    match lookupA s.segs v.place.seg, bits f.fn 2 0 with
    | none, _ => .stall s
    | some g, 0 => match g.offsets with | some os => put (os.getD v.place.seat 0) | none => .stall s
    | some g, 1 => if g.offsets.isSome then put g.total else .stall s
    | some _, 2 => put (v.declared.getD 0)
    | some g, _ => put g.level) s

/-- `unfold` (R226): the request climbs to the partition root in 20 clk on a quarter partition, in 32 clk else. -/
def execUnfold (f : RForm) (s : State) : Host.Outcome State Fault Refusal :=
  issue (.unfold f) (fun s id v =>
    match lookupA s.segs v.place.seg with
    | none => .stall s
    | some g =>
      if g.unfolded || v.declared.isSome then .trap s (trapOf stNeed 0)
      else
        let q := (v.regs.getX f.a).toNat % 2 ^ 32
        let a := (v.regs.getX f.b).toNat % 2 ^ 32
        let s := s.modSeg v.place.seg fun g => { g with unfolded := true }
        let climb := if v.place.cellcount ≤ s.perQuarter then 20 else 32
        .wait (s.schedule (s.clk + climb) (.unfoldRequestArrival id q a)) .unfold) s

/-- `park` (R227): a record of the park area, staged as one far write; all ones when the area has no room. -/
def execPark (f : RForm) (s : State) : Host.Outcome State Fault Refusal :=
  issue (.park f) (fun s id v =>
    let n := (v.regs.getX f.b).toNat
    if n = 0 ∨ 5119 < n then .trap s (trapOf stScratchRange 1)
    else
      match scratchAt (v.regs.getX f.a).toInt (8 * n) 8 with
      | .error t => .trap s t
      | .ok a =>
        let x := s.ctx v.place.ctx
        match x.parkSpace (8 * n + 8) with
        | none => .next (s.setInst id { v with regs := v.regs.setX f.d (BitVec.allOnes 64) }) 64
        | some addr =>
          let bs := s.sideBytes v v.place.cell a (8 * n)
          let ws := (List.range n).map fun i => BitVec.ofNat 64 (wordOfBytes ((bs.drop (8 * i)).take 8))
          if s.poisonedAt v.place.ctx v.place.cell (a / 64) ((a + 8 * n - 1) / 64) then .trap s dataError
          else
            match (s.setInst id { v with regs := v.regs.setX f.d (quotedWord addr 0 false) }).stageFar id v
                (.park addr (recordHeader n 0 false :: ws)) with
            | .error t => .trap s t
            | .ok s =>
              .next (s.modCtx v.place.ctx fun x => { x with parks := x.parks ++ [{
                addr, bytes := 8 * n + 8, staged := true, launch := v.place.launch, seg := v.place.seg, manager := false }] }) 64) s

/-- `fetch` (R229): it waits for the offset and for a staged record at its address, then takes a slice of the record. -/
def execFetch (f : RForm) (s : State) : Host.Outcome State Fault Refusal :=
  issue (.fetch f) (fun s id v =>
    let w := v.regs.getX f.a
    let b := (v.regs.getX f.b).toNat
    let c := (v.regs.getX f.c).toNat
    let a := bits w.toNat 47 0
    let n := v.declared.getD 0
    if symKind w ≠ 9 ∨ !symbolOk v.place.cellcount w ∨ bit w.toNat 48 then .trap s (trapOf stMalformedResult 0)
    else if n ≤ b then .trap s (trapOf stEmitRange 0)
    else if (s.offsetsKnown v).isNone then .stall s
    else if (s.ctx v.place.ctx).parks.any fun r => r.staged && r.addr = a then .stall s
    else if !s.fetchable v.place.ctx a 8 then .trap s { status := stLease, cause := 0, addr := a }
    else if !farExists a 8 then .fault (.noSuchFarAddress a)
    else if s.farPoisoned a 8 then .trap s { dataError with addr := a }
    else
      let h := readNat s.mem a 8
      let len := bits h 63 48
      let m := if len ≤ c then 0 else min (len - c) (n - b)
      let src := a + 8 + 8 * c
      if bits h 39 1 ≠ 0 then .trap s (trapOf stMalformedExpr 0)
      else if m > 0 && !s.fetchable v.place.ctx src (8 * m) then .trap s { status := stLease, cause := 0, addr := src }
      else if m > 0 && !farExists src (8 * m) then .fault (.noSuchFarAddress src)
      else if m > 0 && s.farPoisoned src (8 * m) then .trap s { dataError with addr := src }
      else
        let ws := readWords s.mem src m
        if ws.any fun w => !symbolOk v.place.cellcount w then .trap s (trapOf stMalformedResult 0)
        else
          let v := stageSymbols v b ws
          .next (s.setInst id { v with regs := v.regs.setX f.d (BitVec.ofNat 64 m) }) (400 + (m + 7) / 8)) s

end Sys2Proof.Machine
end

