-- ==== Sys2Proof/Machine/System.lean ====
section
/-!
DEFINITION. Machine/System.lean: the system instructions, primaries 0xE0 to 0xEB, and the events that answer them (12 R278
to R282).
-/

namespace Sys2Proof.Machine

/-- `trap` (R279): the user-trap status; the entry's word holds c. -/
def execTrap (f : ZForm) (s : State) : Host.Outcome State Fault Refusal :=
  issue (.trap f) (fun s _ _ => .trap s (trapOf stUser (f.code.val % 256))) s

/-- `syscall` (R279): words 1 to 7 of a marker record, staged as one far write (23 R422). -/
def execSyscall (f : ZForm) (s : State) : Host.Outcome State Fault Refusal :=
  issue (.syscall f) (fun s id v =>
    let tag := (((lookupA s.launches v.place.launch).map (·.record)).getD []).getD 7 0#64
    let ws : List Word := [BitVec.ofNat 64 f.code, v.regs.getX f.a, BitVec.ofNat 64 (v.place.opnum % 65536 * 65536 + v.place.seat),
      tag, 0#64, 0#64, 0#64]
    match s.stageFar id v (.syscall ws) with
    | .error t => .trap s t
    | .ok s => .next s 1) s

/-- A configuration word (R281). -/
def State.configWord (s : State) (v : Inst) (sel : Nat) : Word :=
  let l := lookupA s.launches v.place.launch
  let x := s.ctx v.place.ctx
  match sel with
  | 0 => BitVec.ofNat 64 ((if s.dev.lx36 then 0x36 else 0x40) + Config.stepping.toNat * 2 ^ 16)
  | 1 => s.dev.chosen
  | 2 => BitVec.ofNat 64 ((l.map (·.level)).getD 0)
  | 3 => BitVec.ofNat 64 s.dev.number
  | 4 => BitVec.ofNat 64 ((l.map fun l => bits (l.record.getD 3 0#64).toNat 55 48).getD 0)
  | 5 => BitVec.ofNat 64 x.syncLen
  | 6 => BitVec.ofNat 64 x.passCount
  | 7 => ((l.map (·.record)).getD []).getD 7 0#64
  | n => getD 0#64 x.user n

/-- `cfgrd` (R281). -/
def execCfgrd (f : ZForm) (s : State) : Host.Outcome State Fault Refusal :=
  issue (.cfgrd f) (fun s id v =>
    .next (s.setInst id { v with regs := v.regs.setX f.d (s.configWord v f.code) }) 4) s

/-- `cfgwr` (R281): staged as one far write. -/
def execCfgwr (f : ZForm) (s : State) : Host.Outcome State Fault Refusal :=
  issue (.cfgwr f) (fun s id v =>
    match s.stageFar id v (.cfgwr f.code (v.regs.getX f.a)) with
    | .error t => .trap s t
    | .ok s => .next s 1) s

/-- `brk` (R279): it halts its instance when the debug level is intrusive and a debugger is attached. The debugger's resume
lets it go on at the next index. -/
def execBrk (f : ZForm) (s : State) : Host.Outcome State Fault Refusal :=
  issue (.brk f) (fun s id v =>
    if s.dev.debug = .intrusive && s.dev.debugger then
      .settled ((settle (.brk f) id v s (.next s 1)).modInst id fun u => { u with status := .halted, wake := none })
    else .next s 1) s

/-- DEBUG_RESUME (R279): the debugger resumes a halted instance. -/
def execDebugResume (id : Nat) (s : State) : Host.Outcome State Fault Refusal :=
  .next (s.modInst id fun v =>
    if v.status = .halted then { v with status := .running, wake := some (s.clk + 1) } else v)

/-- HALTED_INSTANCE_REGISTER_WRITE (26 R408): under intrusive debug the debugger writes a register of a halted instance:
an x register takes lanes 0 and 1, a mask register and a loop counter lane 0. -/
def execHaltedInstanceRegisterWrite (id : Nat) (cls : RegClass) (n : Nat) (w : VecVal) (s : State) :
    Host.Outcome State Fault Refusal :=
  .next (s.modInst id fun v =>
    if v.status ≠ .halted || s.dev.debug ≠ .intrusive then v
    else
      match cls with
      | .x => { v with regs := v.regs.setX n ((w.lane 1) ++ (w.lane 0)) }
      | .v => { v with regs := v.regs.setV n w }
      | .k => { v with regs := v.regs.setK n ((w.lane 0).truncate 16) }
      | .lc => { v with regs := v.regs.setLc n (w.lane 0) }
      | _ => v)

/-- `nop` (R279): it takes its issue slot. -/
def execNop (s : State) : Host.Outcome State Fault Refusal := issue .nop (fun s _ _ => .next s 1) s

/-- A performance counter (R282). -/
def State.perfValue (s : State) (v : Inst) (sel : Nat) : Word :=
  if sel = 0 then BitVec.ofNat 64 (s.clk - v.started)
  else if sel = 1 then BitVec.ofNat 64 (v.issued + 1)
  else (s.cell v.place.ctx v.place.cell).perf[sel % 8]'(Nat.mod_lt _ (by decide))

/-- `pcrd` (R282). -/
def execPcrd (f : ZForm) (s : State) : Host.Outcome State Fault Refusal :=
  issue (.pcrd f) (fun s id v =>
    .next (s.setInst id { v with regs := v.regs.setX f.d (s.perfValue v f.code) }) 2) s

/-- `rdclk` (R279): the partition's clk count since its reset. -/
def execRdclk (f : ZForm) (s : State) : Host.Outcome State Fault Refusal :=
  issue (.rdclk f) (fun s id v =>
    .next (s.setInst id { v with regs := v.regs.setX f.d (BitVec.ofNat 64 (s.rdclk v.place.slot)) }) 2) s

/-- `evsig` (R279): staged as one far write. -/
def execEvsig (f : ZForm) (s : State) : Host.Outcome State Fault Refusal :=
  issue (.evsig f) (fun s id v =>
    match s.stageFar id v (.evsig (bits f.code 5 0)) with
    | .error t => .trap s t
    | .ok s => .next s 1) s

/-- `sleep` (R279): with poll the generation of the event, else it stalls until the generation differs from xA[31:0]. -/
def execSleep (f : ZForm) (s : State) : Host.Outcome State Fault Refusal :=
  issue (.sleep f) (fun s id v =>
    let g := getD 0#32 (s.ctx v.place.ctx).events (bits f.code 5 0)
    if bit f.code 6 || g ≠ (v.regs.getX f.a).truncate 32 then
      .next (s.setInst id { v with regs := v.regs.setX f.d (g.zeroExtend 64) }) 1
    else .stall s) s

/-- ILLEGAL_INSTRUCTION (06 R133, R134): a word that breaks a rule of the encoding, at the index where it issues, raises the
illegal-instruction trap with the lowest cause that applies; it has no effect. -/
def execIllegalInstruction (word : Word) (s : State) : Host.Outcome State Fault Refusal :=
  match s.actor with
  | none => .refused .noIssuer
  | some id =>
    match s.inst? id with
    | none => .refused .noIssuer
    | some v =>
      let cause := lowestCause (staticCauses word.toNat ++ lessonCauses v.hdr v.pc word.toNat)
      .next (s.takeTrap id (trapOf stIllegal ((cause.map IllegalCause.code).getD 1)))

/-! ## Queue forms (R280) -/

/-- Send a queue operation to the hub, where it arrives 30 clk later. -/
def State.sendQueueOp (s : State) (id : Nat) (v : Inst) (push : Bool) (q a : Nat) (record : List Word) : Done :=
  let k := s.newId
  let s := { k.2 with queueOps := putA k.2.queueOps k.1 {
    inst := id, ctx := v.place.ctx, push, queue := q, record, addr := a, ok := false } }
  .wait ((s.countRequest v.place.ctx).scheduleArrival (s.clk + 30) (.queueOpArrival k.1)) (.queueOp k.1)

/-- `qpush` (R280): the granule at xA. -/
def execQpush (f : ZForm) (s : State) : Host.Outcome State Fault Refusal :=
  issue (.qpush f) (fun s id v =>
    match scratchAt (v.regs.getX f.a).toInt 64 64 with
    | .error t => .trap s t
    | .ok a =>
      if s.ownPoisoned v a 64 then .trap s dataError
      else
        let bs := s.sideBytes v v.place.cell a 64
        s.sendQueueOp id v true (bits f.code 3 0) a
          ((List.range 8).map fun i => BitVec.ofNat 64 (wordOfBytes ((bs.drop (8 * i)).take 8)))) s

/-- `qpop` (R280). -/
def execQpop (f : ZForm) (s : State) : Host.Outcome State Fault Refusal :=
  issue (.qpop f) (fun s id v =>
    match scratchAt (v.regs.getX f.a).toInt 64 64 with
    | .error t => .trap s t
    | .ok a => s.sendQueueOp id v false (bits f.code 3 0) a []) s

/-- The time from issue to reply when a ring at an address takes part. -/
def ringReply (a : Nat) : Nat := if spaceOf a ≤ 1 then 460 else 1560

/-- A user queue of a context. -/
def Ctx.userQueue (x : Ctx) (q : Nat) : List (List Word) := if q = 6 then x.queue6 else x.queue7

/-- Set a user queue. -/
def Ctx.setUserQueue (x : Ctx) (q : Nat) (l : List (List Word)) : Ctx := if q = 6 then { x with queue6 := l } else { x with queue7 := l }

/-- Records of a user queue that are in the hub, those that an uncommitted `qpop` holds among them (R383). -/
def Ctx.userCount (x : Ctx) (q : Nat) : Nat := (x.userQueue q).length + (x.held.filter fun h => h.1 = q).length

/-- What the hub does with a queue operation: the state, whether it is accepted, the record that a pop takes, and the time
from issue to reply (R280). -/
def State.queueOp (s : State) (op : QueueOp) : State × Bool × List Word × Nat :=
  let c := op.ctx
  let x := s.ctx c
  let hold (r : List Word) (s : State) : State :=
    if (s.inst? op.inst).isSome then s.modCtx c fun x => { x with held := x.held ++ [(op.queue, op.inst, r)] } else s
  if op.push then
    if op.queue < 4 then
      let p := s.pushLaunch x.slot op.queue op.record
      match p.2 with
      | .die => (p.1, true, [], 60)
      | .ring a => (p.1, true, [], ringReply a)
      | .dropped => (p.1, false, [], 60)
    else if op.queue < 6 then
      let p := s.appendVirtual c op.queue op.record
      (p.1, p.2, [], ringReply (x.virtualRing op.queue))
    else if x.userCount op.queue < 32 then
      (s.modCtx c fun x => x.setUserQueue op.queue (x.userQueue op.queue ++ [op.record]), true, [], 60)
    else (s, false, [], 60)
  else if op.queue = 5 then
    match s.oldestFleet c with
    | some (i, r) => (hold [BitVec.ofNat 64 i] s, true, r, ringReply (x.virtualRing 5))
    | none => (s, false, [], ringReply (x.virtualRing 5))
  else
    match x.userQueue op.queue with
    | r :: rs =>
      if (s.inst? op.inst).isSome then (hold r (s.modCtx c fun x => x.setUserQueue op.queue rs), true, r, 60) else (s, false, [], 60)
    | [] => (s, false, [], 60)

/-- The first far byte that a queue operation touches, when it touches far memory. -/
def State.queueOpAddr (s : State) (op : QueueOp) : Option Nat :=
  let x := s.ctx op.ctx
  if op.queue < 4 then ((s.part x.slot).queue op.queue).spillsTo
  else if op.queue < 6 then some (x.virtualRing op.queue) else none

/-- QUEUE_OP_ARRIVAL (R280): a record or a pop reaches the hub, 30 clk after issue. -/
def execQueueOpArrival (k : Nat) (s : State) : Host.Outcome State Fault Refusal :=
  match lookupA s.queueOps k with
  | none => .next s
  | some op =>
    match s.queueOpAddr op with
    | some a =>
      if !farExists a 64 then .fault (.noSuchFarAddress a)
      else
        let r := s.queueOp op
        .next ({ r.1 with queueOps := putA r.1.queueOps k { op with ok := r.2.1, record := r.2.2.1 } }.schedule
          (s.clk + r.2.2.2 - 30) (.queueReply k))
    | none =>
      let r := s.queueOp op
      .next ({ r.1 with queueOps := putA r.1.queueOps k { op with ok := r.2.1, record := r.2.2.1 } }.schedule
        (s.clk + r.2.2.2 - 30) (.queueReply k))

/-- QUEUE_REPLY (R280, R401): the reply reaches the stalled instance. An accepted push engages its segment; a pop's record is
written to scratch. A segment that pre-emption has kept for the reply is discarded when the reply is 1. -/
def execQueueReply (k : Nat) (s : State) : Host.Outcome State Fault Refusal :=
  match lookupA s.queueOps k with
  | none => .next s
  | some op =>
    let s := { s with queueOps := delA s.queueOps k }
    match s.inst? op.inst with
    | none => .next s
    | some v =>
      match s.pendingInstr v with
      | some (.qpush f) =>
        let s := if op.ok then s.engage v.place.seg else s
        let s := s.complete op.inst (.qpush f) fun r => r.setX f.d (if op.ok then 0#64 else 1#64)
        if !op.ok && (s.part v.place.slot).preempt.isSome &&
            !(match lookupA s.segs v.place.seg with | some g => g.engaged | none => false) then
          .next (s.discard v.place.seg)
        else .next s
      | some (.qpop f) =>
        if !op.ok then .next (s.complete op.inst (.qpop f) fun r => r.setX f.d 1#64)
        else
          match s.store op.inst v op.addr (op.record.flatMap fun w => bytesOfWord 8 w.toNat) with
          | .error t => .next (s.takeTrap op.inst t)
          | .ok s => .next (s.complete op.inst (.qpop f) fun r => r.setX f.d 0#64)
      | _ => .next s

end Sys2Proof.Machine
end

