-- ==== Sys2Proof/Machine/VectorOps.lean ====
section
/-!
DEFINITION. Machine/VectorOps.lean: the vector instructions, primaries 0x40 to 0x5B and 0x60 to 0x69 (08 R164 to R184).
-/

namespace Sys2Proof.Machine

/-- Lane j of a vector register as a number. -/
def Regs.laneN (r : Regs) (n j : Nat) : Nat := ((r.getV n).lane j).toNat

/-- A lane-wise operation under merge: a selected lane is computed when every source lane is valid, and is 0 and invalid
otherwise (08 R165, R166, R170). `srcs` are the source registers. -/
def laneWise (f : RForm) (latency : Nat) (srcs : List Nat) (g : Regs → Nat → Nat) : State → Nat → Inst → Done :=
  regEffect latency fun v =>
    let ok (j : Nat) : Bool := srcs.all fun n => (v.regs.getV n).ok j
    v.regs.mergeV f.d (v.regs.selects f.mask f.neg) (fun j => if ok j then BitVec.ofNat 32 (g v.regs j) else 0#32) ok

/-- A lane function of two operands by type: on f32 data, or on the integers read and written by the type. -/
def lane2 (t : Ty) (ff : Fp → Fp → Fp) (fi : Int → Int → Int) (a b : Nat) : Nat :=
  if t = .f32 then f32Bits (ff (f32 a) (f32 b)) else writeInt t 32 (fi (readInt t a) (readInt t b))

/-- The latency of a form: 4 clk for f32 arithmetic, 2 clk for integers (01 R15). -/
def arithLatency (t : Ty) : Nat := if t = .f32 then 4 else 2

/-- `vadd` (08 R170). -/
def execVadd (f : RForm) (s : State) : Host.Outcome State Fault Refusal :=
  issue (.vadd f) (laneWise f (arithLatency f.ty) [f.a, f.b] fun r j => lane2 f.ty Fp.add (· + ·) (r.laneN f.a j) (r.laneN f.b j)) s

/-- `vsub` (08 R170). -/
def execVsub (f : RForm) (s : State) : Host.Outcome State Fault Refusal :=
  issue (.vsub f) (laneWise f (arithLatency f.ty) [f.a, f.b] fun r j =>
    lane2 f.ty (fun a b => a.add b.opp) (· - ·) (r.laneN f.a j) (r.laneN f.b j)) s

/-- `vmul` (08 R170). -/
def execVmul (f : RForm) (s : State) : Host.Outcome State Fault Refusal :=
  issue (.vmul f) (laneWise f (arithLatency f.ty) [f.a, f.b] fun r j => lane2 f.ty Fp.mul (· * ·) (r.laneN f.a j) (r.laneN f.b j)) s

/-- A fused form on lanes A, B and C with one rounding (08 R171). -/
def fused (f : RForm) (g : Fp → Fp → Fp → Fp) : State → Nat → Inst → Done :=
  laneWise f 4 [f.a, f.b, f.c] fun r j => f32Bits (g (f32 (r.laneN f.a j)) (f32 (r.laneN f.b j)) (f32 (r.laneN f.c j)))

/-- `vfma` (08 R170, R171). -/
def execVfma (f : RForm) (s : State) : Host.Outcome State Fault Refusal := issue (.vfma f) (fused f fun a b c => Fp.fma a b c) s

/-- `vfms` (08 R170, R171). -/
def execVfms (f : RForm) (s : State) : Host.Outcome State Fault Refusal :=
  issue (.vfms f) (fused f fun a b c => Fp.fma a b c.opp) s

/-- `vfnma` (08 R170, R171): C − A × B. -/
def execVfnma (f : RForm) (s : State) : Host.Outcome State Fault Refusal :=
  issue (.vfnma f) (fused f fun a b c => Fp.fma a.opp b c) s

/-- `vmin` (08 R170). -/
def execVmin (f : RForm) (s : State) : Host.Outcome State Fault Refusal :=
  issue (.vmin f) (laneWise f 2 [f.a, f.b] fun r j => lane2 f.ty Fp.min min (r.laneN f.a j) (r.laneN f.b j)) s

/-- `vmax` (08 R170). -/
def execVmax (f : RForm) (s : State) : Host.Outcome State Fault Refusal :=
  issue (.vmax f) (laneWise f 2 [f.a, f.b] fun r j => lane2 f.ty Fp.max max (r.laneN f.a j) (r.laneN f.b j)) s

/-- |A| of a datum; a NaN gives the canonical NaN. -/
def Fp.absolute : Fp → Fp
  | .nan => .nan
  | .inf _ => .inf false
  | .fin a => .fin a.abs

/-- `vabs` (08 R170): −2^(w−1) gives itself. -/
def execVabs (f : RForm) (s : State) : Host.Outcome State Fault Refusal :=
  issue (.vabs f) (laneWise f 2 [f.a] fun r j =>
    lane2 f.ty (fun a _ => Fp.absolute a) (fun a _ => (a.natAbs : Int)) (r.laneN f.a j) 0) s

/-- `vneg` (08 R170): −2^(w−1) gives itself. -/
def execVneg (f : RForm) (s : State) : Host.Outcome State Fault Refusal :=
  issue (.vneg f) (laneWise f 2 [f.a] fun r j => lane2 f.ty (fun a _ => a.opp) (fun a _ => -a) (r.laneN f.a j) 0) s

/-- `vand` (08 R170). -/
def execVand (f : RForm) (s : State) : Host.Outcome State Fault Refusal :=
  issue (.vand f) (laneWise f 2 [f.a, f.b] fun r j => r.laneN f.a j &&& r.laneN f.b j) s

/-- `vor` (08 R170). -/
def execVor (f : RForm) (s : State) : Host.Outcome State Fault Refusal :=
  issue (.vor f) (laneWise f 2 [f.a, f.b] fun r j => r.laneN f.a j ||| r.laneN f.b j) s

/-- `vxor` (08 R170). -/
def execVxor (f : RForm) (s : State) : Host.Outcome State Fault Refusal :=
  issue (.vxor f) (laneWise f 2 [f.a, f.b] fun r j => r.laneN f.a j ^^^ r.laneN f.b j) s

/-- The shift count: lane j of B, bits [w−1:0] unsigned, mod w (08 R170). -/
def laneCount (t : Ty) (b : Nat) : Nat := b % 2 ^ Ty.width t % Ty.width t

/-- `vshl` (08 R170). -/
def execVshl (f : RForm) (s : State) : Host.Outcome State Fault Refusal :=
  issue (.vshl f) (laneWise f 2 [f.a, f.b] fun r j =>
    writeInt f.ty 32 (readInt f.ty (r.laneN f.a j) * (2 ^ laneCount f.ty (r.laneN f.b j) : Nat))) s

/-- `vshr` (08 R170). -/
def execVshr (f : RForm) (s : State) : Host.Outcome State Fault Refusal :=
  issue (.vshr f) (laneWise f 2 [f.a, f.b] fun r j =>
    writeInt f.ty 32 ((readInt f.ty (r.laneN f.a j)).fdiv (2 ^ laneCount f.ty (r.laneN f.b j) : Nat))) s

/-- `vclamp` (08 R170): min(max(A, B), C). -/
def execVclamp (f : RForm) (s : State) : Host.Outcome State Fault Refusal :=
  issue (.vclamp f) (laneWise f 2 [f.a, f.b, f.c] fun r j =>
    lane2 f.ty Fp.min min (lane2 f.ty Fp.max max (r.laneN f.a j) (r.laneN f.b j)) (r.laneN f.c j)) s

/-- The 16-bit value whose bit j is `b j`. -/
def maskOf (b : Nat → Bool) : BitVec 16 :=
  (List.range 16).foldl (fun w j => if b j then w ||| (1#16 <<< j) else w) 0#16

/-- `vcmp` (08 R172): every bit is written; an unselected or invalid lane gives 0. -/
def execVcmp (f : RForm) (s : State) : Host.Outcome State Fault Refusal :=
  issue (.vcmp f) (regEffect 2 fun v =>
    v.regs.setK f.d (maskOf fun j => v.regs.selects f.mask f.neg j && (v.regs.getV f.a).ok j && (v.regs.getV f.b).ok j &&
      laneHolds f.fn f.ty (v.regs.laneN f.a j) (v.regs.laneN f.b j))) s

/-- `vsel` (08 R173): the mask chooses between the sources, with their valid bits. -/
def execVsel (f : RForm) (s : State) : Host.Outcome State Fault Refusal :=
  issue (.vsel f) (regEffect 2 fun v =>
    let src (j : Nat) : VecVal := if v.regs.selects f.mask f.neg j then v.regs.getV f.a else v.regs.getV f.b
    v.regs.setV f.d (VecVal.ofFn (fun j => (src j).lane j) (fun j => (src j).ok j))) s

/-- `vshuf` (08 R174). -/
def execVshuf (f : RForm) (s : State) : Host.Outcome State Fault Refusal :=
  issue (.vshuf f) (regEffect 2 fun v =>
    let idx (j : Nat) : Nat := v.regs.laneN f.b j % 16
    v.regs.mergeV f.d (v.regs.selects f.mask f.neg) (fun j => (v.regs.getV f.a).lane (idx j))
      (fun j => (v.regs.getV f.b).ok j && (v.regs.getV f.a).ok (idx j))) s

/-- The source of lane j of a permutation: register A (false) or B (true) and a lane, or none (08 R175). -/
def permSource (pat sh j : Nat) : Option (Bool × Nat) :=
  match pat with
  | 0 => some (false, (j + sh) % 16)
  | 1 => if j + sh ≤ 15 then some (false, j + sh) else none
  | 2 => if sh ≤ j then some (false, j - sh) else none
  | 3 => some (false, 15 - j)
  | 4 => some (j % 2 = 1, j / 2)
  | 5 => some (j % 2 = 1, 8 + j / 2)
  | 6 => some (8 ≤ j, 2 * (j % 8))
  | _ => some (8 ≤ j, 2 * (j % 8) + 1)

/-- `vperm` (08 R175). -/
def execVperm (f : RForm) (s : State) : Host.Outcome State Fault Refusal :=
  issue (.vperm f) (regEffect 2 fun v =>
    let at_ (j : Nat) : Option (Bool × Nat) := permSource (bits f.fn 7 4) (bits f.fn 3 0) j
    let reg (b : Bool) : VecVal := v.regs.getV (if b then f.b else f.a)
    v.regs.mergeV f.d (v.regs.selects f.mask f.neg)
      (fun j => match at_ j with | some (b, i) => (reg b).lane i | none => 0#32)
      (fun j => match at_ j with | some (b, i) => (reg b).ok i | none => false)) s

/-- A lane of bits [w−1:0] of a value, extended by type (08 R164, R176). -/
def broadcastLane (t : Ty) (w : Nat) : Lane :=
  if t = .f32 then BitVec.ofNat 32 w else BitVec.ofNat 32 (writeInt t 32 (readInt t w))

/-- `vbcast` (08 R176). -/
def execVbcast (f : RForm) (s : State) : Host.Outcome State Fault Refusal :=
  issue (.vbcast f) (regEffect 2 fun v =>
    v.regs.mergeV f.d (v.regs.selects f.mask f.neg) (fun _ => broadcastLane f.ty (v.regs.getX f.a).toNat) (fun _ => true)) s

/-- `vbcasti` (08 R176). -/
def execVbcasti (f : IForm) (s : State) : Host.Outcome State Fault Refusal :=
  issue (.vbcasti f) (regEffect 2 fun v =>
    v.regs.mergeV f.d (v.regs.selects f.mask f.neg) (fun _ => broadcastLane f.ty f.imm) (fun _ => true)) s

/-- `vlane` (08 R177): 0 from an invalid lane. -/
def execVlane (f : RForm) (s : State) : Host.Outcome State Fault Refusal :=
  issue (.vlane f) (regEffect 2 fun v =>
    let j := bits f.fn 3 0
    let w := if (v.regs.getV f.a).ok j then (v.regs.getV f.a).lane j else 0#32
    v.regs.setX f.d (if f.ty = .i32 then w.signExtend 64 else w.zeroExtend 64)) s

/-- `vins` (08 R177): the other lanes follow R166. -/
def execVins (f : RForm) (s : State) : Host.Outcome State Fault Refusal :=
  issue (.vins f) (regEffect 2 fun v =>
    v.regs.mergeV f.d (fun j => j = bits f.fn 3 0) (fun _ => (v.regs.getX f.a).truncate 32) (fun _ => true)) s

/-- `vmov` (08 R178). -/
def execVmov (f : RForm) (s : State) : Host.Outcome State Fault Refusal :=
  issue (.vmov f) (regEffect 2 fun v =>
    v.regs.mergeV f.d (v.regs.selects f.mask f.neg) (fun j => (v.regs.getV f.a).lane j) (fun j => (v.regs.getV f.a).ok j)) s

/-- `vsetvalid` (08 R178). -/
def execVsetvalid (f : RForm) (s : State) : Host.Outcome State Fault Refusal :=
  issue (.vsetvalid f) (regEffect 2 fun v =>
    v.regs.setV f.d { v.regs.getV f.a with valid := v.regs.getK f.b }) s

/-- `vgetvalid` (08 R178). -/
def execVgetvalid (f : RForm) (s : State) : Host.Outcome State Fault Refusal :=
  issue (.vgetvalid f) (regEffect 2 fun v => v.regs.setK f.d (v.regs.getV f.a).valid) s

/-- The positions of a lane-wise combination: present values only. -/
def presentPairs (v : VecVal) (sel : Nat → Bool) : List (Option (Nat × Nat)) :=
  (List.range 8).map fun j =>
    if v.ok (2 * j) && v.ok (2 * j + 1) && sel (2 * j) && sel (2 * j + 1) then
      some ((v.lane (2 * j)).toNat, (v.lane (2 * j + 1)).toNat) else none

/-- `vred` (08 R179): the canonical order over lanes 0…15, or over pairs 0…7 for the affine combiner; every lane is
written valid. -/
def execVred (f : RForm) (s : State) : Host.Outcome State Fault Refusal :=
  issue (.vred f) (regEffect 6 fun v =>
    let a := v.regs.getV f.a
    let sel := v.regs.selects f.mask f.neg
    let comb := bits f.fn 3 0
    if comb = 7 then
      let r := (reduceOf affineJoin (presentPairs a sel)).getD affineIdentity
      v.regs.setV f.d (VecVal.ofFn (fun j => BitVec.ofNat 32 (if j % 2 = 0 then r.1 else r.2)) (fun _ => true))
    else
      let ps := (List.range 16).map fun j => if a.ok j && sel j then some (a.lane j).toNat else none
      let r := (reduceOf (combine comb f.ty) ps).getD (identity comb f.ty)
      v.regs.setV f.d (VecVal.ofFn (fun _ => BitVec.ofNat 32 r) (fun _ => true))) s

/-- The rounding mode of the lesson header (04 R93). -/
def Inst.mode (v : Inst) : Mode := Mode.ofCode v.hdr.round

/-- The type that a function field names. -/
def srcType (f : RForm) : Ty := (Ty.ofCode (bits f.fn 4 0)).getD .f32

/-- `vcvt` (08 R180). -/
def execVcvt (f : RForm) (s : State) : Host.Outcome State Fault Refusal :=
  issue (.vcvt f) (fun s id v => laneWise f 4 [f.a] (fun r j => convertLane v.mode (srcType f) f.ty (r.laneN f.a j)) s id v) s

/-- A special function on every lane, correctly rounded (08 R183). -/
def special (f : RForm) (g : Fp → Fp) : State → Nat → Inst → Done :=
  laneWise f 8 [f.a] fun r j => f32Bits (g (f32 (r.laneN f.a j)))

/-- `vexp2` (08 R183). -/
def execVexp2 (f : RForm) (s : State) : Host.Outcome State Fault Refusal := issue (.vexp2 f) (special f exp2Fp) s
/-- `vlog2` (08 R183). -/
def execVlog2 (f : RForm) (s : State) : Host.Outcome State Fault Refusal := issue (.vlog2 f) (special f log2Fp) s
/-- `vrcp` (08 R183). -/
def execVrcp (f : RForm) (s : State) : Host.Outcome State Fault Refusal := issue (.vrcp f) (special f rcpFp) s
/-- `vrsqrt` (08 R183). -/
def execVrsqrt (f : RForm) (s : State) : Host.Outcome State Fault Refusal := issue (.vrsqrt f) (special f rsqrtFp) s
/-- `vsigm` (08 R183). -/
def execVsigm (f : RForm) (s : State) : Host.Outcome State Fault Refusal := issue (.vsigm f) (special f sigmFp) s
/-- `vtanh` (08 R183). -/
def execVtanh (f : RForm) (s : State) : Host.Outcome State Fault Refusal := issue (.vtanh f) (special f tanhFp) s
/-- `vsoftp` (08 R183). -/
def execVsoftp (f : RForm) (s : State) : Host.Outcome State Fault Refusal := issue (.vsoftp f) (special f softpFp) s

/-- The type that `vpack` reads its sources as (08 R181). -/
def packSource (t : Ty) : Ty := if Ty.isFloat t then .f32 else if Ty.isSigned t then .i32 else .n32

/-- `vpack` (08 R181): 32 elements in memory order; a packed lane is valid when all its elements are. -/
def execVpack (f : RForm) (s : State) : Host.Outcome State Fault Refusal :=
  issue (.vpack f) (regEffect 4 fun v =>
    let reg (e : Nat) : VecVal := v.regs.getV (if e < 16 then f.a else f.b)
    let elem (e : Nat) : Nat := convertLane v.mode (packSource f.ty) f.ty ((reg e).lane (e % 16)).toNat % 2 ^ Ty.width f.ty
    let ok (e : Nat) : Bool := (reg e).ok (e % 16)
    if Ty.width f.ty = 16 then
      let ok2 (j : Nat) : Bool := ok (2 * j) && ok (2 * j + 1)
      v.regs.setV f.d (VecVal.ofFn
        (fun j => if ok2 j then BitVec.ofNat 32 (elem (2 * j) + elem (2 * j + 1) * 2 ^ 16) else 0#32) ok2)
    else
      let h := bits f.fn 0 0
      let ok4 (i : Nat) : Bool := ok (4 * i) && ok (4 * i + 1) && ok (4 * i + 2) && ok (4 * i + 3)
      v.regs.mergeV f.d (fun j => j / 8 = h)
        (fun j => let i := j % 8
          if ok4 i then BitVec.ofNat 32 (elem (4 * i) + elem (4 * i + 1) * 2 ^ 8 + elem (4 * i + 2) * 2 ^ 16 +
            elem (4 * i + 3) * 2 ^ 24) else 0#32)
        (fun j => ok4 (j % 8))) s

/-- `vunpack` (08 R182): element 16p + j, widened exactly, with the valid bit of the lane that held it; an invalid lane is
0 (R165). -/
def execVunpack (f : RForm) (s : State) : Host.Outcome State Fault Refusal :=
  issue (.vunpack f) (regEffect 4 fun v =>
    let st := srcType f
    let w := Ty.width st
    let per := 32 / w
    let p := bits f.fn 6 5
    let src (j : Nat) : Nat := (16 * p + j) / per
    v.regs.mergeV f.d (v.regs.selects f.mask f.neg)
      (fun j => if (v.regs.getV f.a).ok (src j) then
        BitVec.ofNat 32 (convertLane .rne st f.ty (v.regs.laneN f.a (src j) / 2 ^ (w * ((16 * p + j) % per)))) else 0#32)
      (fun j => (v.regs.getV f.a).ok (src j))) s

end Sys2Proof.Machine
end

