-- ==== Sys2Proof/Machine/Dispatch.lean ====
section
/-!
DEFINITION. Machine/Dispatch.lean: the meaning of each step, one arm per constructor of `Instr`.
-/

namespace Sys2Proof.Machine

/-- What a step does: one direct call of its meaning. -/
def exec (i : Instr) (s : State) : Host.Outcome State Fault Refusal :=
  match i with
  | .add f => Sys2Proof.Machine.execAdd f s
  | .sub f => Sys2Proof.Machine.execSub f s
  | .mul f => Sys2Proof.Machine.execMul f s
  | .mulh f => Sys2Proof.Machine.execMulh f s
  | .div f => Sys2Proof.Machine.execDiv f s
  | .rem f => Sys2Proof.Machine.execRem f s
  | .and f => Sys2Proof.Machine.execAnd f s
  | .or f => Sys2Proof.Machine.execOr f s
  | .xor f => Sys2Proof.Machine.execXor f s
  | .shl f => Sys2Proof.Machine.execShl f s
  | .shr f => Sys2Proof.Machine.execShr f s
  | .cmpset f => Sys2Proof.Machine.execCmpset f s
  | .sel f => Sys2Proof.Machine.execSel f s
  | .min f => Sys2Proof.Machine.execMin f s
  | .max f => Sys2Proof.Machine.execMax f s
  | .adda f => Sys2Proof.Machine.execAdda f s
  | .addi f => Sys2Proof.Machine.execAddi f s
  | .muli f => Sys2Proof.Machine.execMuli f s
  | .li f => Sys2Proof.Machine.execLi f s
  | .lih f => Sys2Proof.Machine.execLih f s
  | .andi f => Sys2Proof.Machine.execAndi f s
  | .ori f => Sys2Proof.Machine.execOri f s
  | .xori f => Sys2Proof.Machine.execXori f s
  | .shli f => Sys2Proof.Machine.execShli f s
  | .shri f => Sys2Proof.Machine.execShri f s
  | .cmpseti f => Sys2Proof.Machine.execCmpseti f s
  | .rdsr f => Sys2Proof.Machine.execRdsr f s
  | .mini f => Sys2Proof.Machine.execMini f s
  | .maxi f => Sys2Proof.Machine.execMaxi f s
  | .addai f => Sys2Proof.Machine.execAddai f s
  | .b f => Sys2Proof.Machine.execB f s
  | .j f => Sys2Proof.Machine.execJ f s
  | .loop f => Sys2Proof.Machine.execLoop f s
  | .lexit f => Sys2Proof.Machine.execLexit f s
  | .wfill f => Sys2Proof.Machine.execWfill f s
  | .wfree f => Sys2Proof.Machine.execWfree f s
  | .rdlc f => Sys2Proof.Machine.execRdlc f s
  | .kand f => Sys2Proof.Machine.execKand f s
  | .kor f => Sys2Proof.Machine.execKor f s
  | .kxor f => Sys2Proof.Machine.execKxor f s
  | .knot f => Sys2Proof.Machine.execKnot f s
  | .kmov f => Sys2Proof.Machine.execKmov f s
  | .kread f => Sys2Proof.Machine.execKread f s
  | .kpop f => Sys2Proof.Machine.execKpop f s
  | .kfirst f => Sys2Proof.Machine.execKfirst f s
  | .vadd f => Sys2Proof.Machine.execVadd f s
  | .vsub f => Sys2Proof.Machine.execVsub f s
  | .vmul f => Sys2Proof.Machine.execVmul f s
  | .vfma f => Sys2Proof.Machine.execVfma f s
  | .vfms f => Sys2Proof.Machine.execVfms f s
  | .vfnma f => Sys2Proof.Machine.execVfnma f s
  | .vmin f => Sys2Proof.Machine.execVmin f s
  | .vmax f => Sys2Proof.Machine.execVmax f s
  | .vabs f => Sys2Proof.Machine.execVabs f s
  | .vneg f => Sys2Proof.Machine.execVneg f s
  | .vand f => Sys2Proof.Machine.execVand f s
  | .vor f => Sys2Proof.Machine.execVor f s
  | .vxor f => Sys2Proof.Machine.execVxor f s
  | .vshl f => Sys2Proof.Machine.execVshl f s
  | .vshr f => Sys2Proof.Machine.execVshr f s
  | .vclamp f => Sys2Proof.Machine.execVclamp f s
  | .vcmp f => Sys2Proof.Machine.execVcmp f s
  | .vsel f => Sys2Proof.Machine.execVsel f s
  | .vshuf f => Sys2Proof.Machine.execVshuf f s
  | .vperm f => Sys2Proof.Machine.execVperm f s
  | .vbcast f => Sys2Proof.Machine.execVbcast f s
  | .vbcasti f => Sys2Proof.Machine.execVbcasti f s
  | .vlane f => Sys2Proof.Machine.execVlane f s
  | .vins f => Sys2Proof.Machine.execVins f s
  | .vred f => Sys2Proof.Machine.execVred f s
  | .vmov f => Sys2Proof.Machine.execVmov f s
  | .vsetvalid f => Sys2Proof.Machine.execVsetvalid f s
  | .vgetvalid f => Sys2Proof.Machine.execVgetvalid f s
  | .vcvt f => Sys2Proof.Machine.execVcvt f s
  | .vexp2 f => Sys2Proof.Machine.execVexp2 f s
  | .vlog2 f => Sys2Proof.Machine.execVlog2 f s
  | .vrcp f => Sys2Proof.Machine.execVrcp f s
  | .vrsqrt f => Sys2Proof.Machine.execVrsqrt f s
  | .vsigm f => Sys2Proof.Machine.execVsigm f s
  | .vtanh f => Sys2Proof.Machine.execVtanh f s
  | .vsoftp f => Sys2Proof.Machine.execVsoftp f s
  | .vpack f => Sys2Proof.Machine.execVpack f s
  | .vunpack f => Sys2Proof.Machine.execVunpack f s
  | .wld f => Sys2Proof.Machine.execWld f s
  | .wcmp f => Sys2Proof.Machine.execWcmp f s
  | .thdr f => Sys2Proof.Machine.execThdr f s
  | .mma f => Sys2Proof.Machine.execMma f s
  | .mmaAccumulatorReady inst acc => Sys2Proof.Machine.execMmaAccumulatorReady inst acc s
  | .gangon f => Sys2Proof.Machine.execGangon f s
  | .accrd f => Sys2Proof.Machine.execAccrd f s
  | .accwr f => Sys2Proof.Machine.execAccwr f s
  | .acczero f => Sys2Proof.Machine.execAcczero f s
  | .acccvt f => Sys2Proof.Machine.execAcccvt f s
  | .quant f => Sys2Proof.Machine.execQuant f s
  | .quantb f => Sys2Proof.Machine.execQuantb f s
  | .tew f => Sys2Proof.Machine.execTew f s
  | .settle f => Sys2Proof.Machine.execSettle f s
  | .talloc f => Sys2Proof.Machine.execTalloc f s
  | .tfree f => Sys2Proof.Machine.execTfree f s
  | .sred f => Sys2Proof.Machine.execSred f s
  | .sscan f => Sys2Proof.Machine.execSscan f s
  | .scav f => Sys2Proof.Machine.execScav f s
  | .sbcast f => Sys2Proof.Machine.execSbcast f s
  | .srank f => Sys2Proof.Machine.execSrank f s
  | .sweepResult seg k => Sys2Proof.Machine.execSweepResult seg k s
  | .fwd f => Sys2Proof.Machine.execFwd f s
  | .rcv f => Sys2Proof.Machine.execRcv f s
  | .neighbourArrival inst fromLeft v => Sys2Proof.Machine.execNeighbourArrival inst fromLeft v s
  | .need f => Sys2Proof.Machine.execNeed f s
  | .needSweepComplete seg => Sys2Proof.Machine.execNeedSweepComplete seg s
  | .emit f => Sys2Proof.Machine.execEmit f s
  | .symrd f => Sys2Proof.Machine.execSymrd f s
  | .symbld f => Sys2Proof.Machine.execSymbld f s
  | .symget f => Sys2Proof.Machine.execSymget f s
  | .unfold f => Sys2Proof.Machine.execUnfold f s
  | .unfoldRequestArrival inst q a => Sys2Proof.Machine.execUnfoldRequestArrival inst q a s
  | .park f => Sys2Proof.Machine.execPark f s
  | .fetch f => Sys2Proof.Machine.execFetch f s
  | .vld f => Sys2Proof.Machine.execVld f s
  | .vst f => Sys2Proof.Machine.execVst f s
  | .sld f => Sys2Proof.Machine.execSld f s
  | .sst f => Sys2Proof.Machine.execSst f s
  | .vgath f => Sys2Proof.Machine.execVgath f s
  | .vscat f => Sys2Proof.Machine.execVscat f s
  | .rpush f => Sys2Proof.Machine.execRpush f s
  | .rpop f => Sys2Proof.Machine.execRpop f s
  | .ratom f => Sys2Proof.Machine.execRatom f s
  | .tld f => Sys2Proof.Machine.execTld f s
  | .rinit f => Sys2Proof.Machine.execRinit f s
  | .copy f => Sys2Proof.Machine.execCopy f s
  | .copyred f => Sys2Proof.Machine.execCopyred f s
  | .pref f => Sys2Proof.Machine.execPref f s
  | .tsend f => Sys2Proof.Machine.execTsend f s
  | .ctrset f => Sys2Proof.Machine.execCtrset f s
  | .ctradd f => Sys2Proof.Machine.execCtradd f s
  | .ctrrd f => Sys2Proof.Machine.execCtrrd f s
  | .ctrwait f => Sys2Proof.Machine.execCtrwait f s
  | .smark f => Sys2Proof.Machine.execSmark f s
  | .fence f => Sys2Proof.Machine.execFence f s
  | .fld f => Sys2Proof.Machine.execFld f s
  | .farReadReply req => Sys2Proof.Machine.execFarReadReply req s
  | .fst f => Sys2Proof.Machine.execFst f s
  | .aadd f => Sys2Proof.Machine.execAadd f s
  | .amin f => Sys2Proof.Machine.execAmin f s
  | .amax f => Sys2Proof.Machine.execAmax f s
  | .axchg f => Sys2Proof.Machine.execAxchg f s
  | .acas f => Sys2Proof.Machine.execAcas f s
  | .aand f => Sys2Proof.Machine.execAand f s
  | .aor f => Sys2Proof.Machine.execAor f s
  | .pacq f => Sys2Proof.Machine.execPacq f s
  | .prel f => Sys2Proof.Machine.execPrel f s
  | .bell f => Sys2Proof.Machine.execBell f s
  | .scld f => Sys2Proof.Machine.execScld f s
  | .scst f => Sys2Proof.Machine.execScst f s
  | .scrmw f => Sys2Proof.Machine.execScrmw f s
  | .pqry f => Sys2Proof.Machine.execPqry f s
  | .syncOpPerformed op => Sys2Proof.Machine.execSyncOpPerformed op s
  | .syncReply op => Sys2Proof.Machine.execSyncReply op s
  | .bellComplete bell => Sys2Proof.Machine.execBellComplete bell s
  | .passHandoff ctx pass => Sys2Proof.Machine.execPassHandoff ctx pass s
  | .batonHop engine => Sys2Proof.Machine.execBatonHop engine s
  | .logmark f => Sys2Proof.Machine.execLogmark f s
  | .gacc f => Sys2Proof.Machine.execGacc f s
  | .opsave f => Sys2Proof.Machine.execOpsave f s
  | .oprecomp f => Sys2Proof.Machine.execOprecomp f s
  | .logrd f => Sys2Proof.Machine.execLogrd f s
  | .recq f => Sys2Proof.Machine.execRecq f s
  | .trap f => Sys2Proof.Machine.execTrap f s
  | .syscall f => Sys2Proof.Machine.execSyscall f s
  | .cfgrd f => Sys2Proof.Machine.execCfgrd f s
  | .cfgwr f => Sys2Proof.Machine.execCfgwr f s
  | .brk f => Sys2Proof.Machine.execBrk f s
  | .pcrd f => Sys2Proof.Machine.execPcrd f s
  | .qpush f => Sys2Proof.Machine.execQpush f s
  | .qpop f => Sys2Proof.Machine.execQpop f s
  | .queueOpArrival op => Sys2Proof.Machine.execQueueOpArrival op s
  | .sleep f => Sys2Proof.Machine.execSleep f s
  | .evsig f => Sys2Proof.Machine.execEvsig f s
  | .rdclk f => Sys2Proof.Machine.execRdclk f s
  | .debugResume inst => Sys2Proof.Machine.execDebugResume inst s
  | .discoverySweep slot => Sys2Proof.Machine.execDiscoverySweep slot s
  | .shiftWave slot => Sys2Proof.Machine.execShiftWave slot s
  | .waveComplete slot => Sys2Proof.Machine.execWaveComplete slot s
  | .expressionPlaced launch => Sys2Proof.Machine.execExpressionPlaced launch s
  | .parkWriteComplete slot => Sys2Proof.Machine.execParkWriteComplete slot s
  | .unparkComplete slot => Sys2Proof.Machine.execUnparkComplete slot s
  | .tidyCopyComplete slot => Sys2Proof.Machine.execTidyCopyComplete slot s
  | .lessonImageReceived seg seat => Sys2Proof.Machine.execLessonImageReceived seg seat s
  | .loadReportsCollected seg => Sys2Proof.Machine.execLoadReportsCollected seg s
  | .switchBeat seg => Sys2Proof.Machine.execSwitchBeat seg s
  | .segmentCommit seg => Sys2Proof.Machine.execSegmentCommit seg s
  | .commitComplete seg => Sys2Proof.Machine.execCommitComplete seg s
  | .completionRecordWrite launch => Sys2Proof.Machine.execCompletionRecordWrite launch s
  | .copyStart quarter engine => Sys2Proof.Machine.execCopyStart quarter engine s
  | .ringFillEntry cmd => Sys2Proof.Machine.execRingFillEntry cmd s
  | .farWritePerformed w => Sys2Proof.Machine.execFarWritePerformed w s
  | .copyComplete cmd => Sys2Proof.Machine.execCopyComplete cmd s
  | .counterIncrement ctx counter => Sys2Proof.Machine.execCounterIncrement ctx counter s
  | .counterUpdateApplied ctx counter set value => Sys2Proof.Machine.execCounterUpdateApplied ctx counter set value s
  | .peerWriteArrival w => Sys2Proof.Machine.execPeerWriteArrival w s
  | .agentAppend ctx queue rec => Sys2Proof.Machine.execAgentAppend ctx queue rec s
  | .preemptDecision slot => Sys2Proof.Machine.execPreemptDecision slot s
  | .turnExpiry slot => Sys2Proof.Machine.execTurnExpiry slot s
  | .preemptionTimeout slot began => Sys2Proof.Machine.execPreemptionTimeout slot began s
  | .waitTimeout inst began => Sys2Proof.Machine.execWaitTimeout inst began s
  | .rollCallWave slot => Sys2Proof.Machine.execRollCallWave slot s
  | .contextSwitchComplete slot => Sys2Proof.Machine.execContextSwitchComplete slot s
  | .limiterStep quarter => Sys2Proof.Machine.execLimiterStep quarter s
  | .queuePush slot queue rec => Sys2Proof.Machine.execQueuePush slot queue rec s
  | .virtualQueuePush slot queue rec => Sys2Proof.Machine.execVirtualQueuePush slot queue rec s
  | .spillBaseWrite slot queue value => Sys2Proof.Machine.execSpillBaseWrite slot queue value s
  | .spillSizeWrite slot queue value => Sys2Proof.Machine.execSpillSizeWrite slot queue value s
  | .recordAtHead slot queue => Sys2Proof.Machine.execRecordAtHead slot queue s
  | .dependenceEntry launch => Sys2Proof.Machine.execDependenceEntry launch s
  | .leaseSetupComplete launch => Sys2Proof.Machine.execLeaseSetupComplete launch s
  | .pageRewalk launch => Sys2Proof.Machine.execPageRewalk launch s
  | .leaseTimeout launch => Sys2Proof.Machine.execLeaseTimeout launch s
  | .contextBlockAddressWrite ctx value => Sys2Proof.Machine.execContextBlockAddressWrite ctx value s
  | .create ctx => Sys2Proof.Machine.execCreate ctx s
  | .destroy ctx => Sys2Proof.Machine.execDestroy ctx s
  | .resetCounters ctx => Sys2Proof.Machine.execResetCounters ctx s
  | .cancelSends ctx => Sys2Proof.Machine.execCancelSends ctx s
  | .suspend ctx => Sys2Proof.Machine.execSuspend ctx s
  | .resume ctx => Sys2Proof.Machine.execResume ctx s
  | .idleGateEntry slot => Sys2Proof.Machine.execIdleGateEntry slot s
  | .powerCapWrite value => Sys2Proof.Machine.execPowerCapWrite value s
  | .partitionLayoutWrite value => Sys2Proof.Machine.execPartitionLayoutWrite value s
  | .partitionResetWrite value => Sys2Proof.Machine.execPartitionResetWrite value s
  | .formatChoiceWrite value => Sys2Proof.Machine.execFormatChoiceWrite value s
  | .linkTraining plane => Sys2Proof.Machine.execLinkTraining plane s
  | .forwardedRecord plane fabric rec => Sys2Proof.Machine.execForwardedRecord plane fabric rec s
  | .collectiveStepComplete coll => Sys2Proof.Machine.execCollectiveStepComplete coll s
  | .collectiveHandshake coll => Sys2Proof.Machine.execCollectiveHandshake coll s
  | .parkedReply ctx coll => Sys2Proof.Machine.execParkedReply ctx coll s
  | .switchSlotLoss coll => Sys2Proof.Machine.execSwitchSlotLoss coll s
  | .memberLostTimeout coll => Sys2Proof.Machine.execMemberLostTimeout coll s
  | .linkDown plane => Sys2Proof.Machine.execLinkDown plane s
  | .uncorrectableError store => Sys2Proof.Machine.execUncorrectableError store s
  | .cxlMemAccess addr write bytes => Sys2Proof.Machine.execCxlMemAccess addr write bytes s
  | .registerWrite offset value => Sys2Proof.Machine.execRegisterWrite offset value s
  | .illegalInstruction word => Sys2Proof.Machine.execIllegalInstruction word s
  | .queueReply op => Sys2Proof.Machine.execQueueReply op s
  | .copySourceRead cmd => Sys2Proof.Machine.execCopySourceRead cmd s
  | .correctableError store => Sys2Proof.Machine.execCorrectableError store s
  | .haltedInstanceRegisterWrite inst cls reg value => Sys2Proof.Machine.execHaltedInstanceRegisterWrite inst cls reg value s
  | .done => Sys2Proof.Machine.execDone s
  | .gangoff => Sys2Proof.Machine.execGangoff s
  | .commit => Sys2Proof.Machine.execCommit s
  | .nop => Sys2Proof.Machine.execNop s
  | .capControl => Sys2Proof.Machine.execCapControl s
  | .powerOnBoot => Sys2Proof.Machine.execPowerOnBoot s
  | .verifyImage => Sys2Proof.Machine.execVerifyImage s
  | .writeFlash => Sys2Proof.Machine.execWriteFlash s
  | .presentDebugToken => Sys2Proof.Machine.execPresentDebugToken s
  | .rollbackRaise => Sys2Proof.Machine.execRollbackRaise s
  | .getVersion => Sys2Proof.Machine.execGetVersion s
  | .getCapabilities => Sys2Proof.Machine.execGetCapabilities s
  | .negotiateAlgorithms => Sys2Proof.Machine.execNegotiateAlgorithms s
  | .getDigests => Sys2Proof.Machine.execGetDigests s
  | .getCertificate => Sys2Proof.Machine.execGetCertificate s
  | .challenge => Sys2Proof.Machine.execChallenge s
  | .getMeasurements => Sys2Proof.Machine.execGetMeasurements s
  | .keyExchange => Sys2Proof.Machine.execKeyExchange s
  | .identityKeyCreate => Sys2Proof.Machine.execIdentityKeyCreate s
  | .deployFuseWrite => Sys2Proof.Machine.execDeployFuseWrite s
  | .returnToken => Sys2Proof.Machine.execReturnToken s
  | .powerActive => Sys2Proof.Machine.execPowerActive s
  | .powerRetention => Sys2Proof.Machine.execPowerRetention s
  | .powerOff => Sys2Proof.Machine.execPowerOff s
  | .telemetryRefresh => Sys2Proof.Machine.execTelemetryRefresh s

end Sys2Proof.Machine
end

