-- ==== Sys2Proof/Machine/Fetch.lean ====
section
/-!
DEFINITION. Machine/Fetch.lean: which step comes next: the earliest event of the agenda or the earliest issue of an
instance; and what an instance does at its turn (01 R13 to R15; 06 R131, R133).
-/

namespace Sys2Proof.Machine

/-- What comes next. -/
inductive Turn where
  /-- an event of the agenda -/
  | event (t : Timed)
  /-- an instance's issue at a clk -/
  | issue (clk id : Nat)
  /-- the clk ends with traps or statuses raised in it (24 R392) -/
  | ends
  /-- nothing is under way: a clk passes -/
  | idle
deriving DecidableEq, Repr

/-- The earliest issue: of one clk's, a committed instance's first, then the lower number. -/
def earliest : Assoc Inst → Option (Nat × Bool × Nat)
  | [] => none
  | (id, v) :: rest =>
    let r := earliest rest
    match v.wake with
    | none => r
    | some c =>
      match r with
      | none => some (c, v.committed, id)
      | some (c', b', id') =>
        if c < c' || (c = c' && (v.committed || !b')) then some (c, v.committed, id) else some (c', b', id')

/-- Whether traps or statuses of this clk wait for its end, and nothing more comes in it. -/
def State.endsBefore (s : State) (clk : Nat) : Bool := s.clk < clk && !(s.trapped.isEmpty && s.ending.isEmpty)

/-- The next turn: an event comes before the issues of its clk, and what a clk ends, ends behind them. -/
def State.turn (s : State) : Turn :=
  match s.agenda, earliest s.insts with
  | [], none => if s.endsBefore (s.clk + 1) then .ends else .idle
  | t :: _, none => if s.endsBefore t.at_ then .ends else .event t
  | [], some (c, _, id) => if s.endsBefore c then .ends else .issue (max s.clk c) id
  | t :: _, some (c, _, id) =>
    if s.endsBefore (min t.at_ c) then .ends
    else if t.at_ ≤ max s.clk c then .event t
    else .issue (max s.clk c) id

/-- What an instance does at its turn. -/
inductive Act where
  /-- it waits for a clk: for a register, or for the older instance of its cell (R14, R15) -/
  | wait (clk : Nat)
  /-- it issues an instruction -/
  | run (i : Instr)
deriving DecidableEq, Repr

/-- Whether a committed instance of the context lives in a cell. -/
def State.tailIn (s : State) (ctx cell : Nat) : Bool :=
  s.insts.any fun i => i.2.committed && i.2.place.ctx = ctx && i.2.place.cell = cell

/-- Whether the newer instance of a cell waits for the older one (01 R14). -/
def groupWaits (p : Nat) : Bool := p / 16 = 7 || p / 16 = 8 || p / 16 = 9 || p / 16 = 13

/-- An instance's act: index n acts as `done` (R131); a word that breaks a rule of the encoding is illegal (R133); a tile,
tree, symbol or record instruction waits for the tail in its cell (R14); an instruction waits until its registers are ready
(R15). -/
def State.act (s : State) (v : Inst) : Act :=
  match s.fetch v with
  | none => .run .done
  | some w =>
    if !(lessonCauses v.hdr v.pc w).isEmpty then .run (.illegalInstruction (BitVec.ofNat 64 w))
    else
      match decode w with
      | .error _ => .run (.illegalInstruction (BitVec.ofNat 64 w))
      | .ok i =>
        if !v.committed && groupWaits (primaryOf i) && s.tailIn v.place.ctx v.place.cell then .wait (s.clk + 1)
        else
          let r := v.readyAt i
          if s.clk < r then .wait (if unknownClk ≤ r then s.clk + 1 else r) else .run i

/-- The state at an instance's turn. -/
def State.atTurn (s : State) (clk id : Nat) : State := { s with clk, actor := some id }

/-- The state at an event: it leaves the agenda. -/
def State.atEvent (s : State) (t : Timed) : State :=
  { s with clk := max s.clk t.at_, actor := none, agenda := s.agenda.drop 1 }

/-- An instance looks again at a clk. -/
def State.sleepUntil (s : State) (id clk : Nat) : State := s.modInst id fun v => { v with wake := some clk }

/-! ## A lesson with one word -/

/-- The header of a lesson of one word that names every register and the own side. -/
def probeHeader : Header := { count := 1, round := 0, recclass := 0, sides := 1, xtop := 31, vtop := 32, check := 0 }

/-- A running segment of one seat of a context in slot 0. -/
def probeSegment (words : List Nat) : Segment :=
  { ctx := 0, slot := 0, launch := 1, opnum := 0x1000, openCell := 0, seglen := 1, openSeat := 0, level := 0, record := false,
    syms := [0x1000000000000000#64], header := 0, words, memTime := 0, address := 0, attempt := 0, beats := 1, loadAt := [], loads := [], phase := .running,
    engaged := false, clean := [], failed := false, sweeps := 0, needStarted := false, offsets := none, total := 0,
    unfolded := false, granted := false, parkTried := [], releases := [], standard := false, result := none }

/-- A launch with an empty record that runs in context 0 of slot 0. -/
def probeLaunch : Launch :=
  { ctx := 0, slot := 0, queue := 0, pos := 0, record := List.replicate 8 0#64, level := 0, phase := .running, deps := [],
    ranges := [], setupBegan := 0, pendingPages := [], startClk := none, endClk := 0, status := none, statusClk := 0,
    statusSeat := 0, firstCard := 0, outstanding := 0, digest := 0#64, noted := none }

/-- Words in the buffer of a lesson that a single instance of context 0 in cell 0 is about to run: a segment of one seat, its
launch, a partition of the whole device, and nothing else under way. -/
def State.withLesson (s : State) (words : List Nat) : State :=
  let cell := { CellCtx.empty with buf0 := some { opnum := 0x1000, header := 0, words } }
  let ctx := { Ctx.absentCtx with
    state := .resident, holds := true, block := List.replicate 24 0#64, row := [(0, { SeatState.free with
      sym := 0x1000000000000000#64, launch := 1, busy := some 1 })], cells := [(0, cell)] }
  let n := 4 * s.perQuarter
  let place : Place := { ctx := 0, slot := 0, cell := 0, seat := 0, seglen := 1, seg := 1, launch := 1, opnum := 0x1000,
                         cellcount := n, part := 0, symbol := 0x1000000000000000#64, nest := 0 }
  { s with
    actor := none, trapped := [], ending := [], agenda := s.agenda.filter fun t => s.clk < t.at_
    ctxs := [(0, ctx)], parts := [(0, { Part.empty n s.clk with running := some 0 })]
    insts := [(1, Inst.fresh place { probeHeader with count := words.length } 0 s.clk [])]
    segs := [(1, probeSegment words)], launches := [(1, probeLaunch)] }

end Sys2Proof.Machine
end

