-- ==== Sys2Proof/Machine/Step.lean ====
section
/-!
DEFINITION. Machine/Step.lean: one step of the machine: the next event of the agenda, or the next issue of an instance.
-/

namespace Sys2Proof.Machine

/-- One step. -/
def step (s : State) : Host.Outcome State Fault Refusal :=
  match s.turn with
  | .idle => .next { s with clk := s.clk + 1 }
  | .ends => .next s.endOfClk
  | .event t => exec t.ev (s.atEvent t)
  | .issue clk id =>
    match s.inst? id with
    | none => .next { s with clk := clk + 1 }
    | some v =>
      match (s.atTurn clk id).act v with
      | .wait c => .next ((s.atTurn clk id).sleepUntil id c)
      | .run i => exec i (s.atTurn clk id)

/-- The state with an instruction's word where the next step fetches it: in the lesson buffer of an instance that issues
next (log 5). -/
def State.withFetchWord (s : State) (_nbits w : Nat) : State := s.withLesson [w % 2 ^ 64]

end Sys2Proof.Machine
end

