-- ==== Sys2Proof/Safety.lean ====
section
/-!
DEFINITION. Safety.lean: what counts as a safe run, and the terms in which the statements speak of an instruction that issues and
completes.
-/

namespace Sys2Proof.Safety

open Sys2Proof.Machine

/-- A step is safe when the machine goes on: it meets no fault and no refusal. -/
def SafeStep (s : State) : Prop := ∃ t, step s = .next t

/-- A run of `n` steps is safe. -/
def SafeRun : Nat → State → Prop
  | 0, _ => True
  | n + 1, s => ∃ t, step s = .next t ∧ SafeRun n t

end Sys2Proof.Safety

namespace Sys2Proof.Claims

open Sys2Proof.Machine

/-- Instance `id`, which is `v`, executes `i` and comes to its effect: it is the one that acts and lives, a tail may issue the form
(02 R57), and no register that the form reads is freed (06 R124). -/
def issues (i : Instr) (s : State) (id : Nat) (v : Inst) : Bool :=
  s.actor = some id && s.inst? id = some v && (!v.committed || tailAllows (primaryOf i) (s.recordMode v)) &&
    !(usesOf i).reads.any v.regs.isFreed

/-- Instance `u`, as the effect of `i` has left it, once it has completed `i` with a latency; the special-function unit takes one
instruction every 2 clk (08 R168). -/
def completed (i : Instr) (clk : Nat) (u : Inst) (latency : Nat) : Inst :=
  let w := u.advance (usesOf i) clk latency
  if isSpecial i then { w with busy := putA w.busy specialKey (clk + 2) } else w

/-- The state once instance `id`, which the effect of `i` has left as `u`, has completed `i`. -/
def retired (i : Instr) (s : State) (id : Nat) (u : Inst) (latency : Nat) : State :=
  s.setInst id (completed i s.clk u latency)

/-- The state once instance `id` has raised a trap. -/
def trapped (s : State) (id status cause : Nat) : State := s.takeTrap id (trapOf status cause)

end Sys2Proof.Claims
end

