-- ==== Sys2Proof/WellFormed.lean ====
section
/-!
DEFINITION. WellFormed.lean: which terms of `Instr` stand for a step of the device: a lesson instruction whose word breaks
no rule of 06 R133, and an event whose numbers lie in their ranges.
-/

namespace Sys2Proof

/-- Whether a lesson instruction is legal: its word shows no cause of R133. -/
def legal (i : Instr) : Bool :=
  match encode i with
  | some w => (staticCauses w).isEmpty
  | none => false

/-- A partition slot: the number of its lowest quarter (23 R373). -/
def slotOk (slot : Nat) : Bool := slot < 4

/-- Eight words (23 R375). -/
def recordOk (r : List Word) : Bool := r.length = 8

/-- Whether a term stands for a step of the device: a legal lesson instruction, or an event with its numbers in range
(23 R373, R375; 11 R254; 12 R260; 22 R369). -/
def WellFormed (i : Instr) : Bool :=
  match i.parts with
  | some _ => legal i
  | none =>
    match i with
    | .discoverySweep slot | .shiftWave slot | .waveComplete slot | .parkWriteComplete slot | .unparkComplete slot
    | .tidyCopyComplete slot | .preemptDecision slot | .turnExpiry slot | .preemptionTimeout slot _ | .rollCallWave slot
    | .contextSwitchComplete slot | .idleGateEntry slot => slotOk slot
    | .queuePush slot q r | .virtualQueuePush slot q r => slotOk slot && q < 6 && recordOk r
    | .forwardedRecord plane fabric r => plane < 16 && fabric < 65536 && recordOk r
    | .spillBaseWrite slot q _ | .spillSizeWrite slot q _ | .recordAtHead slot q => slotOk slot && q < 4
    | .agentAppend c q r => c < 256 && (q = 4 || q = 5) && recordOk r
    | .contextBlockAddressWrite c _ | .create c | .destroy c | .resetCounters c | .cancelSends c | .suspend c
    | .resume c | .parkedReply c _ => c < 256
    | .counterIncrement c k | .counterUpdateApplied c k _ _ => c < 256 && k < 64
    | .passHandoff c p => c < 256 && p < 256
    | .batonHop e => e < 4
    | .limiterStep q => q < 4
    | .copyStart q e => q < 4 && e < 16
    | .linkTraining p | .linkDown p => p < 16
    | .peerWriteArrival w => w.entry < 8 && w.offset + w.bytes.length < 2 ^ 46
    | _ => true

end Sys2Proof
end

