-- ==== Sys2Proof/Certificates/Slice0/Obligations.lean ====
section
/-!
DEFINITION. Certificates/Slice0/Obligations.lean: the statements for the provers, and the terms they use.
-/

namespace Sys2Proof.Claims

open Sys2Proof.Machine

/-! ## Registers written -/

/-- An instance with a value written to a scalar register. -/
def withX (v : Inst) (d : Nat) (w : Word) : Inst := { v with regs := v.regs.setX d w }

/-- An instance with a value written to a vector register. -/
def withV (v : Inst) (d : Nat) (w : VecVal) : Inst := { v with regs := v.regs.setV d w }

/-- An instance with a value written to a mask register. -/
def withK (v : Inst) (d : Nat) (w : BitVec 16) : Inst := { v with regs := v.regs.setK d w }

/-! ## Integers of a type (07 R143) -/

/-- A number modulo 2^w, as the signed or unsigned value of the type that has those w bits. -/
def wrap (t : Ty) (z : Int) : Int := if Ty.isSigned t then z.bmod (2 ^ Ty.width t) else z % (2 ^ Ty.width t : Nat)

/-- What a source register's low w bits say, by type (R143, step 1). -/
def source (t : Ty) (x : Word) : Int := wrap t x.toNat

/-- A result modulo 2^w, extended to all 64 bits by type (R143, steps 2 and 3). -/
def widened (t : Ty) (z : Int) : Word := BitVec.ofInt 64 (wrap t z)

/-- A bitwise operation on the w bits of two values. -/
def bitwise (t : Ty) (f : BitVec (Ty.width t) → BitVec (Ty.width t) → BitVec (Ty.width t)) (a b : Int) : Int :=
  (f (BitVec.ofInt _ a) (BitVec.ofInt _ b)).toNat

/-- Quotient and remainder by R146. -/
def quotRem (t : Ty) (a b : Int) : Int × Int :=
  if b = 0 then (if Ty.isSigned t then -1 else 2 ^ Ty.width t - 1, a)
  else if Ty.isSigned t ∧ a = -(2 ^ (Ty.width t - 1)) ∧ b = -1 then (-(2 ^ (Ty.width t - 1)), 0)
  else (a.tdiv b, a - a.tdiv b * b)

/-- The conditions of R147 in the order of their codes. -/
def conditions (a b : Int) : List Bool := [a = b, a ≠ b, a < b, b ≤ a, a ≤ b, b < a]

/-- 1 when the condition of a code holds, else 0. -/
def condition (code : Nat) (a b : Int) : Int := if (conditions a b).getD code false then 1 else 0

/-- The register-form arithmetic instructions with the effect that R145 tabulates. -/
def registerForm : Instr → Option (RForm × (Int → Int → Int))
  | .add f => some (f, fun a b => a + b)
  | .sub f => some (f, fun a b => a - b)
  | .mul f => some (f, fun a b => a * b)
  | .mulh f => some (f, fun a b => a * b / 2 ^ Ty.width f.ty)
  | .div f => some (f, fun a b => (quotRem f.ty a b).1)
  | .rem f => some (f, fun a b => (quotRem f.ty a b).2)
  | .and f => some (f, bitwise f.ty (· &&& ·))
  | .or f => some (f, bitwise f.ty (· ||| ·))
  | .xor f => some (f, bitwise f.ty (· ^^^ ·))
  | .shl f => some (f, fun a b => a * 2 ^ (b % Ty.width f.ty).toNat)
  | .shr f => some (f, fun a b => a / 2 ^ (b % Ty.width f.ty).toNat)
  | .cmpset f => some (f, condition f.fn)
  | .min f => some (f, min)
  | .max f => some (f, max)
  | _ => none

/-- An immediate of n bits as source B: extended to 64 bits by type, then read by it (R144). -/
def immediate (t : Ty) (n imm : Nat) : Int :=
  wrap t (if Ty.isSigned t then (imm % 2 ^ n : Int).bmod (2 ^ n) else imm % 2 ^ n)

/-- The immediate-form arithmetic instructions with the effect that R148 tabulates; B is the immediate of 32 bits, of 29 for
`cmpseti`, and the count of 6 bits for the shifts. -/
def immediateForm : Instr → Option (IForm × (Int → Int))
  | .addi f => some (f, fun a => a + immediate f.ty 32 f.imm)
  | .muli f => some (f, fun a => a * immediate f.ty 32 f.imm)
  | .andi f => some (f, fun a => bitwise f.ty (· &&& ·) a (immediate f.ty 32 f.imm))
  | .ori f => some (f, fun a => bitwise f.ty (· ||| ·) a (immediate f.ty 32 f.imm))
  | .xori f => some (f, fun a => bitwise f.ty (· ^^^ ·) a (immediate f.ty 32 f.imm))
  | .shli f => some (f, fun a => a * 2 ^ (f.imm.val % 64 % Ty.width f.ty))
  | .shri f => some (f, fun a => a / 2 ^ (f.imm.val % 64 % Ty.width f.ty))
  | .cmpseti f => some (f, fun a => condition (f.imm.val / 2 ^ 29) a (immediate f.ty 29 f.imm))
  | .mini f => some (f, fun a => min a (immediate f.ty 32 f.imm))
  | .maxi f => some (f, fun a => max a (immediate f.ty 32 f.imm))
  | .li f => some (f, fun _ => immediate f.ty 32 f.imm)
  | _ => none

/-! ## Scalar moves and masks -/

/-- The special registers of 01 R22 in the order of their selectors. -/
def specialRegisters (p : Place) : List Word :=
  [BitVec.ofNat 64 p.seat, BitVec.ofNat 64 p.seglen, BitVec.ofNat 64 p.cell, BitVec.ofNat 64 p.cellcount, BitVec.ofNat 64 p.part,
   BitVec.ofNat 64 p.ctx, p.symbol, BitVec.ofNat 64 p.nest]

/-- The forms that write one scalar register from registers or from the instance's place alone: D, its value, its latency. -/
def scalarMove (v : Inst) : Instr → Option (Nat × Word × Nat)
  | .sel f => some (f.d, if v.regs.getX f.c ≠ 0#64 then v.regs.getX f.a else v.regs.getX f.b, 1)
  | .adda f => some (f.d, BitVec.ofNat 64 ((v.regs.getX f.a).toNat + (v.regs.getX f.b).toNat * 2 ^ f.fn.val), 1)
  | .lih f => some (f.d, BitVec.ofNat 64 (f.imm * 2 ^ 32 + (v.regs.getX f.a).toNat % 2 ^ 32), 1)
  | .addai f => some (f.d, BitVec.ofInt 64 ((v.regs.getX f.a).toNat + immediate f.ty 29 f.imm * 2 ^ (f.imm.val / 2 ^ 29)), 1)
  | .rdsr f => some (f.d, (specialRegisters v.place).getD (f.imm % 256) 0#64, 1)
  | .rdlc f => some (f.d, BitVec.ofNat 64 (v.regs.getLc f.a).toNat, 1)
  | .kread f => some (f.d, BitVec.ofNat 64 (v.regs.getK f.a).toNat, 1)
  | .kpop f => some (f.d, BitVec.ofNat 64 ((List.range 16).countP fun j => (v.regs.getK f.a).getLsbD j), 1)
  | .kfirst f => some (f.d, BitVec.ofNat 64 (((List.range 16).find? fun j => (v.regs.getK f.a).getLsbD j).getD 16), 1)
  | .vlane f =>
    let a := v.regs.getV f.a
    let j := f.fn.val % 16
    let w : Lane := if a.ok j then a.lane j else 0#32
    some (f.d, if f.ty = .i32 then BitVec.ofInt 64 w.toInt else BitVec.ofNat 64 w.toNat, 2)
  | _ => none

/-- Whether an L form's or a comparison's condition of lanes holds (08 R172). -/
def laneCondition (code : Nat) (t : Ty) (a b : Nat) : Bool :=
  if t = .f32 then
    if (f32 a).isNan || (f32 b).isNan then code = 1
    else [(f32 a).eqv (f32 b), !(f32 a).eqv (f32 b), (f32 a).lt (f32 b), (f32 b).lt (f32 a) || (f32 a).eqv (f32 b), (f32 a).lt (f32 b) || (f32 a).eqv (f32 b),
      (f32 b).lt (f32 a)].getD code false
  else (conditions (wrap t a) (wrap t b)).getD code false

/-- Whether a form's mask field selects lane j (08 R166). -/
def selected (r : Regs) (mask : Nat) (neg : Bool) (j : Nat) : Bool := if neg then !(r.getK mask).getLsbD j else (r.getK mask).getLsbD j

/-- The forms that write one mask register: D, bit j, and the latency. -/
def maskWrite (v : Inst) : Instr → Option (Nat × (Nat → Bool) × Nat)
  | .kand f => some (f.d, fun j => (v.regs.getK f.a).getLsbD j && (v.regs.getK f.b).getLsbD j, 1)
  | .kor f => some (f.d, fun j => (v.regs.getK f.a).getLsbD j || (v.regs.getK f.b).getLsbD j, 1)
  | .kxor f => some (f.d, fun j => (v.regs.getK f.a).getLsbD j != (v.regs.getK f.b).getLsbD j, 1)
  | .knot f => some (f.d, fun j => !(v.regs.getK f.a).getLsbD j, 1)
  | .kmov f => some (f.d, fun j => (v.regs.getX f.a).getLsbD j, 1)
  | .vgetvalid f => some (f.d, fun j => (v.regs.getV f.a).ok j, 2)
  | .vcmp f => some (f.d, fun j => selected v.regs f.mask f.neg j && (v.regs.getV f.a).ok j && (v.regs.getV f.b).ok j &&
      laneCondition f.fn f.ty ((v.regs.getV f.a).lane j).toNat ((v.regs.getV f.b).lane j).toNat, 2)
  | _ => none

/-! ## Branches and loops (07 R150 to R155) -/

/-- The signed offset of an L form. -/
def offset (f : LForm) : Int := (f.off.val : Int).bmod (2 ^ 20)

/-- Whether the comparison of an L form holds: ne, eq, lt, ge (06 R127). -/
def taken (f : LForm) (r : Regs) : Bool :=
  let a := source f.ty (r.getX f.a)
  let b := source f.ty (r.getX f.b)
  ([a ≠ b, a = b, a < b, b ≤ a] : List Bool).getD f.cond false

/-- The end test of R153 on counters and a stack: the counters, the stack, and the next index. -/
def endTest : List LoopEntry → Vector Lane 3 → Nat → Vector Lane 3 × List LoopEntry × Nat
  | [], lc, next => (lc, [], next)
  | e :: es, lc, next =>
    if next ≠ e.stop then (lc, e :: es, next)
    else
      let n : Lane := (if h : e.ctr < 3 then lc[e.ctr] else 0#32) - 1#32
      let lc := if h : e.ctr < 3 then lc.set e.ctr n else lc
      if n ≠ 0#32 then (lc, e :: es, e.start) else endTest es lc next

/-- What is left of a loop stack by a transfer to an index (R154). -/
def leftBy (target : Nat) (ls : List LoopEntry) : List LoopEntry := ls.dropWhile fun e => target < e.start || e.stop < target

/-- Whether `loop` raises the loop-nest trap (R152). -/
def nestTrap (f : LForm) (v : Inst) : Bool :=
  offset f < 1 || v.regs.loops.length = 3 || (v.regs.loops.map (·.ctr)).contains f.ctr.val ||
    match v.regs.loops.head? with
    | some e => (e.stop : Int) < v.pc + offset f
    | none => false

/-! ## Vectors (08 R164 to R183) -/

/-- A lane of an integer result. -/
def laneWord (t : Ty) (z : Int) : Nat := (BitVec.ofInt 32 (wrap t z)).toNat

/-- An operation on two lanes by type. -/
def arith (t : Ty) (ff : Fp → Fp → Fp) (fi : Int → Int → Int) (a b : Nat) : Nat :=
  if t = .f32 then f32Bits (ff (f32 a) (f32 b)) else laneWord t (fi (wrap t a) (wrap t b))

/-- The lane-wise forms: their fields, their source registers, their latency and what R170, R171, R180 and R183 compute from the source
lanes. -/
def laneForm (v : Inst) : Instr → Option (RForm × List Nat × Nat × ((Nat → Nat) → Nat))
  | .vadd f => some (f, [f.a, f.b], if f.ty = .f32 then 4 else 2, fun x => arith f.ty Fp.add (· + ·) (x 0) (x 1))
  | .vsub f => some (f, [f.a, f.b], if f.ty = .f32 then 4 else 2, fun x => arith f.ty (fun a b => a.add b.opp) (· - ·) (x 0) (x 1))
  | .vmul f => some (f, [f.a, f.b], if f.ty = .f32 then 4 else 2, fun x => arith f.ty Fp.mul (· * ·) (x 0) (x 1))
  | .vfma f => some (f, [f.a, f.b, f.c], 4, fun x => f32Bits (Fp.fma (f32 (x 0)) (f32 (x 1)) (f32 (x 2))))
  | .vfms f => some (f, [f.a, f.b, f.c], 4, fun x => f32Bits (Fp.fma (f32 (x 0)) (f32 (x 1)) (f32 (x 2)).opp))
  | .vfnma f => some (f, [f.a, f.b, f.c], 4, fun x => f32Bits (Fp.fma (f32 (x 0)).opp (f32 (x 1)) (f32 (x 2))))
  | .vmin f => some (f, [f.a, f.b], 2, fun x => arith f.ty Fp.min min (x 0) (x 1))
  | .vmax f => some (f, [f.a, f.b], 2, fun x => arith f.ty Fp.max max (x 0) (x 1))
  | .vabs f => some (f, [f.a], 2, fun x => arith f.ty (fun a _ => Fp.absolute a) (fun a _ => |a|) (x 0) 0)
  | .vneg f => some (f, [f.a], 2, fun x => arith f.ty (fun a _ => a.opp) (fun a _ => -a) (x 0) 0)
  | .vand f => some (f, [f.a, f.b], 2, fun x => x 0 &&& x 1)
  | .vor f => some (f, [f.a, f.b], 2, fun x => x 0 ||| x 1)
  | .vxor f => some (f, [f.a, f.b], 2, fun x => x 0 ^^^ x 1)
  | .vshl f => some (f, [f.a, f.b], 2, fun x => laneWord f.ty (wrap f.ty (x 0) * 2 ^ (x 1 % Ty.width f.ty)))
  | .vshr f => some (f, [f.a, f.b], 2, fun x => laneWord f.ty (wrap f.ty (x 0) / 2 ^ (x 1 % Ty.width f.ty)))
  | .vclamp f => some (f, [f.a, f.b, f.c], 2, fun x => arith f.ty Fp.min min (arith f.ty Fp.max max (x 0) (x 1)) (x 2))
  | .vcvt f => some (f, [f.a], 4, fun x => convertLane v.mode ((Ty.ofCode (f.fn % 32)).getD .f32) f.ty (x 0))
  | .vexp2 f => some (f, [f.a], 8, fun x => f32Bits (exp2Fp (f32 (x 0))))
  | .vlog2 f => some (f, [f.a], 8, fun x => f32Bits (log2Fp (f32 (x 0))))
  | .vrcp f => some (f, [f.a], 8, fun x => f32Bits (rcpFp (f32 (x 0))))
  | .vrsqrt f => some (f, [f.a], 8, fun x => f32Bits (rsqrtFp (f32 (x 0))))
  | .vsigm f => some (f, [f.a], 8, fun x => f32Bits (sigmFp (f32 (x 0))))
  | .vtanh f => some (f, [f.a], 8, fun x => f32Bits (tanhFp (f32 (x 0))))
  | .vsoftp f => some (f, [f.a], 8, fun x => f32Bits (softpFp (f32 (x 0))))
  | _ => none

/-- A lane that a vector form does not write: as it was, or 0 and invalid when D was freed before issue (R166). -/
def keptLane (v : Inst) (d j : Nat) : Lane × Bool :=
  if v.regs.isFreed (.v, d) then (0#32, false) else ((v.regs.getV d).lane j, (v.regs.getV d).ok j)

/-- Lane j of a value with its valid bit. -/
def laneAt (a : VecVal) (j : Nat) : Lane × Bool := (a.lane j, a.ok j)

/-- Element e of a packed vector in w bits. -/
def packed (a : VecVal) (w e : Nat) : Nat := (a.lane (e / (32 / w))).toNat / 2 ^ (w * (e % (32 / w))) % 2 ^ w

/-- The forms that move, pack or reduce lanes: D, the latency, the lanes written, and what lane j of them becomes. -/
def laneMove (v : Inst) : Instr → Option (Nat × Nat × (Nat → Bool) × (Nat → Lane × Bool))
  | .vmov f => some (f.d, 2, selected v.regs f.mask f.neg, fun j => laneAt (v.regs.getV f.a) j)
  | .vsel f => some (f.d, 2, fun _ => true, fun j =>
      laneAt (if selected v.regs f.mask f.neg j then v.regs.getV f.a else v.regs.getV f.b) j)
  | .vshuf f => some (f.d, 2, selected v.regs f.mask f.neg, fun j =>
      let i := ((v.regs.getV f.b).lane j).toNat % 16
      ((v.regs.getV f.a).lane i, (v.regs.getV f.b).ok j && (v.regs.getV f.a).ok i))
  | .vperm f => some (f.d, 2, selected v.regs f.mask f.neg, fun j =>
      let a := v.regs.getV f.a
      let b := v.regs.getV f.b
      let n := f.fn.val % 16
      match f.fn.val / 16 % 16 with
      | 0 => laneAt a ((j + n) % 16)
      | 1 => if j + n ≤ 15 then laneAt a (j + n) else (0#32, false)
      | 2 => if n ≤ j then laneAt a (j - n) else (0#32, false)
      | 3 => laneAt a (15 - j)
      | 4 => laneAt (if j % 2 = 0 then a else b) (j / 2)
      | 5 => laneAt (if j % 2 = 0 then a else b) (8 + j / 2)
      | 6 => laneAt (if j < 8 then a else b) (2 * (j % 8))
      | _ => laneAt (if j < 8 then a else b) (2 * (j % 8) + 1))
  | .vbcast f => some (f.d, 2, selected v.regs f.mask f.neg, fun _ =>
      (BitVec.ofNat 32 (if f.ty = .f32 then (v.regs.getX f.a).toNat else laneWord f.ty (v.regs.getX f.a).toNat), true))
  | .vbcasti f => some (f.d, 2, selected v.regs f.mask f.neg, fun _ =>
      (BitVec.ofNat 32 (if f.ty = .f32 then f.imm.val else laneWord f.ty f.imm.val), true))
  | .vins f => some (f.d, 2, fun j => j = f.fn.val % 16, fun _ => (BitVec.ofNat 32 (v.regs.getX f.a).toNat, true))
  | .vsetvalid f => some (f.d, 2, fun _ => true, fun j => ((v.regs.getV f.a).lane j, (v.regs.getK f.b).getLsbD j))
  | .vunpack f => some (f.d, 4, selected v.regs f.mask f.neg, fun j =>
      let st := (Ty.ofCode (f.fn % 32)).getD .f32
      let e := 16 * (f.fn.val / 32 % 4) + j
      let ok := (v.regs.getV f.a).ok (e / (32 / Ty.width st))
      (if ok then BitVec.ofNat 32 (convertLane .rne st f.ty (packed (v.regs.getV f.a) (Ty.width st) e)) else 0#32, ok))
  | .vpack f =>
    let wide := Ty.width f.ty = 16
    let src : Ty := if Ty.isFloat f.ty then .f32 else if Ty.isSigned f.ty then .i32 else .n32
    let elem (e : Nat) : Nat :=
      convertLane v.mode src f.ty ((v.regs.getV (if e < 16 then f.a else f.b)).lane (e % 16)).toNat % 2 ^ Ty.width f.ty
    let ok (e : Nat) : Bool := (v.regs.getV (if e < 16 then f.a else f.b)).ok (e % 16)
    let n := if wide then 2 else 4
    let base (j : Nat) : Nat := if wide then 2 * j else 4 * (j % 8)
    some (f.d, 4, fun j => wide || j / 8 = f.fn.val % 2, fun j =>
      let all := (List.range n).all fun b => ok (base j + b)
      (if all then BitVec.ofNat 32 ((List.range n).foldr (fun b acc => elem (base j + b) * 2 ^ (32 / n * b) + acc) 0) else 0#32, all))
  | .vred f => some (f.d, 6, fun _ => true, fun j =>
      let a := v.regs.getV f.a
      let here (k : Nat) : Bool := a.ok k && selected v.regs f.mask f.neg k
      if f.fn.val % 16 = 7 then
        let r := (reduceOf affineJoin ((List.range 8).map fun k =>
          if here (2 * k) && here (2 * k + 1) then some ((a.lane (2 * k)).toNat, (a.lane (2 * k + 1)).toNat) else none)).getD affineIdentity
        (BitVec.ofNat 32 (if j % 2 = 0 then r.1 else r.2), true)
      else
        (BitVec.ofNat 32 ((reduceOf (combine (f.fn % 16) f.ty) ((List.range 16).map fun k =>
          if here k then some (a.lane k).toNat else none)).getD (identity (f.fn % 16) f.ty)), true))
  | _ => none

/-! ## What an instance reads around it -/

/-- The segment, the cell, the context and the launch of an instance. -/
def segment? (s : State) (v : Inst) : Option Segment := lookupA s.segs v.place.seg
/-- See `segment?`. -/
def cellOf (s : State) (v : Inst) : CellCtx := s.cell v.place.ctx v.place.cell
/-- See `segment?`. -/
def contextOf (s : State) (v : Inst) : Ctx := s.ctx v.place.ctx
/-- See `segment?`. -/
def launch? (s : State) (v : Inst) : Option Launch := lookupA s.launches v.place.launch

/-- The ring of the own cell that an I form names. -/
def ringOf (s : State) (v : Inst) (f : IForm) : Option Ring := lookupA (cellOf s v).rings (f.imm.val % 16)

/-- A count or threshold: xA[31:0]. -/
def low32 (w : Word) : Nat := w.toNat % 2 ^ 32

/-- The configuration words 0 to 7 (12 R281). -/
def configuration (s : State) (v : Inst) : List Word :=
  let l := launch? s v
  [BitVec.ofNat 64 ((if s.dev.lx36 then 0x36 else 0x40) + Config.stepping.toNat * 2 ^ 16), s.dev.chosen,
   BitVec.ofNat 64 ((l.map (·.level)).getD 0), BitVec.ofNat 64 s.dev.number,
   BitVec.ofNat 64 ((l.map fun l => (l.record.getD 3 0#64).toNat / 2 ^ 48 % 256).getD 0),
   BitVec.ofNat 64 (contextOf s v).syncLen, BitVec.ofNat 64 (contextOf s v).passCount,
   ((l.map (·.record)).getD []).getD 7 0#64]

/-- The forms that write one scalar register from the state around the instance, where they complete at once: D, its value, its
latency. -/
def stateRead (s : State) (v : Inst) : Instr → Option (Nat × Word × Nat)
  | .wfill f => (ringOf s v f).bind fun r =>
      let n := low32 (v.regs.getX f.a)
      if n ≤ r.entries ∧ n ≤ r.filled then some (f.d, BitVec.ofNat 64 r.filled, 1) else none
  | .wfree f => (ringOf s v f).bind fun r =>
      let n := low32 (v.regs.getX f.a)
      if n ≤ r.entries ∧ n ≤ r.entries - r.filled then some (f.d, BitVec.ofNat 64 (r.entries - r.filled), 1) else none
  | .symrd f => (segment? s v).map fun g =>
      let i := (v.regs.getX f.a).toNat
      (f.d, if i < g.seglen then g.syms.getD i 0#64 else 0#64, twoWay (s.segLevel g))
  | .symbld f => some (f.d, BitVec.ofNat 64 (f.fn % 16 * 2 ^ 60 + f.fn / 16 % 256 * 2 ^ 52 + f.fn / 4096 % 16 * 2 ^ 48 +
      (v.regs.getX f.a).toNat % 2 ^ 48), 1)
  | .symget f => (segment? s v).bind fun g =>
      match f.fn.val % 8 with
      | 0 => g.offsets.map fun os => (f.d, BitVec.ofNat 64 (os.getD v.place.seat 0), 1)
      | 1 => g.offsets.map fun _ => (f.d, BitVec.ofNat 64 g.total, 1)
      | 2 => some (f.d, BitVec.ofNat 64 (v.declared.getD 0), 1)
      | _ => some (f.d, BitVec.ofNat 64 g.level, 1)
  | .thdr f =>
    match s.tile v (v.regs.getX f.a) with
    | .ok t =>
      let latency := if t.cell = v.place.cell then 2 else s.tileLatency v t
      match f.fn.val % 8 with
      | 0 => some (f.d, t.hdr.word0, latency)
      | 1 => some (f.d, t.hdr.word1, latency)
      | _ => none
    | .error _ => none
  | .ctrrd f => some (f.d, BitVec.ofNat 64 ((contextOf s v).counter (f.imm.val % 64)).toNat, 1)
  | .ctrwait f =>
    let n := ((contextOf s v).counter (f.imm.val % 64)).toNat
    if low32 (v.regs.getX f.a) ≤ n then some (f.d, BitVec.ofNat 64 n, 1) else none
  | .logrd f => some (f.d, BitVec.ofNat 64 (if v.committed || !s.recordMode v then 0 else
      let w := readNat s.mem (s.cbHeader v.place.ctx) 8
      [v.stage.lane.length, 32 - v.stage.lane.length, w % 2 ^ 32, w / 2 ^ 46 % 2].getD (f.fn % 4) 0), 2)
  | .recq f => some (f.d, BitVec.ofNat 64 ((if v.committed || !s.recordMode v then 0 else 1) + 2 * v.hdr.recclass), 2)
  | .cfgrd f => some (f.d, if f.code.val < 8 then (configuration s v).getD f.code 0#64 else getD 0#64 (contextOf s v).user f.code, 4)
  | .pcrd f => some (f.d, match f.code.val with
      | 0 => BitVec.ofNat 64 (s.clk - v.started)
      | 1 => BitVec.ofNat 64 (v.issued + 1)
      | n => (cellOf s v).perf.toList.getD (n % 8) 0#64, 2)
  | .rdclk f => some (f.d, BitVec.ofNat 64 (s.clk - (s.part v.place.slot).clkBase), 2)
  | .sleep f =>
    let g := getD 0#32 (contextOf s v).events (f.code.val % 64)
    if f.code.val / 64 % 2 = 1 ∨ g ≠ BitVec.ofNat 32 (v.regs.getX f.a).toNat then some (f.d, BitVec.ofNat 64 g.toNat, 1) else none
  | _ => none

/-- Whether a form completes without an effect of its own: `nop` and `pref`; `fence` without bit 2 once the reads that it waits for are
performed; `brk` without intrusive debug or a debugger; a mark outside record mode. -/
def effectless (s : State) (id : Nat) (v : Inst) : Instr → Bool
  | .nop | .pref _ => true
  | .fence f => f.code.val / 4 % 2 = 0 && (f.code.val % 4 = 0 || s.readsDone id)
  | .brk _ => !(s.dev.debug = .intrusive && s.dev.debugger)
  | .logmark _ | .opsave _ | .oprecomp _ => v.committed || !s.recordMode v
  | _ => false

/-! ## Far references and the far-write stage (02 R51; 11 R244, R245, R254, R257) -/

/-- The lease entry and the offset of an M form's far reference, when its checks hold (R244). -/
def farRefOf (s : State) (v : Inst) (f : MForm) : Option (Nat × Nat) :=
  let n := (v.regs.getX f.a).toNat
  let entry := n / 2 ^ 42
  let off := (((n % 2 ^ 42 : Nat) : Int) + (f.off.val : Int).bmod (2 ^ 32)) % (2 ^ 42 : Nat)
  if n < 2 ^ 48 ∧ entry < (s.rangesOf v.place.launch).length ∧ off.toNat % (Ty.width f.ty / 8) = 0 then some (entry, off.toNat) else none

/-- An instance whose current stream has used its next sequence number (R257). -/
def ticked (v : Inst) : Inst := { v with seqs := putA v.seqs v.stream (getD 0 v.seqs v.stream + 1) }

/-- An instance with a far effect put behind those it has staged. -/
def withFar (v : Inst) (e : StagedFar) : Inst := { v with stage := { v.stage with far := v.stage.far ++ [e] } }

/-- The far effect that a form stages, and whether it uses a sequence number. -/
def stagedBy (s : State) (id : Nat) (v : Inst) : Instr → Option (StagedFar × Bool)
  | .fst f => (farRefOf s v f).map fun r => (.fst r.1 r.2 (Ty.width f.ty / 8) (v.regs.getX f.d) v.stream, true)
  | .ctrset f => some (.ctrset (f.imm.val % 64) (BitVec.ofNat 32 (v.regs.getX f.a).toNat) v.stream, true)
  | .ctradd f => some (.ctradd (f.imm.val % 64) (BitVec.ofNat 32 (v.regs.getX f.a).toNat) v.stream, true)
  | .fence f => if f.code.val / 4 % 2 = 1 ∧ (f.code.val % 4 = 0 ∨ s.readsDone id = true) then some (.barrier, false) else none
  | .syscall f => some (.syscall [BitVec.ofNat 64 f.code, v.regs.getX f.a,
      BitVec.ofNat 64 (v.place.opnum % 2 ^ 16 * 2 ^ 16 + v.place.seat),
      ((((launch? s v).map (·.record)).getD []).getD 7 0#64), 0#64, 0#64, 0#64], false)
  | .cfgwr f => some (.cfgwr f.code (v.regs.getX f.a), false)
  | .evsig f => some (.evsig (f.code.val % 64), false)
  | _ => none

/-- Whether the stage still takes a far effect: 32 of them fit, and a fence is none (02 R51; 11 R258). -/
def stageTakes (v : Inst) (e : StagedFar) : Bool := e = .barrier || (v.stage.far.filter fun x => x ≠ .barrier).length < 32

/-! ## Scratch (11 R233 to R242) -/

/-- The scratch address of an M form: the base register as a signed number, and a signed offset of n bits (R233). -/
def scratchAddress (v : Inst) (f : MForm) (n : Nat) : Int := (v.regs.getX f.a).toInt + ((f.off.val % 2 ^ n : Nat) : Int).bmod (2 ^ n)

/-- Whether n bytes at an address lie in a side of 40,960 bytes, at a multiple of their alignment (R233). -/
def inSide (a : Int) (n align : Nat) : Bool := 0 ≤ a && a + n ≤ 40960 && a % align = 0

/-- Whether bytes of the own side lie on a poisoned granule. -/
def poisoned (s : State) (v : Inst) (a n : Nat) : Bool := s.poisonedAt v.place.ctx v.place.cell (a / 64) ((a + n - 1) / 64)

/-- Little-endian bytes as a number (00 R7). -/
def number (bs : List Byte) : Nat := bs.foldr (fun b n => b.toNat + 256 * n) 0

/-- A number as n little-endian bytes. -/
def bytesOf : Nat → Nat → List Byte
  | 0, _ => []
  | n + 1, w => BitVec.ofNat 8 (w % 256) :: bytesOf n (w / 256)

/-- Lane j of bytes. -/
def laneBytes (bs : List Byte) (j : Nat) : Lane := BitVec.ofNat 32 (number ((bs.drop (4 * j)).take 4))

/-- The address of a lane: a base and an offset lane without sign (R236). -/
def laneAddress (base : Word) (off : Lane) : Int := base.toInt + off.toNat

/-- Two states alike in all but the free times of banks and the performance counters of cells (01 R18; 12 R282). -/
def sameButTime (s t : State) : Prop :=
  t = { s with ctxs := t.ctxs } ∧ ∀ c, { t.ctx c with cells := [] } = { s.ctx c with cells := [] } ∧
    ∀ cell, { t.cell c cell with banks := (s.cell c cell).banks, perf := (s.cell c cell).perf } = s.cell c cell

/-- The loads of lanes: D, the lanes that are written, lane j of them, and the fewest clk of latency; none where the load does not
complete. -/
def laneLoad (s : State) (v : Inst) : Instr → Option (Nat × (Nat → Bool) × (Nat → Lane × Bool) × Nat)
  | .vld f =>
    let a := scratchAddress v f 32
    if inSide a 64 4 && !poisoned s v a.toNat 64 then
      some (f.d, selected v.regs f.mask f.neg, fun j => (laneBytes (s.sideBytes v v.place.cell a.toNat 64) j, true), 5)
    else none
  | .vgath f =>
    let offs := v.regs.getV f.b
    let at_ (j : Nat) : Int := laneAddress (v.regs.getX f.a) (offs.lane j)
    let reads (j : Nat) : Bool := selected v.regs f.mask f.neg j && offs.ok j
    if (List.range 16).all fun j => !reads j || (inSide (at_ j) 4 4 && !poisoned s v (at_ j).toNat 4) then
      some (f.d, selected v.regs f.mask f.neg, fun j =>
        if offs.ok j then (laneBytes (s.sideBytes v v.place.cell (at_ j).toNat 4) 0, true) else (0#32, false), 5)
    else none
  | .tld f =>
    match s.tile v (v.regs.getX f.a) with
    | .ok t =>
      let g := (v.regs.getX f.b).toNat
      if g < t.hdr.count && !s.tilePending v t && !s.poisonedAt v.place.ctx t.cell (t.hdr.base + g) (t.hdr.base + g) then
        some (f.d, fun _ => true, fun j => (laneBytes (s.sideBytes v t.cell ((t.hdr.base + g) * 64) 64) j, true), s.tileLatency v t)
      else none
    | .error _ => none
  | _ => none

/-- The new word of a `ratom` by its operation (R238). -/
def ratomResult (t : Ty) (op old x : Nat) : Nat :=
  match op with
  | 0 => arith t Fp.add (· + ·) old x
  | 1 => arith t Fp.min min old x
  | 2 => arith t Fp.max max old x
  | 3 => x
  | 4 => old &&& x
  | _ => old ||| x

/-- The stores of a form to the own side, in order: address and bytes; none where it does not complete (R234 to R236, R238). -/
def storesOf (s : State) (v : Inst) (i : Instr) : Option (List (Nat × List Byte)) :=
  let guarded (ss : List (Nat × List Byte)) : Option (List (Nat × List Byte)) :=
    if ss.any fun p => v.isProtected (p.1 / 64) then none else some ss
  match i with
  | .sst f =>
    let n := Ty.width f.ty / 8
    let a := scratchAddress v f 32
    if inSide a n n then guarded [(a.toNat, bytesOf n (v.regs.getX f.d).toNat)] else none
  | .vst f =>
    let a := scratchAddress v f 32
    let w := v.regs.getV f.d
    if inSide a 64 4 then
      guarded (((List.range 16).filter fun j => selected v.regs f.mask f.neg j && w.ok j).map fun j =>
        (a.toNat + 4 * j, bytesOf 4 (w.lane j).toNat))
    else none
  | .vscat f =>
    let w := v.regs.getV f.a
    let offs := v.regs.getV f.c
    let at_ (j : Nat) : Int := laneAddress (v.regs.getX f.b) (offs.lane j)
    let lanes := (List.range 16).filter fun j => selected v.regs f.mask f.neg j && w.ok j && offs.ok j
    if lanes.all fun j => inSide (at_ j) 4 4 then guarded (lanes.map fun j => ((at_ j).toNat, bytesOf 4 (w.lane j).toNat)) else none
  | .ratom f =>
    let a := scratchAddress v f 29
    if inSide a 4 4 && !poisoned s v a.toNat 4 then
      let old := number (s.sideBytes v v.place.cell a.toNat 4)
      guarded [(a.toNat, bytesOf 4 (ratomResult f.ty (f.off.val / 2 ^ 29) old (low32 (v.regs.getX f.d))))]
    else none
  | _ => none

/-- The registers that a store leaves: those it had, but for the old value that `ratom` returns, extended by type (R238). -/
def afterStore (s : State) (v : Inst) : Instr → Regs
  | .ratom f =>
    let old := number (s.sideBytes v v.place.cell (scratchAddress v f 29).toNat 4)
    v.regs.setX f.d (if f.ty = .f32 then BitVec.ofNat 64 old else widened f.ty old)
  | _ => v.regs

/-- A byte after stores in order. -/
def written (ss : List (Nat × List Byte)) (a : Nat) (old : Byte) : Byte :=
  ss.foldl (fun b p => if p.1 ≤ a ∧ a < p.1 + p.2.length then p.2.getD (a - p.1) 0#8 else b) old

/-- Whether an instance has written a byte of scratch at once since it started (02 R51). -/
def wroteByte (s : State) (v : Inst) (a : Nat) : Bool :=
  v.stage.wrote.any fun r =>
    let b := s.scrAddr v.place.ctx r.1 r.2.1
    b ≤ a && a < b + r.2.2

/-- What a scratch store may change beside the bytes and the instance: headers' dirty bits and producer words, banks' times and counters,
and poison. -/
def sameButScratch (id : Nat) (s t : State) : Prop :=
  t = { s with scr := t.scr, poison := t.poison, ctxs := t.ctxs, insts := t.insts } ∧
    (∀ j, j ≠ id → t.inst? j = s.inst? j) ∧
    ∀ c, { t.ctx c with cells := [] } = { s.ctx c with cells := [] } ∧
      ∀ cell, { t.cell c cell with
        hdrs := (s.cell c cell).hdrs, prods := (s.cell c cell).prods, banks := (s.cell c cell).banks, perf := (s.cell c cell).perf } = s.cell c cell

/-- The ring instructions that move a ring's counters, where they complete at once: D, the index that they return, and the ring after
(R240, R242). -/
def ringMoveOf (s : State) (v : Inst) : Instr → Option (IForm × Nat × Ring)
  | .rpush f => (ringOf s v f).bind fun r =>
      let n := low32 (v.regs.getX f.a)
      if n ≤ r.entries ∧ n ≤ r.entries - r.filled then some (f, r.tail, { r with tail := (r.tail + n) % r.entries, filled := r.filled + n }) else none
  | .rpop f => (ringOf s v f).bind fun r =>
      let n := low32 (v.regs.getX f.a)
      if n ≤ r.entries ∧ n ≤ r.filled then some (f, r.head, { r with head := (r.head + n) % r.entries, filled := r.filled - n }) else none
  | _ => none

/-- A ring instruction's trap by R242: its form, and cause 1 for an uninitialised ring or cause 3 for a count above E. -/
def ringTrapOf (s : State) (v : Inst) (i : Instr) : Option Nat :=
  let of (f : IForm) : Option Nat :=
    match ringOf s v f with
    | none => some 1
    | some r => if r.entries < low32 (v.regs.getX f.a) then some 3 else none
  match i with
  | .wfill f | .wfree f | .rpush f | .rpop f => of f
  | _ => none

/-- The ring that `rinit` makes of xA, when R241 lets it: base, size and entries. -/
def initRing (s : State) (v : Inst) (f : IForm) : Option Ring :=
  let n := (v.regs.getX f.a).toNat
  let r : Ring := { base := n % 2 ^ 10, size := n / 2 ^ 12 % 2 ^ 6, entries := n / 2 ^ 20 % 2 ^ 9, head := 0, tail := 0, filled := 0 }
  let meets := (List.range 64).any fun k =>
    let w := s.ownHeader v k
    let h := HdrView.ofWords w.1 w.2
    h.valid && h.base < r.base + r.entries * r.size && r.base < h.base + h.count
  if n = r.base + r.size * 2 ^ 12 + r.entries * 2 ^ 20 ∧ 0 < r.size ∧ r.size ≤ 32 ∧ 0 < r.entries ∧ r.entries ≤ 256 ∧
    r.base + r.entries * r.size ≤ 640 ∧ meets = false then some r else none

/-! ## Going on (06 R124; 07 R153) -/

/-- An instance `u` has completed a form as `v` would: its registers, its index, and it runs. -/
def goesOn (i : Instr) (clk : Nat) (v u : Inst) : Prop :=
  u.regs = (completed i clk v 1).regs ∧ u.pc = (completed i clk v 1).pc ∧ u.status = .running ∧ u.place = v.place ∧
    u.committed = v.committed

/-- What a committed instance stages: no header write, since a tail's take effect at once (02 R57; 06 R142). -/
def stagesNothing (v : Inst) : Prop := v.committed = true → v.stage.hdrs = []

/-- An instance that has arrived at its segment's commit: it is finished, declares 0 if it has declared nothing, and waits (02 R53,
R55; 07 R160). -/
def arrived (v : Inst) (ends : Bool) : Inst :=
  { v with finished := true, ends, declared := some (v.declared.getD 0), gang := none, status := .waiting .commit, wake := none,
           issued := v.issued + 1 }

/-- Whether a gang's member has no row left to pass on, so that it may leave (09 R195; 15 R310). -/
def mayLeave (s : State) (v : Inst) : Bool := v.gang.isNone || !(cellOf s v).passingRows s.clk

/-! ## Weight entries, accumulators and the matrix multiply (09 R189 to R197) -/

/-- A tile that an instruction reads: its granules are not being written and not poisoned. -/
def readable (s : State) (v : Inst) (t : Tile) : Bool := !s.tilePending v t && !s.tilePoisoned v t

/-- Whether a tile has a type and a shape. -/
def isTile (t : Tile) (ty : Ty) (rows cols : Nat) : Bool := t.hdr.ty = ty && t.hdr.rows = rows && t.hdr.cols = cols

/-- Bytes of a compressed image (09 R190). -/
def compressedBytes (t : Ty) : Nat := if t = .e2m1 then 128 else 128 * Ty.width t / 8 + 32

/-- The weight entry that a form loads from a tile: its number (slot × 8 + entry) and what it then holds (R190 to R192). -/
def weightLoad (s : State) (v : Inst) : Instr → Option (Nat × WEntry)
  | .wld f =>
    match s.tile v (v.regs.getX f.a) with
    | .ok t =>
      let bs := s.tileBytes v t
      let entry (comp : Bool) (data : List Byte) : WEntry :=
        { valid := true, comp, ty := f.ty, band := t.hdr.band, source := handleOf t.cell (contextOf s v).home t.index, data }
      if !readable s v t then none
      else if f.fn.val / 8 % 2 = 1 then
        if isTile t .n8 16 (compressedBytes f.ty / 16) then
          some (f.d * 8 + f.fn % 8, entry true (bs.take (compressedBytes f.ty))) else none
      else if isTile t f.ty 16 16 then
        some (f.d * 8 + f.fn % 8, entry false (bs.take (if f.ty = .e2m1 then 160 else 32 * Ty.width f.ty))) else none
    | .error _ => none
  | .wcmp f =>
    match s.tile v (v.regs.getX f.a) with
    | .ok t =>
      let e : WEntry :=
        { valid := true, comp := true, ty := f.ty, band := t.hdr.band, source := handleOf t.cell (contextOf s v).home t.index,
          data := compressImage f.ty t.hdr.band (s.tileBytes v t) }
      if readable s v t && isTile t f.ty 16 16 then some (f.d * 8 + f.fn % 8, e) else none
    | .error _ => none
  | _ => none

/-- A dense 16 × 16 tile's element (k, j) as a number (04 R90, R91). -/
def denseValue (t : Ty) (band : BitVec 16) (bs : List Byte) (k j : Nat) : Fp :=
  weightValue t (elementCode t bs (16 * k + j)) (bs.getD (128 + 2 * k + j / 8) 0#8).toNat band

/-- How many of the group of four rows that holds row k rank before it in column j; of equal ranks the lower row goes first (04 R99;
09 R192). -/
def ranksBefore (value : Nat → Nat → Fp) (k j : Nat) : Nat :=
  ((List.range 4).filter fun i =>
    let r := k / 4 * 4 + i
    r ≠ k && (outranks (value r j) (value k j) || (!outranks (value k j) (value r j) && r < k))).length

/-- The sum of R100: sixteen products in rising k, each addition rounded to f32. -/
def sumOfProducts (x w : Nat → Fp) (start : Nat) : Nat :=
  (List.range 16).foldl (fun acc k => f32Bits ((f32 acc).add ((x k).mul (w k)))) start

/-- The rate class of a type in the matrix unit: 4, 8 or 16 bits (R193). -/
def rate (t : Ty) : Nat := Ty.width t

/-- What a form writes to an accumulator: the accumulator, and element (row, col) where it writes one. The forms are `mma` outside a
gang, `accwr` and `acczero`. -/
def accWrite (s : State) (v : Inst) : Instr → Option (Nat × (Nat → Nat → Option Lane))
  | .mma f =>
    match s.tile v (v.regs.getX f.a) with
    | .ok t =>
      let w := s.weight v (f.b * 8 + f.fn % 8)
      if v.gang.isNone && readable s v t && isTile t f.ty 16 16 && w.valid && rate w.ty = rate f.ty && !(cellOf s v).mxFull s.clk then
        let x := tileElements t.hdr (s.tileBytes v t)
        some (f.d, fun row col =>
          let start := if f.fn.val / 8 % 2 = 1 then 0 else (s.accElem v f.d row col).toNat
          some (BitVec.ofNat 32 (sumOfProducts (fun k => (x.getD (16 * row + k) (.int 0)).toFp) (fun k => w.value k col) start)))
      else none
    | .error _ => none
  | .accwr f =>
    let n := (v.regs.getX f.b).toNat
    let a := v.regs.getV f.a
    if n < 16 then some (f.d, fun row col => if row = n && selected v.regs f.mask f.neg col && a.ok col then some (a.lane col) else none)
    else none
  | .acczero f => some (f.d, fun _ _ => some 0#32)
  | _ => none

/-- What a logged form's copybook entry says: its kind, the destination tile, the sources, and the raw word (19 R343, R344). -/
def logOf (s : State) (v : Inst) : Instr → Except TrapInfo (Stage × Producer)
  | .mma f =>
    let w := s.weight v (f.b * 8 + f.fn % 8)
    match s.tile v (v.regs.getX f.a) with
    | .ok t => s.log v ⟨1, 0x73, f.fn % 256, f.d, f.b, f.fn % 8, w.comp, false⟩ none
        [(handleOf t.cell (contextOf s v).home t.index, false), (w.source, true)] 0#64
    | .error e => .error e
  | .accwr f =>
    let lanes := (List.range 16).filter fun j => selected v.regs f.mask f.neg j && (v.regs.getV f.a).ok j
    s.log v ⟨1, 0x77, (v.regs.getX f.b).toNat, f.d, 0, 0, false, false⟩ none [] (BitVec.ofNat 64 (lanes.foldl (fun m j => m + 2 ^ j) 0))
  | .acczero f => s.log v ⟨1, 0x78, f.fn % 256, f.d, 0, 0, false, false⟩ none [] 0#64
  | _ => .ok (v.stage, .none)

/-! ## Tiles (06 R141, R142; 09 R198 to R204; 12 R276) -/

/-- A field of a word, bits [hi:lo], replaced. -/
def replaced (w : Word) (hi lo n : Nat) : Word :=
  BitVec.ofNat 64 (w.toNat - w.toNat / 2 ^ lo % 2 ^ (hi + 1 - lo) * 2 ^ lo + n % 2 ^ (hi + 1 - lo) * 2 ^ lo)

/-- The forms that write a header of a tile of the own cell: its index, and its two words after (R201 to R203). -/
def headerWrite (s : State) (v : Inst) : Instr → Option (Nat × Word × Word)
  | .thdr f =>
    match s.tile v (v.regs.getX f.a) with
    | .ok t =>
      let b := (v.regs.getX f.b).toNat
      if t.cell ≠ v.place.cell then none
      else if f.fn.val % 8 = 2 then some (t.index, replaced t.hdr.word0 15 0 b, t.hdr.word1)
      else if f.fn.val % 8 = 3 then some (t.index, replaced t.hdr.word0 62 62 0, t.hdr.word1)
      else if f.fn.val % 8 = 4 then
        let w := replaced t.hdr.word0 56 36 (b / 2 ^ 36)
        if headerFits (HdrView.ofWords w t.hdr.word1) (b / 2 ^ 52 % 32) then some (t.index, w, t.hdr.word1) else none
      else none
    | .error _ => none
  | .tfree f =>
    match s.tile v (v.regs.getX f.a) with
    | .ok t => if t.cell = v.place.cell then some (t.index, replaced t.hdr.word0 63 63 0, t.hdr.word1) else none
    | .error _ => none
  | _ => none

/-- What `talloc` asks for: rows, cols and granules of the stored form; none where R201 raises the bad-header trap. -/
def allocationOf (v : Inst) (f : RForm) : Option (Nat × Nat × Nat) :=
  let n := (v.regs.getX f.a).toNat
  let rows := n % 256 + 1
  let cols := n / 256 % 256 + 1
  let bits_ := rows * cols * Ty.width f.ty
  let count := if f.ty = .e2m1 then (bits_ + 511) / 512 + (rows * cols / 8 + 63) / 64 else (bits_ + 511) / 512
  if n < 2 ^ 16 ∧ ¬(f.ty = .e2m1 ∧ cols % 8 ≠ 0) ∧ count ≤ 640 then some (rows, cols, count) else none

/-- Element k of a tile. -/
def element (s : State) (v : Inst) (t : Tile) (k : Nat) : Datum := (tileElements t.hdr (s.tileBytes v t)).getD k (.int 0)

/-- What a tile form writes: the destination tile, the tiles that it reads, its bytes, and the destination's new band if any (R198 to
R200); a magnitude that `quantb` gives is used where it is a positive finite bf16. -/
def tileWrite (s : State) (v : Inst) : Instr → Option (Tile × List Tile × List Byte × Option (BitVec 16))
  | .acccvt f =>
    match s.tile v (v.regs.getX f.a) with
    | .ok d => if isTile d f.ty 16 16 then
        some (d, [], packElements f.ty ((List.range 256).map fun e =>
          let w := (s.accElem v f.b (e / 16) (e % 16)).toNat
          if f.ty = .f32 then w else convertLane (Mode.ofCode v.hdr.round) .f32 f.ty w), none) else none
    | .error _ => none
  | .quant f => quantised f none
  | .quantb f =>
    let m := (v.regs.getX f.c).toNat % 2 ^ 15
    quantised f (if 0 < m ∧ m ≤ 0x7F7F then some m else none)
  | .tew f =>
    let op := f.fn.val % 8
    match s.tile v (v.regs.getX f.a), s.tile v (v.regs.getX f.b), s.tile v (v.regs.getX (if op = 5 then f.b else f.c)) with
    | .ok d, .ok b, .ok c =>
      if isTile d f.ty b.hdr.rows b.hdr.cols && isTile b f.ty c.hdr.rows c.hdr.cols && c.hdr.ty = f.ty then
        if op = 5 then some (d, [b], (s.tileBytes v b).take (d.hdr.granules * 64), some b.hdr.band)
        else some (d, [b, c], packElements f.ty ((List.range (d.hdr.rows * d.hdr.cols)).map fun k =>
          tewElement f.ty op (element s v b k) (element s v c k)), none)
      else none
    | _, _, _ => none
  | _ => none
where
  quantised (f : RForm) (given : Option Nat) : Option (Tile × List Tile × List Byte × Option (BitVec 16)) :=
    match s.tile v (v.regs.getX f.a), s.tile v (v.regs.getX f.b) with
    | .ok d, .ok b =>
      if isTile d f.ty b.hdr.rows b.hdr.cols && (b.hdr.ty = .f32 || b.hdr.ty = .bf16 || b.hdr.ty = .f16) then
        let els := tileElements b.hdr (s.tileBytes v b)
        let mode := Mode.ofCode v.hdr.round
        if f.ty ≠ .e2m1 then some (d, [b], packElements f.ty (els.map (convertDatum mode f.ty)), none)
        else
          let vs := els.map Datum.toFp
          let band := match given with
            | some m => BitVec.ofNat 16 m
            | none => if (amaxOf vs).num = 0 then d.hdr.band else BitVec.ofNat 16 (bandOf (amaxOf vs))
          some (d, [b], packE2m1 mode (bandFrac band) vs, some band)
      else none
    | _, _ => none

/-- The copybook entry of a tile form (19 R343 to R345). -/
def tileLog (s : State) (v : Inst) (i : Instr) (d : Tile) (srcs : List Tile) : Except TrapInfo (Stage × Producer) :=
  let handle (t : Tile) : Nat := handleOf t.cell (contextOf s v).home t.index
  let entry (p fn acc : Nat) : Except TrapInfo (Stage × Producer) :=
    s.log v ⟨1, p, fn % 256, acc, 0, 0, false, false⟩ (some (handle d)) (srcs.map fun t => (handle t, false)) 0#64
  match i with
  | .acccvt f => entry 0x79 f.fn f.b
  | .quant f => entry 0x7A f.fn 0
  | .quantb f => entry 0x7B f.fn 0
  | .tew f => entry 0x7C f.fn 0
  | _ => .ok (v.stage, .none)

/-! ## Gangs, collectives and neighbours (09 R195; 10 R208 to R217) -/

/-- The instances of a segment in the aligned group of cells of an instance. -/
def groupOf (s : State) (v : Inst) (size : Nat) : List (Nat × Inst) :=
  s.insts.filter fun i => i.2.place.seg = v.place.seg && i.2.place.cell / size = v.place.cell / size

/-- A collective form's primary, and what the seat brings: lanes (invalid where absent, R210) and a scalar. -/
def brings (v : Inst) : Instr → Option (Nat × QForm × VecVal × Word)
  | .sred f => some (0x80, f, masked f, 0#64)
  | .sscan f => some (0x81, f, masked f, 0#64)
  | .scav f => some (0x82, f, masked f, 0#64)
  | .sbcast f => some (0x83, f, v.regs.getV f.a, v.regs.getX f.b)
  | .srank f => some (0x84, f, VecVal.none, v.regs.getX f.a)
  | _ => none
where
  masked (f : QForm) : VecVal :=
    VecVal.ofFn (v.regs.getV f.a).lane fun j => (v.regs.getV f.a).ok j && selected v.regs f.mask f.neg j

/-- A seat that has issued its next collective and waits for the sweep (R208). -/
def brought (i : Instr) (v : Inst) (clk : Nat) (word : Word) (vec : VecVal) (val : Word) : Inst :=
  { v with colls := v.colls + 1, collWord := word, collVec := vec, collVal := val, status := .waiting .sweep, wake := none,
           waitSince := some clk, regs := freeAll v.regs ((usesOf i).lasts.filter fun q => !(usesOf i).writes.contains q) }

/-- Whether the waiting seats of a segment agree in their next collective (R209). -/
def agree (s : State) (g k : Nat) (word val : Word) : Bool :=
  s.insts.all fun i => !(i.2.place.seg = g && i.2.colls = k && i.2.status = .waiting .sweep) ||
    (collFields i.2.collWord = collFields word && (word.toNat / 2 ^ 56 ≠ 0x83 || i.2.collVal = val))

/-- The combination that a position of a combining sweep receives: of all, of those before it (with itself unless exclusive), or of all
others (R214). -/
def combined {α : Type} (op : α → α → α) (primary : Nat) (excl : Bool) (vs : List (Option α)) (p : Nat) : Option α :=
  if primary = 0x80 then reduceOf op vs
  else if primary = 0x81 then prefixOf op vs (if excl then p else p + 1)
  else cavityOf op vs p

/-- What lane j of seat q receives in a combining sweep, `rows` being the seats' lanes in seat order (R210, R212 to R214). -/
def sweptLane (f : QForm) (primary : Nat) (rows : List VecVal) (q j : Nat) : Nat :=
  let rows := if f.dir then rows.reverse else rows
  let p := if f.dir then rows.length - 1 - q else q
  if f.comb.val = 7 then
    let k := j / 2
    let r := (combined affineJoin primary f.ord (rows.map fun v =>
      if v.ok (2 * k) && v.ok (2 * k + 1) then some ((v.lane (2 * k)).toNat, (v.lane (2 * k + 1)).toNat) else none) p).getD affineIdentity
    if j % 2 = 0 then r.1 else r.2
  else
    (combined (combine f.comb f.ty) primary f.ord (rows.map fun v => if v.ok j then some (v.lane j).toNat else none) p).getD
      (identity f.comb f.ty)

/-- The lanes that the seats of a segment bring to sweep k, in seat order; a seat that takes no part brings none. -/
def broughtLanes (s : State) (g seglen k : Nat) : List VecVal :=
  (List.range seglen).map fun q => match s.seatInst g q with
    | some i => if i.2.inSweep k then i.2.collVec else VecVal.none
    | none => VecVal.none

/-- Whether a seat's flag counts for seat q in `srank`: it lies before it in the direction, or all count (R216). -/
def flagged (s : State) (f : QForm) (g k q r : Nat) : Bool :=
  (match s.seatInst g r with | some i => i.2.inSweep k && i.2.collVal ≠ 0#64 | none => false) &&
    (f.fn.val % 2 = 1 || (if f.dir then q < r else r < q))

/-- The neighbour that a direction names: the right one, or the left one. -/
def neighbour (s : State) (v : Inst) (right : Bool) : Option (Nat × Inst) :=
  if right then s.seatInst v.place.seg (v.place.seat + 1)
  else if v.place.seat = 0 then none else s.seatInst v.place.seg (v.place.seat - 1)

/-- Vectors that a receiver's queue holds or has coming, from one side. -/
def pendingVectors (u : Inst) (fromRight : Bool) : Nat :=
  if fromRight then u.rcvRight.length + u.comingRight else u.rcvLeft.length + u.comingLeft

/-- An instance whose queue from one side has lost its oldest vector. -/
def taken_ (v : Inst) (fromRight : Bool) (rest : List VecVal) : Inst :=
  if fromRight then { v with rcvRight := rest } else { v with rcvLeft := rest }

/-! ## Waiting for an event (01 R15; 06 R124) -/

/-- An instance that has issued a form and waits for the event that completes it. -/
def pausing (i : Instr) (v : Inst) (clk : Nat) (w : Wait) : Inst :=
  { v with status := .waiting w, wake := none, waitSince := some clk,
           regs := freeAll v.regs ((usesOf i).lasts.filter fun q => !(usesOf i).writes.contains q) }

/-- An instance whose waiting form an event completes in a clk, its registers being `r`: the next instruction issues in that clk. -/
def released (i : Instr) (v : Inst) (clk : Nat) (r : Regs) : Inst :=
  { ({ v with regs := r }.advance { usesOf i with lasts := [] } clk 0) with wake := some clk }

/-- An event of the agenda. -/
def scheduled (t : State) (at_ : Nat) (ev : Instr) : Prop := ∃ e ∈ t.agenda, e.at_ = at_ ∧ e.ev = ev

/-! ## Storage (10 R226 to R229; 03 R76) -/

/-- The park record of n words of the own side, and the scratch address that they stand at. -/
def parkWords (s : State) (v : Inst) (a n : Nat) : List Word :=
  BitVec.ofNat 64 (n * 2 ^ 48) :: (List.range n).map fun k => BitVec.ofNat 64 (number (s.sideBytes v v.place.cell (a + 8 * k) 8))

/-- The slice of a record that `fetch` takes: its words, when every check of R229 holds. -/
def fetched (s : State) (v : Inst) (f : RForm) : Option (List Word) :=
  let w := (v.regs.getX f.a).toNat
  let b := (v.regs.getX f.b).toNat
  let c := (v.regs.getX f.c).toNat
  let a := w % 2 ^ 48
  let n := v.declared.getD 0
  let head := readNat s.mem a 8
  let len := head / 2 ^ 48
  let m := if len ≤ c then 0 else min (len - c) (n - b)
  let src := a + 8 + 8 * c
  let ws := (List.range m).map fun k => BitVec.ofNat 64 (readNat s.mem (src + 8 * k) 8)
  if w / 2 ^ 60 = 9 ∧ symbolOk v.place.cellcount (v.regs.getX f.a) = true ∧ w / 2 ^ 48 % 2 = 0 ∧ b < n ∧
      ((segment? s v).bind (·.offsets)).isSome = true ∧ ((contextOf s v).parks.any fun r => r.staged && r.addr = a) = false ∧
      s.fetchable v.place.ctx a 8 = true ∧ farExists a 8 = true ∧ s.farPoisoned a 8 = false ∧ head / 2 % 2 ^ 39 = 0 ∧
      (m = 0 ∨ (s.fetchable v.place.ctx src (8 * m) = true ∧ farExists src (8 * m) = true ∧ s.farPoisoned src (8 * m) = false)) ∧
      (ws.all fun x => symbolOk v.place.cellcount x) = true
  then some ws else none

/-- Symbols staged at rising indices. -/
def stagedAt (v : Inst) (i : Nat) (ws : List Word) : Inst :=
  { v with stage := { v.stage with syms := ws.zipIdx.foldl (fun m w => putA m (i + w.2) w.1) v.stage.syms } }

/-! ## Synchronisation (12 R260 to R273) -/

/-- Whether a bell with rel = 1 waits for the far writes that its context had released when it was issued (R272). -/
def bellWaits (s : State) (v : Inst) (f : IForm) : Bool :=
  f.imm.val / 1024 % 2 = 1 && !s.writesDone v.place.ctx (v.relMark.getD s.ids)

/-- An instance whose bell has not to wait any more. -/
def rung (i : Instr) (v : Inst) : Inst := match i with | .bell _ => { v with relMark := none } | _ => v

/-- The operation that a form sends to an engine: the engine's index, the address, the operands, and whether it engages the segment at
issue; none where a check of R260 or R266 fails. -/
def syncRequest (s : State) (v : Inst) (i : Instr) : Option (Nat × Nat × Word × Word × Bool) :=
  let word (f : MForm) (bits_ : Nat) : Option (Nat × Nat × Word × Word × Bool) :=
    let a := (v.regs.getX f.a + BitVec.ofInt 64 (((f.off.val % 2 ^ bits_ : Nat) : Int).bmod (2 ^ bits_))).toNat
    let n := Ty.width f.ty / 8
    if a < 2 ^ 16 ∧ a + n ≤ (contextOf s v).syncLen ∧ a % n = 0 then
      some (a / 4096, a, v.regs.getX f.d, v.regs.getX (f.d + 1), true) else none
  let pass (f : IForm) (engages : Bool) : Option (Nat × Nat × Word × Word × Bool) :=
    let p := f.imm.val % 256
    if p < (contextOf s v).passCount then some (p, p, 0#64, 0#64, engages) else none
  match i with
  | .aadd f | .amin f | .amax f | .axchg f | .acas f | .aand f | .aor f | .scld f | .scst f => word f 32
  | .scrmw f => word f 29
  | .pacq f | .pqry f => pass f false
  | .prel f => pass f true
  | .bell f =>
    let scope := f.imm.val / 256 % 4
    let b := f.imm.val % 64
    let owner := if scope = 1 then v.place.ctx else v.place.slot
    if scope = 0 ∨ bellWaits s v f = true then none
    else some (b, bellKey scope owner b, BitVec.ofNat 64 ((v.regs.getX f.a).toNat % 2 ^ 20), 0#64, false)
  | _ => none

/-- What an atomic or baton form writes to its word, by R264, R265 and R273; none where it writes nothing. -/
def atomicResult (i : Instr) (old : Nat) (x y : Word) : Option (MForm × Option Nat) :=
  let op (f : MForm) (n : Nat) : Option Nat :=
    let w := Ty.width f.ty
    let a := x.toNat % 2 ^ w
    let number_ (ff : Fp → Fp → Fp) (fi : Int → Int → Int) : Nat :=
      if f.ty = .f32 then f32Bits (ff (f32 old) (f32 a)) else (BitVec.ofInt w (fi (wrap f.ty old) (wrap f.ty a))).toNat
    some (match n with
      | 0 => number_ Fp.add (· + ·)
      | 1 => number_ Fp.min min
      | 2 => number_ Fp.max max
      | 3 => a
      | 4 => old &&& a
      | _ => old ||| a)
  let cas (f : MForm) : Option Nat :=
    if Ty.width f.ty = 64 then (if old = x.toNat then some y.toNat else none)
    else if old = x.toNat / 2 ^ 32 then some (x.toNat % 2 ^ 32) else none
  match i with
  | .aadd f => some (f, op f 0)
  | .amin f => some (f, op f 1)
  | .amax f => some (f, op f 2)
  | .axchg f => some (f, op f 3)
  | .aand f => some (f, op f 4)
  | .aor f => some (f, op f 5)
  | .acas f => some (f, cas f)
  | .scld f => some (f, none)
  | .scst f => some (f, op f 3)
  | .scrmw f => some (f, if f.off.val / 2 ^ 29 = 6 then cas f else op f (f.off.val / 2 ^ 29))
  | _ => none

/-- The register that a reply writes: none for `scst` and `prel`. -/
def replyRegister : Instr → Option Nat
  | .aadd f | .amin f | .amax f | .axchg f | .acas f | .aand f | .aor f | .scld f | .scrmw f => some f.d
  | .pacq f | .pqry f | .bell f => some f.d
  | _ => none

/-- Whether an engine performs an operation in this clk. -/
def performsNow (s : State) (op : SyncOp) : Bool :=
  !op.performed && (op.slot.isSome || !isBaton op.instr) &&
    (match op.slot with | some c => c | none => s.engineFree.toList.getD (op.engine % 4) 0) ≤ s.clk

/-- An operation that its engine has performed, with its reply (12 R261). -/
def replied (t : State) (k : Nat) (op : SyncOp) (reply : Word) (trap : Option Nat) : Prop :=
  lookupA t.syncOps k = some { op with reply, trap, performed := true } ∧ scheduled t (t.clk + op.travel) (.syncReply k)

/-- The pass of a partition. -/
def passOf (s : State) (c p : Nat) : Pass := getD Pass.free (s.part (s.ctx c).slot).passes p

/-! ## Copies (11 R247 to R256) -/

/-- A copy command of an instance as its engine's queue takes it (R251). -/
def commandOf (s : State) (id : Nat) (v : Inst) (red : Bool) (d : Desc) (k : Command) : Prop :=
  let e := s.engineOf v.place.slot v.place.cell
  k.ctx = v.place.ctx ∧ k.launch = v.place.launch ∧ k.seg = v.place.seg ∧ k.inst = id ∧ k.cell = v.place.cell ∧ k.quarter = e.1 ∧
    k.engine = e.2 ∧ k.red = red ∧ k.desc = d ∧ k.stream = v.stream ∧ k.readyAt = s.clk + 25 ∧ k.released = false ∧ k.running = false ∧
    k.cancelled = false

/-- An instance that goes on 5 clk after a form that has read a descriptor (R247). -/
def afterRead (i : Instr) (clk : Nat) (v : Inst) : Inst := { completed i clk v 1 with wake := some (clk + 5) }

/-- The bytes of a far word or of a run of bytes as performed at a physical address: every byte of far memory. -/
def performed (s t : State) (a : Nat) (bs : List Byte) : Prop := ∀ b, readByte t.mem b = written [(a, bs)] b (readByte s.mem b)

/-- The physical address of a leased access of n bytes, by R390. -/
def physical (rs : List Range) (entry off n : Nat) (write : Bool) : Option Nat :=
  (rs[entry]?).bind fun r => if off + n ≤ r.length ∧ (if write then r.wr else r.rd) = true then some (r.base + off) else none

/-! ## Lessons and the row (02 R37 to R57; 03 R64 to R80) -/

/-- The lesson buffer that a cell runs from. -/
def current (x : CellCtx) : Option LessonBuf := if x.cur = 0 then x.buf0 else x.buf1

/-- The state that every instance sees at its start, and its place, by R22 and R49. -/
def startsAs (s : State) (g i : Nat) (x : Segment) (v : Inst) : Prop :=
  let sym := x.syms.getD i 0#64
  v.place = { ctx := x.ctx, slot := x.slot, cell := x.openCell + i, seat := i, seglen := x.seglen, seg := g, launch := x.launch,
              opnum := x.opnum, cellcount := (s.part x.slot).cellcount, part := s.partNumber x.slot, symbol := sym,
              nest := sym.toNat / 2 ^ 52 % 256 } ∧
    v.pc = 0 ∧ v.committed = false ∧ v.status = .running ∧ v.wake = some s.clk ∧ v.stage = Stage.empty ∧
    (∀ n, n < 32 → v.regs.getX n = 0#64 ∧ ∀ j, j < 16 → (v.regs.getV n).lane j = 0#32 ∧ (v.regs.getV n).ok j = true) ∧
    (∀ n, 0 < n → n < 8 → v.regs.getK n = 0#16) ∧ ∀ n, n < 3 → v.regs.getLc n = 0#32

/-- The number and the words of an entry of a syllabus table. -/
def syllabusEntry (s : State) (table i : Nat) : Nat × Nat := (readNat s.mem (table + 16 + 16 * i) 8, readNat s.mem (table + 24 + 16 * i) 8)

/-- The kind and the level of a symbol word. -/
def kind (w : Word) : Nat := w.toNat / 2 ^ 60
/-- See `kind`. -/
def level (w : Word) : Nat := w.toNat / 2 ^ 52 % 256

/-- Whether seats f to l of a row are an innermost application of which no seat is empty or blocks, by R39 to R41. -/
def readyAt_ (s : State) (x : Ctx) (f l : Nat) : Prop :=
  f < l ∧ kind (x.seat f).sym = 1 ∧ kind (x.seat l).sym = 2 ∧ level (x.seat f).sym = level (x.seat l).sym ∧
    (∀ p, f < p → p ≤ l → kind (x.seat p).sym ≠ 1) ∧
    ∀ p, f ≤ p → p ≤ l → kind (x.seat p).sym ≠ 0 ∧ (x.seat p).frozen = false ∧ (x.seat p).busy = none ∧
      ¬ (kind (x.seat p).sym = 9 ∧ (x.seat p).sym.toNat / 2 ^ 48 % 2 = 1) ∧
      ∃ v, lookupA s.launches (x.seat p).launch = some v ∧ v.phase = .running ∧ v.status = none

/-- Whether an instance has not emitted all the symbols that it declared. -/
def short (v : Inst) : Bool := (List.range (v.declared.getD 0)).any fun k => (lookupA v.stage.syms k).isNone

/-- The output of a segment: the staged symbols of its seats in order, each seat's in index order (R54). -/
def outputOf (s : State) (g : Nat) (x : Segment) : List Word :=
  (List.range x.seglen).flatMap fun i =>
    match s.seatInst g i with
    | some (_, v) => (List.range (v.declared.getD 0)).map fun k => getD 0#64 v.stage.syms k
    | none => []

/-- Whether an output may be committed under an open of some level (R54). -/
def wellFormed (l : Nat) (out : List Word) : Bool :=
  termsOk 0 [] false out && out.all fun w => w.toNat / 2 ^ 48 % 2 = 0 && l + level w ≤ 255

/-- The words of a launch's completion record (23 R376; 25 R402) whose start is known. -/
def recordOf (s : State) (l : Nat) (v : Launch) (start : Nat) : List Word :=
  let base := (s.part v.slot).clkBase
  let row := ((s.ctx v.ctx).row.filter fun p => p.2.launch = l && kind p.2.sym ≠ 0).map fun p => p.2.sym
  let result := if v.status.isSome then [] else row.take ((v.record.getD 2 0#64).toNat / 2 ^ 24 % 256)
  let status := match v.status, v.noted with | some n, _ => n | none, some n => n | none, none => 0
  [v.record.getD 6 0#64, BitVec.ofNat 64 status, BitVec.ofNat 64 v.pos, if v.status.isSome then 0#64 else v.digest,
   BitVec.ofNat 64 result.length, BitVec.ofNat 64 v.firstCard, BitVec.ofNat 64 (start - base), BitVec.ofNat 64 (v.endClk - base)] ++ result

/-- The bytes of words in memory. -/
def wordBytes (ws : List Word) : List Byte := ws.flatMap fun w => bytesOf 8 w.toNat

/-- The seat that a wave leaves at p (R69, R70, R72). -/
def seatAfter (x : Ctx) (moves : List (Nat × Nat)) (p : Nat) : SeatState :=
  match moves.find? fun m => m.2 = p with
  | some m => { x.seat m.1 with frozen := false, reserved := (x.seat p).reserved }
  | none => if moves.any fun m => m.1 = p then { SeatState.free with reserved := (x.seat p).reserved } else x.seat p

/-! ## The host and the partition (23; 24 R385 to R389) -/

/-- A context with its command status set (R373), and nothing else changed. -/
def commanded (s : State) (c code : Nat) (refused : Bool) : State :=
  s.modCtx c fun x => { x with cmdStatus := BitVec.ofNat 64 (code + if refused then 16 else 0) }

/-- The context commands but `create`, with their codes and what an accepted one sets in the context at once (R380). -/
def commandOfCode (c : Nat) (x : Ctx) : List (Nat × Instr × Ctx) :=
  [(2, .destroy c, { x with dying := true }), (3, .resetCounters c, { x with resetting := true }),
   (4, .cancelSends c, { x with armed := [], reserved := x.reserved - x.armed.length }), (5, .suspend c, { x with suspended := true }),
   (6, .resume c, { x with suspended := false })]

/-- Whether lists of ranges overlap: first byte and length. -/
def rangesMeet (a b : List (Nat × Nat)) : Prop := ∃ x ∈ a, ∃ y ∈ b, x.1 < y.1 + y.2 ∧ y.1 < x.1 + x.2

/-- Whether a later launch depends on an earlier one in the unit (R378). -/
def mustWait (later earlier : DepRanges) : Prop :=
  later.wild = true ∨ earlier.wild = true ∨ rangesMeet earlier.writes later.reads ∨ rangesMeet earlier.reads later.writes ∨
    rangesMeet earlier.writes later.writes

/-- A launch queue with the record at its head taken: the place is refilled from the ring's head (R377). -/
def headTaken (s : State) (u : LQueue) : LQueue :=
  if u.ringCount = 0 then { u with die := u.die.drop 1 }
  else
    let a := u.base.toNat % 2 ^ 48 + 64 * (u.ringHead % max 1 u.size)
    { u with die := u.die.drop 1 ++ [(u.nextPos - u.ringCount, (List.range 8).map fun k => BitVec.ofNat 64 (readNat s.mem (a + 8 * k) 8))],
             ringHead := u.ringHead + 1, ringCount := u.ringCount - 1 }

/-- The lowest side of a partition's cells that no context holds (R382). -/
def sideFree (s : State) (slot side : Nat) : Prop := ∀ x ∈ s.ctxs, ¬ (x.2.slot = slot ∧ x.2.holds = true ∧ x.2.side = side)

/-- Whether the parts of a context lie within the places of the eviction area (23 R381, R384): 64 headers, four accumulators, 32 weight
entries and 32 records of each user queue. -/
def imageFits (x : Ctx) : Bool :=
  x.cells.all (fun k => k.2.hdrs.all (fun h => h.1 < 64) && k.2.acc.all (fun a => a.1 < 1024) && k.2.weights.all (fun w => w.1 < 32)) &&
    [x.queue6, x.queue7].all fun q => q.length ≤ 32 && q.all fun r => r.length = 8

/-- Segments that a pre-emption of a context discards at once: uncommitted, unengaged, with no queue push on its way and no collective
(02 R61; 23 R381). -/
def discardedAtOnce (s : State) (c : Nat) (g : Nat × Segment) : Prop :=
  g.2.ctx = c ∧ g.2.engaged = false ∧ g.2.phase ≠ .committing ∧ g.2.phase ≠ .tail ∧
    (∀ o ∈ s.queueOps, o.2.push = true → ∀ v, s.inst? o.2.inst = some v → v.place.seg ≠ g.1) ∧ ∀ k ∈ s.colls, k.2.seg ≠ g.1

/-! ## Power, collectives and the device (15 R308; 21; 24 R395; 26; 27) -/

/-- The rise of a limiter's ceiling in a step, by ramp code (R308, R410). -/
def riseOf (code c : Nat) : Nat :=
  let r := if c < 8 then 2 else if c < 64 then 8 else if c < 512 then 64 else 256
  if code = 0 then r else if code = 1 then max 1 (r / 2) else max 1 (r / 4)

/-- The fall of a ceiling c in a step (R308). -/
def fallOf (c : Nat) : Nat :=
  let b := c - 1
  if b < 8 then 1 else if b < 64 then 4 else if b < 512 then 32 else 128

/-- The demand on a limiter at a boundary, within its unit limit: the units that still stream, and those of every ready request (R308, R411). -/
def demandOf (s : State) (q : Nat) : Nat :=
  let l := s.limiter q
  let streams (u : Nat × Nat) : Bool := (s.cell u.1 u.2).mx.any fun o => match o.first with | some f => s.clk < f + o.rows | none => true
  let asks (u : Nat × Nat) : Bool := (s.cell u.1 u.2).mx.any fun o => o.first.isNone
  let ready := l.waiting.filter fun r => r.2 ≤ s.clk && r.1.all asks
  min ((l.admitted.filter streams).length + (ready.map fun r => r.1.length).sum) l.unitLimit

/-- The slots of a partition layout, and the quarters of each (R413). -/
def slotsOf (layout : Nat) : List Nat × Nat := if layout = 0 then ([0], 4) else if layout = 1 then ([0, 2], 2) else ([0, 1, 2, 3], 1)

/-- Whether an image passes every check of the table of R405. -/
def imageAccepted (d : Device) (m : Memory) : Prop :=
  let w (i : Nat) : Nat := readNat m (8 * i) 8
  let n := w 1 % 2 ^ 32
  (w 0 / 2 ^ 32 = 0x4C584657 ∧ w 1 / 2 ^ 32 = 0 ∧ n % 64 = 0 ∧ n ≤ 16776704 ∧ ∀ i, i < 44 → w (8 + i) = 0) ∧
    sha384 (readBytes m 512 n) = readBytes m 16 48 ∧
    Config.signatureGood (readBytes m 0 416 ++ readBytes m 512 n) (readBytes m 416 96) = true ∧ d.rollback ≤ w 0 % 2 ^ 16

/-- A state with its device changed. -/
def onDevice (s : State) (d : Device) : State := { s with dev := d }

/-- The answers of the attestation responder (R407, R408): a request and its answer on a device that may attest or not. -/
def spdmAnswers (d : Device) : List (Instr × SpdmAnswer) :=
  let life := match d.lifecycle with | .blank => 0 | .provisioned => 1 | .deployed => 2 | .returned => 3
  let boot := match d.boot with | .rom => 0 | .waitingImage => 1 | .verifying => 2 | .firmware => 3 | .halted => 4
  let debug := match d.debug with | .none => 0 | .observe => 1 | .intrusive => 2
  let power := match d.power with | .active => 0 | .retention => 2 | .off => 3
  let word := boot + 2 ^ 4 * life + 2 ^ 8 * debug + 2 ^ 12 * power + 2 ^ 16 * (d.rollback % 2 ^ 48)
  let blocks : List (List Byte) := [Config.identityBytes 0 0, d.digest ++ bytesOf 2 d.svn, bytesOf 8 word]
  let signs : Bool := d.identityKey && (d.lifecycle = .provisioned || d.lifecycle = .deployed)
  let signed (a : SpdmAnswer) : SpdmAnswer := if signs then a else .refused
  [(.getVersion, .version 0x13), (.getCapabilities, .capabilities), (.negotiateAlgorithms, .algorithms),
   (.getDigests, signed (.digests (Config.identityBytes 1 0))), (.getCertificate, signed (.certificate (Config.identityBytes 2 0))),
   (.challenge, signed (.signed d.nonce blocks (Config.identityBytes 3 d.nonce))),
   (.getMeasurements, signed (.signed d.nonce blocks (Config.identityBytes 4 d.nonce))), (.keyExchange, .refused)]

/-- Whether a segment may still be discarded: it is uncommitted and not engaged (02 R59 to R61). -/
def loose (g : Segment) : Bool := !g.engaged && g.phase ≠ .committing && g.phase ≠ .tail

/-- A vector of error counts with class k counted once more. -/
def counted (v : Vector Word 7) (k : Nat) (j : Nat) : Word := v.toList.getD j 0#64 + if j = k then 1#64 else 0#64

/-- A launch that a status may still end. -/
def mayEnd (s : State) (l : Nat) : Prop := ∃ v, lookupA s.launches l = some v ∧ v.phase ≠ .retired ∧ v.status = none

/-! ## Taking a trap (06 R134; 24 R392, R394) -/

/-- Whether a tail issues an instruction of a primary (R57): groups 0x0 to 0x7 and 0xA, a tile instruction outside record mode alone, and
`trap`, `brk`, `nop`, `pcrd` and `rdclk`. -/
def tailMay (p : Nat) (record : Bool) : Bool :=
  (p / 16 ≤ 7 && !(p / 16 = 7 && record)) || p / 16 = 10 || ([0xE0, 0xE4, 0xE5, 0xE6, 0xEB] : List Nat).contains p

/-- The report-card entry of a trap (R394): its status and cause, kind 1, the operator and the open seat of its segment; the word, its
index and the seat; the launch's position and queue, the clk, the context, and the entry's number. -/
def trapCard (s : State) (v : Inst) (status cause number : Nat) : List Word :=
  let l := launch? s v
  let b := if v.buf = 0 then (cellOf s v).buf0 else (cellOf s v).buf1
  [BitVec.ofNat 64 (status * 2 ^ 48 + cause % 256 * 2 ^ 40 + 2 ^ 32 + v.place.opnum % 65536 * 2 ^ 16 +
      ((segment? s v).map (·.openSeat)).getD 0 % 65536),
   BitVec.ofNat 64 (((b.map (·.words)).getD []).getD v.pc 0),
   BitVec.ofNat 64 (v.place.seat % 65536 * 2 ^ 48 + v.pc % 256 * 2 ^ 40), 0#64,
   BitVec.ofNat 64 ((l.map (·.pos)).getD 0), BitVec.ofNat 64 (s.rdclk (contextOf s v).slot),
   BitVec.ofNat 64 (((l.map (·.queue)).getD 0) * 256 + v.place.ctx), BitVec.ofNat 64 number]

/-- The memory once a trap is on the report card of its context: a full ring counts the entry as lost instead. -/
def carded (s : State) (v : Inst) (status cause : Nat) : Memory :=
  let a := ((contextOf s v).block.getD 5 0#64).toNat % 2 ^ 48
  let size := readNat s.mem a 8
  let tail := readNat s.mem (a + 16) 8
  let number := readNat s.mem (a + 32) 8
  if size < 64 ∨ 65536 < size then s.mem
  else if size ≤ (tail + 2 ^ 64 - readNat s.mem (a + 8) 8) % 2 ^ 64 then writeNat s.mem (a + 24) 8 (readNat s.mem (a + 24) 8 + 1)
  else
    writeNat (writeNat (writeWords s.mem (a + 64 + 64 * (tail % size)) (trapCard s v status cause number)) (a + 16) 8 ((tail + 1) % 2 ^ 64))
      (a + 32) 8 (number + 1)

/-! ## What every step keeps -/

/-- The data of a state in the form that the statements rely on: memory and scratch in canonical form, the tables of contexts, instances,
segments and far reads and every row in rising order, and no header staged by an instance that has committed (02 R51). -/
def Tidy (s : State) : Prop :=
  Memory.wf s.mem = true ∧ Memory.wf s.scr = true ∧ sortedA s.ctxs = true ∧ sortedA s.insts = true ∧ sortedA s.segs = true ∧
    sortedA s.farReads = true ∧ (∀ x ∈ s.ctxs, sortedA x.2.row = true) ∧ ∀ x ∈ s.insts, stagesNothing x.2

end Sys2Proof.Claims

open Sys2Proof Sys2Proof.Machine Sys2Proof.Claims

/-- 07 R143, R145 to R147: every register-form arithmetic instruction that issues completes; D is its tabulated effect on the source
values, modulo 2^w and extended to 64 bits. -/
def Obligations.ScalarRegisterForms : Prop :=
  ∀ (i : Instr) (f : RForm) (op : Int → Int → Int) (s : State) (id : Nat) (v : Inst),
    registerForm i = some (f, op) → legal i = true → issues i s id v = true →
    exec i s = .next (retired i s id
      (withX v f.d (widened f.ty (op (source f.ty (v.regs.getX f.a)) (source f.ty (v.regs.getX f.b))))) 1)

/-- 07 R143, R144, R148: the same of the immediate forms. -/
def Obligations.ScalarImmediateForms : Prop :=
  ∀ (i : Instr) (f : IForm) (op : Int → Int) (s : State) (id : Nat) (v : Inst),
    immediateForm i = some (f, op) → legal i = true → issues i s id v = true →
    exec i s = .next (retired i s id (withX v f.d (widened f.ty (op (source f.ty (v.regs.getX f.a))))) 1)

/-- 07 R145, R148, R149, R156, R161; 08 R177: the forms that move a value into a scalar register complete with that value. -/
def Obligations.ScalarMoves : Prop :=
  ∀ (i : Instr) (d latency : Nat) (w : Word) (s : State) (id : Nat) (v : Inst),
    scalarMove v i = some (d, w, latency) → legal i = true → issues i s id v = true →
    exec i s = .next (retired i s id (withX v d w) latency)

/-- 07 R161, 08 R172, R178: the forms that write a mask register complete with every one of its sixteen bits as stated. -/
def Obligations.MaskForms : Prop :=
  ∀ (i : Instr) (d latency : Nat) (b : Nat → Bool) (s : State) (id : Nat) (v : Inst),
    maskWrite v i = some (d, b, latency) → legal i = true → issues i s id v = true →
    ∃ w : BitVec 16, (∀ j < 16, w.getLsbD j = b j) ∧ exec i s = .next (retired i s id (withK v d w) latency)

/-- 07 R150, R151; 06 R127: a branch that holds and a jump whose target lies in 0…n transfer control there; a branch that does not hold
completes; another jump raises illegal-instruction cause 12. -/
def Obligations.BranchesAndJumps : Prop :=
  (∀ (f : LForm) (s : State) (id : Nat) (v : Inst), legal (.b f) = true → issues (.b f) s id v = true →
    exec (.b f) s = .next (if taken f v.regs
      then s.setInst id (v.transfer (usesOf (.b f)) s.clk (v.pc + offset f).toNat true) else retired (.b f) s id v 1)) ∧
  (∀ (f : LForm) (s : State) (id : Nat) (v : Inst), legal (.j f) = true → issues (.j f) s id v = true →
    let t := v.pc + offset f + (v.regs.getX f.a).toInt
    exec (.j f) s = .next (if 0 ≤ t ∧ t ≤ v.hdr.count
      then s.setInst id (v.transfer (usesOf (.j f)) s.clk t.toNat true) else trapped s id 0x10 12))

/-- 07 R152, R155: `loop` opens a loop, passes over a body that runs no times, or raises the loop-nest trap; `lexit` leaves the loops down
to its counter's without a decrement, goes on, or raises the trap. -/
def Obligations.Loops : Prop :=
  (∀ (f : LForm) (s : State) (id : Nat) (v : Inst), legal (.loop f) = true → issues (.loop f) s id v = true →
    let u := usesOf (.loop f)
    let t := (v.pc + offset f).toNat
    let n : Lane := BitVec.ofNat 32 (v.regs.getX f.a).toNat
    exec (.loop f) s = .next (
      if nestTrap f v then trapped s id 0x12 0
      else if n = 0#32 ∨ offset f = 1 then
        s.setInst id ({ v with regs := v.regs.setLc f.ctr 0#32 }.transfer u s.clk t false)
      else
        let r := v.regs.setLc f.ctr n
        let e : LoopEntry := { ctr := f.ctr, start := v.pc + 1, stop := t }
        s.setInst id ({ v with regs := { r with loops := e :: v.regs.loops } }.transfer u s.clk (v.pc + 1) false))) ∧
  (∀ (f : LForm) (s : State) (id : Nat) (v : Inst), legal (.lexit f) = true → issues (.lexit f) s id v = true →
    exec (.lexit f) s = .next (
      match v.regs.loops.dropWhile fun e => e.ctr ≠ f.ctr.val with
      | [] => trapped s id 0x12 0
      | e :: es =>
        if taken f v.regs
        then s.setInst id ({ v with regs := { v.regs with loops := es } }.transfer (usesOf (.lexit f)) s.clk e.stop false)
        else retired (.lexit f) s id v 1))

/-- 07 R153, R154: the end test is made whenever control goes on or is transferred, after a taken `b` or `j` has left the loops that do
not hold its target; it costs no issue slot. -/
def Obligations.LoopEndTest : Prop :=
  (∀ (v : Inst) (u : Uses) (clk latency : Nat),
    let r := endTest v.regs.loops v.regs.lc (v.pc + 1)
    let w := v.advance u clk latency
    w.regs.lc = r.1 ∧ w.regs.loops = r.2.1 ∧ w.pc = r.2.2 ∧ w.wake = some (clk + 1)) ∧
  (∀ (v : Inst) (u : Uses) (clk target : Nat) (pop : Bool),
    let r := endTest (if pop then leftBy target v.regs.loops else v.regs.loops) v.regs.lc target
    let w := v.transfer u clk target pop
    w.regs.lc = r.1 ∧ w.regs.loops = r.2.1 ∧ w.pc = r.2.2 ∧ w.wake = some (clk + 1))

/-- 08 R165, R166, R170, R171, R180, R183: a lane-wise form completes; each selected lane has the form's function of the source lanes when
they are all valid and is 0 and invalid otherwise, and the other lanes are kept. -/
def Obligations.LaneWiseForms : Prop :=
  ∀ (i : Instr) (f : RForm) (srcs : List Nat) (latency : Nat) (op : (Nat → Nat) → Nat) (s : State) (id : Nat) (v : Inst),
    laneForm v i = some (f, srcs, latency, op) → legal i = true → issues i s id v = true →
    ∃ d : VecVal, exec i s = .next (retired i s id (withV v f.d d) latency) ∧
      ∀ j < 16, laneAt d j =
        if !selected v.regs f.mask f.neg j then keptLane v f.d j
        else if srcs.all fun n => (v.regs.getV n).ok j
          then (BitVec.ofNat 32 (op fun k => ((v.regs.getV (srcs.getD k 0)).lane j).toNat), true)
          else (0#32, false)

/-- 08 R173 to R179, R181, R182: a form that moves, packs or reduces lanes completes; the lanes that it writes are as stated, and the
others are kept. -/
def Obligations.LaneMoves : Prop :=
  ∀ (i : Instr) (d latency : Nat) (written : Nat → Bool) (value : Nat → Lane × Bool) (s : State) (id : Nat) (v : Inst),
    laneMove v i = some (d, latency, written, value) → legal i = true → issues i s id v = true →
    ∃ a : VecVal, exec i s = .next (retired i s id (withV v d a) latency) ∧
      ∀ j < 16, laneAt a j = if written j then value j else keptLane v d j

/-- 06 R140, R141; 07 R157; 09 R203; 10 R223 to R225; 11 R254; 12 R277, R279, R281, R282: the forms that read into a scalar register what
stands around the instance complete with that value. -/
def Obligations.StateReads : Prop :=
  ∀ (i : Instr) (d latency : Nat) (w : Word) (s : State) (id : Nat) (v : Inst),
    stateRead s v i = some (d, w, latency) → legal i = true → issues i s id v = true →
    exec i s = .next (retired i s id (withX v d w) latency)

/-- 11 R246, R258; 12 R275, R279: a form without an effect of its own completes; `smark` makes a stream current and reads its next sequence
number (11 R257). -/
def Obligations.EffectlessForms : Prop :=
  (∀ (i : Instr) (s : State) (id : Nat) (v : Inst), effectless s id v i = true → legal i = true → issues i s id v = true →
    exec i s = .next (retired i s id v 1)) ∧
  (∀ (f : IForm) (s : State) (id : Nat) (v : Inst), legal (.smark f) = true → issues (.smark f) s id v = true →
    let n := f.imm.val % 8
    exec (.smark f) s = .next (retired (.smark f) s id { withX v f.d (BitVec.ofNat 64 (getD 0 v.seqs n)) with stream := n } 1))

/-- 02 R51; 11 R244, R245, R254, R257, R258; 12 R279, R281: a form that stages a far effect completes with it put behind the others, or
raises the far-stage-full trap when 32 are there. -/
def Obligations.StagedFarForms : Prop :=
  ∀ (i : Instr) (e : StagedFar) (tick : Bool) (s : State) (id : Nat) (v : Inst),
    stagedBy s id v i = some (e, tick) → legal i = true → issues i s id v = true →
    exec i s = .next (if stageTakes v e then retired i s id (if tick then ticked (withFar v e) else withFar v e) 1
      else trapped s id 0x19 0)

/-- 11 R233 to R237: a load of lanes completes; the lanes written hold the bytes at their addresses, the others are kept, and nothing else
changes but banks' times and counters. `sld` reads a number of its type's width, extended by type. -/
def Obligations.ScratchLoads : Prop :=
  (∀ (i : Instr) (d least : Nat) (sel : Nat → Bool) (value : Nat → Lane × Bool) (s : State) (id : Nat) (v : Inst),
    laneLoad s v i = some (d, sel, value, least) → legal i = true → issues i s id v = true →
    ∃ (t : State) (a : VecVal) (latency : Nat), exec i s = .next (retired i t id (withV v d a) latency) ∧ sameButTime s t ∧
      least ≤ latency ∧ ∀ j < 16, laneAt a j = if sel j then value j else keptLane v d j) ∧
  (∀ (f : MForm) (s : State) (id : Nat) (v : Inst), legal (.sld f) = true → issues (.sld f) s id v = true →
    let n := Ty.width f.ty / 8
    let a := scratchAddress v f 32
    inSide a n n = true → poisoned s v a.toNat n = false →
    ∃ (t : State) (latency : Nat),
      exec (.sld f) s = .next (retired (.sld f) t id
        (withX v f.d (widened f.ty (number (s.sideBytes v v.place.cell a.toNat n)))) latency) ∧
      sameButTime s t ∧ 5 ≤ latency)

/-- 11 R233 to R236, R238, R239: a store to scratch completes; every byte of every side reads as the stores leave it, the instance has
completed the instruction with nothing but its stage and the register that `ratom` writes changed, and what else may change is named. -/
def Obligations.ScratchStores : Prop :=
  ∀ (i : Instr) (ss : List (Nat × List Byte)) (s : State) (id : Nat) (v : Inst),
    storesOf s v i = some ss → legal i = true → issues i s id v = true →
    ∃ t : State, exec i s = .next t ∧ sameButScratch id s t ∧
      (∃ (st : Stage) (latency : Nat), t.inst? id = some (completed i s.clk { v with stage := st, regs := afterStore s v i } latency) ∧
        (v.committed = false → ∀ p ∈ ss, ∀ k < p.2.length,
          wroteByte s { v with stage := st } (s.scrAddr v.place.ctx v.place.cell (p.1 + k)) = true)) ∧
      ∀ a, readByte t.scr a =
        written (ss.map fun p => (s.scrAddr v.place.ctx v.place.cell p.1, p.2)) a (readByte s.scr a)

/-- 07 R157; 11 R240 to R242: `rpush` and `rpop` move a ring's counters and return the old index; `rinit` makes an empty ring, unless a
command uses the ring; the ring traps have cause 1, 2 and 3. -/
def Obligations.Rings : Prop :=
  (∀ (i : Instr) (f : IForm) (old : Nat) (r : Ring) (s : State) (id : Nat) (v : Inst),
    ringMoveOf s v i = some (f, old, r) → legal i = true → issues i s id v = true →
    ∃ t : State, exec i s = .next t ∧ lookupA (cellOf t v).rings (f.imm.val % 16) = some r ∧
      t.inst? id = some (completed i s.clk (withX v f.d (BitVec.ofNat 64 old)) 1) ∧ t.mem = s.mem ∧ t.scr = s.scr) ∧
  (∀ (f : IForm) (r : Ring) (s : State) (id : Nat) (v : Inst), initRing s v f = some r → legal (.rinit f) = true →
    issues (.rinit f) s id v = true → (s.commands.any fun k => k.2.usesRing v.place.ctx v.place.cell (f.imm.val % 16)) = false →
    ∃ t : State, exec (.rinit f) s = .next t ∧ lookupA (cellOf t v).rings (f.imm.val % 16) = some r ∧
      t.inst? id = some (completed (.rinit f) s.clk v 1) ∧ t.mem = s.mem ∧ t.scr = s.scr) ∧
  (∀ (f : IForm) (s : State) (id : Nat) (v : Inst), initRing s v f = none → legal (.rinit f) = true → issues (.rinit f) s id v = true →
    exec (.rinit f) s = .next (trapped s id 0x21 2)) ∧
  (∀ (i : Instr) (cause : Nat) (s : State) (id : Nat) (v : Inst), ringTrapOf s v i = some cause → legal i = true →
    issues i s id v = true → exec i s = .next (trapped s id 0x21 cause))

/-- 07 R160; 10 R222; 02 R53, R55: `commit`, and `done` before commit, finish an instance: it waits for its commit step, and when it is the
last the step begins after the one-way climb. `done` in a tail ends the instance. -/
def Obligations.Endings : Prop :=
  (∀ (i : Instr) (s : State) (id : Nat) (v : Inst), i = .commit ∨ (i = .done ∧ v.committed = false) → issues i s id v = true →
    mayLeave s v = true → s.leavesGangWaiting v = none →
    let w := arrived v (i = .done)
    (∀ j ∈ (s.setInst id w).segInsts v.place.seg, j.2.status ≠ .waiting .sweep) →
    ∃ t : State, exec i s = .next t ∧ t.inst? id = some w ∧ t.mem = s.mem ∧ t.scr = s.scr ∧
      ∀ g, segment? s v = some g → ((s.setInst id w).segInsts v.place.seg).length = g.seglen →
        (∀ j ∈ (s.setInst id w).segInsts v.place.seg, j.2.finished = true) →
        ∃ e ∈ t.agenda, e.at_ = s.clk + oneWay (s.segLevel g) ∧ e.ev = .segmentCommit v.place.seg) ∧
  (∀ (s : State) (id : Nat) (v : Inst), issues .done s id v = true → v.committed = true →
    ∃ t : State, exec .done s = .next t ∧ t.inst? id = none ∧ (∀ j, j ≠ id → t.inst? j = s.inst? j) ∧ t.mem = s.mem ∧ t.scr = s.scr)

/-- 09 R189 to R192: a load of a weight entry completes, and the entry is what the tile gives. -/
def Obligations.WeightLoads : Prop :=
  ∀ (i : Instr) (n : Nat) (w : WEntry) (s : State) (id : Nat) (v : Inst),
    weightLoad s v i = some (n, w) → legal i = true → issues i s id v = true →
    ∃ (t : State) (u : Inst), exec i s = .next t ∧ t.inst? id = some u ∧ goesOn i s.clk v u ∧ t.weight u n = w ∧
      (∀ m, m ≠ n → t.weight u m = s.weight v m) ∧ t.mem = s.mem ∧ t.scr = s.scr

/-- 04 R99, R101; 09 R190 to R192: the weights of an entry. A dense entry's element (k, j) is the tile's; a compressed one keeps, of each
group of four rows of a column, the two that rank highest, and reads +0 elsewhere. -/
def Obligations.CompressedWeights : Prop :=
  ∀ (t : Ty) (band : BitVec 16) (bs : List Byte) (k j : Nat), t ∈ [Ty.bf16, .f16, .e4m3, .e5m2, .e2m1] → k < 16 → j < 16 →
    let e : WEntry := { valid := true, comp := false, ty := t, band, source := 0, data := denseBytes t bs }
    let c : WEntry := { e with comp := true, data := compressImage t band bs }
    e.value k j = denseValue t band bs k j ∧
      c.value k j = if ranksBefore (denseValue t band bs) k j < 2 then denseValue t band bs k j else .fin (Frac.ofInt 0)

/-- 04 R100; 09 R193, R197: `mma` outside a gang, `accwr` and `acczero` complete; every element of every accumulator is as stated, and
memory stands. -/
def Obligations.AccumulatorWrites : Prop :=
  ∀ (i : Instr) (a : Nat) (new : Nat → Nat → Option Lane) (st : Stage) (p : Producer) (s : State) (id : Nat) (v : Inst),
    accWrite s v i = some (a, new) → logOf s v i = .ok (st, p) → legal i = true → issues i s id v = true →
    ∃ (t : State) (u : Inst), exec i s = .next t ∧ t.inst? id = some u ∧ goesOn i s.clk v u ∧ t.mem = s.mem ∧ t.scr = s.scr ∧
      ∀ b row col, row < 16 → col < 16 → t.accElem u b row col =
        (if b = a then new row col else none).getD (s.accElem v b row col)

/-- 09 R194, R197; 12 R282: `accrd` reads a row of an accumulator; when an accumulator of an instance becomes ready, counter 3 of its cell
counts sixteen rows. -/
def Obligations.AccumulatorReads : Prop :=
  (∀ (f : RForm) (s : State) (id : Nat) (v : Inst), legal (.accrd f) = true → issues (.accrd f) s id v = true →
    let row := (v.regs.getX f.b).toNat
    if row < 16 then ∃ d : VecVal, exec (.accrd f) s = .next (retired (.accrd f) s id (withV v f.d d) 4) ∧
      ∀ j < 16, laneAt d j = (s.accElem v f.a row j, true)
    else exec (.accrd f) s = .next (trapped s id 0x1E 2)) ∧
  (∀ (id a : Nat) (s : State) (v : Inst), s.inst? id = some v →
    ∃ t : State, exec (.mmaAccumulatorReady id a) s = .next t ∧ sameButTime s t ∧
      (cellOf t v).perf.toList.getD 3 0#64 = (cellOf s v).perf.toList.getD 3 0#64 + 16#64)

/-- 06 R142; 09 R201 to R203: `thdr` with f = 2, 3, 4 and `tfree` complete, and the header reads as stated. `talloc` takes the lowest free
index and the lowest base, or answers all ones when there is no space; its limits raise bad-header. -/
def Obligations.HeaderWrites : Prop :=
  (∀ (i : Instr) (n : Nat) (w : Word × Word) (s : State) (id : Nat) (v : Inst),
    headerWrite s v i = some (n, w) → stagesNothing v → legal i = true → issues i s id v = true →
    ∃ (t : State) (u : Inst), exec i s = .next t ∧ t.inst? id = some u ∧ goesOn i s.clk v u ∧ t.ownHeader u n = w ∧
      (∀ m, m ≠ n → t.ownHeader u m = s.ownHeader v m) ∧ t.mem = s.mem ∧ t.scr = s.scr) ∧
  (∀ (f : RForm) (s : State) (id : Nat) (v : Inst), stagesNothing v → legal (.talloc f) = true → issues (.talloc f) s id v = true →
    match allocationOf v f with
    | none => exec (.talloc f) s = .next (trapped s id 0x1D 0)
    | some (rows, cols, count) =>
      match s.findSpace v count with
      | none => exec (.talloc f) s = .next (retired (.talloc f) s id (withX v f.d (BitVec.allOnes 64)) 2)
      | some (n, base) =>
        ∃ (t : State) (u : Inst), exec (.talloc f) s = .next t ∧ t.inst? id = some u ∧
          goesOn (.talloc f) s.clk (withX v f.d (BitVec.ofNat 64 (v.place.cell * 128 + (contextOf s v).home * 64 + n))) u ∧
          t.ownHeader u n = (BitVec.ofNat 64 (2 ^ 63 + f.ty.code * 2 ^ 52 + (rows - 1) * 2 ^ 44 + (cols - 1) * 2 ^ 36 + base * 2 ^ 26 +
            count * 2 ^ 16 + 0x3F80), BitVec.ofNat 64 (v.place.ctx * 2 ^ 56)) ∧
          (∀ m, m ≠ n → t.ownHeader u m = s.ownHeader v m) ∧ t.mem = s.mem ∧ t.scr = s.scr)

/-- 09 R198 to R200: `acccvt`, `quant`, `quantb` and `tew` complete when the destination is a tile of the own cell whose granules are not
protected: its bytes are the stated ones, every other byte of scratch stands, and its band is the new one where there is one. -/
def Obligations.TileWrites : Prop :=
  ∀ (i : Instr) (d : Tile) (srcs : List Tile) (bs : List Byte) (band : Option (BitVec 16)) (st : Stage) (p : Producer) (s : State) (id : Nat)
    (v : Inst),
    tileWrite s v i = some (d, srcs, bs, band) → tileLog s v i d srcs = .ok (st, p) → d.cell = v.place.cell →
    stagesNothing v → s.tilePending v d = false → srcs.all (readable s v) = true → v.protectsTile d.hdr = false → legal i = true → issues i s id v = true →
    ∃ (t : State) (u : Inst), exec i s = .next t ∧ t.inst? id = some u ∧ goesOn i s.clk v u ∧ t.mem = s.mem ∧
      (∀ a, readByte t.scr a = written [(s.scrAddr v.place.ctx v.place.cell (d.hdr.base * 64), bs)] a (readByte s.scr a)) ∧
      ∀ b, band = some b → (t.ownHeader u d.index).1.toNat % 2 ^ 16 = b.toNat

/-- 09 R204; 12 R276: `settle` of a tile of the own cell answers its handle, and of one of another cell a new handle whose granules hold
its bytes; `gacc` leaves the sums, rounded to f32, where the instance reads them, and no byte of scratch changes. -/
def Obligations.TileCopies : Prop :=
  (∀ (f : RForm) (d : Tile) (s : State) (id : Nat) (v : Inst), s.tile v (v.regs.getX f.a) = .ok d → legal (.settle f) = true →
    issues (.settle f) s id v = true → d.cell = v.place.cell →
    exec (.settle f) s = .next (retired (.settle f) s id (withX v f.d (v.regs.getX f.a)) 2)) ∧
  (∀ (f : RForm) (d : Tile) (n base : Nat) (st : Stage) (p : Producer) (s : State) (id : Nat) (v : Inst),
    s.tile v (v.regs.getX f.a) = .ok d → legal (.settle f) = true → issues (.settle f) s id v = true → d.cell ≠ v.place.cell →
    s.findSpace v d.hdr.granules = some (n, base) → readable s v d = true →
    let handle := handleOf v.place.cell (contextOf s v).home n
    s.log v ⟨1, 0x7D, f.fn % 256, 0, 0, 0, false, false⟩ (some handle) [((v.regs.getX f.a).toNat, false)] 0#64 = .ok (st, p) →
    ∃ (t : State) (u : Inst), exec (.settle f) s = .next t ∧ t.inst? id = some u ∧
      goesOn (.settle f) s.clk (withX v f.d (BitVec.ofNat 64 handle)) u ∧ t.mem = s.mem ∧
      ∀ a, readByte t.scr a = written [(s.scrAddr v.place.ctx v.place.cell (base * 64), (s.tileBytes v d).take (d.hdr.granules * 64))] a
        (readByte s.scr a)) ∧
  (∀ (f : RForm) (a b : Tile) (s : State) (id : Nat) (v : Inst), s.tile v (v.regs.getX f.a) = .ok a → s.tile v (v.regs.getX f.b) = .ok b →
    isTile a .f32 b.hdr.rows b.hdr.cols = true → b.hdr.ty = f.ty → a.cell = v.place.cell → legal (.gacc f) = true →
    issues (.gacc f) s id v = true → readable s v a = true → readable s v b = true →
    v.stage.gradGranules.length + (newGranules v.stage.gradGranules a.hdr.base a.hdr.granules).length ≤ 64 →
    ∃ (t : State) (u : Inst), exec (.gacc f) s = .next t ∧ t.inst? id = some u ∧ goesOn (.gacc f) s.clk v u ∧ t.mem = s.mem ∧
      t.scr = s.scr ∧ ∀ k < a.hdr.rows * a.hdr.cols,
        number (t.sideBytes u v.place.cell (a.hdr.base * 64 + 4 * k) 4) =
          f32Bits ((element s v a k).toFp.add (element s v b k).toFp))

/-- 09 R195: a member that joins a gang waits until the last has joined; then all of them are members and go on. `gangoff` takes an
instance out of its gang. -/
def Obligations.Gangs : Prop :=
  (∀ (f : RForm) (g : Segment) (s : State) (id : Nat) (v : Inst), legal (.gangon f) = true → issues (.gangon f) s id v = true →
    segment? s v = some g → v.gang = none →
    let size := 2 ^ (f.fn.val % 4)
    g.openCell ≤ v.place.cell / size * size → v.place.cell / size * size + size ≤ g.openCell + g.seglen →
    (∀ i ∈ s.segInsts v.place.seg, i.2.joining = none ∨ i.2.joining = some size) → (∀ i ∈ groupOf s v size, i.2.gang = none ∧ i.2.finished = false) →
    let t := settle (.gangon f) id v s (.wait (s.setInst id { v with joining := some size }) .gang)
    ((groupOf t v size).length ≠ size ∨ ∃ i ∈ groupOf t v size, i.2.joining ≠ some size) → exec (.gangon f) s = .next t) ∧
  (∀ (f : RForm) (g : Segment) (s : State) (id : Nat) (v : Inst), legal (.gangon f) = true → issues (.gangon f) s id v = true →
    segment? s v = some g → v.gang = none →
    let size := 2 ^ (f.fn.val % 4)
    g.openCell ≤ v.place.cell / size * size → v.place.cell / size * size + size ≤ g.openCell + g.seglen →
    (∀ i ∈ s.segInsts v.place.seg, i.2.joining = none ∨ i.2.joining = some size) → (∀ i ∈ groupOf s v size, i.2.gang = none ∧ i.2.finished = false) →
    let t := settle (.gangon f) id v s (.wait (s.setInst id { v with joining := some size }) .gang)
    (groupOf t v size).length = size → (∀ i ∈ groupOf t v size, i.2.joining = some size) →
    ∃ t' : State, exec (.gangon f) s = .next t' ∧ ∀ i ∈ groupOf t v size,
      ∃ u, t'.inst? i.1 = some u ∧ u.gang = some size ∧ u.joining = none ∧ u.status = .running ∧ u.wake = some (s.clk + 1)) ∧
  (∀ (s : State) (id : Nat) (v : Inst), issues .gangoff s id v = true → v.gang.isSome = true → mayLeave s v = true →
    exec .gangoff s = .next (retired .gangoff s id { v with gang := none } 1))

/-- 10 R208 to R210, R214 to R216: a seat that issues a collective brings its lanes and its scalar and waits for the sweep, where the
seats that wait agree with it. -/
def Obligations.CollectivesIssued : Prop :=
  ∀ (i : Instr) (p : Nat) (f : QForm) (vec : VecVal) (val : Word) (s : State) (id : Nat) (v : Inst),
    brings v i = some (p, f, vec, val) → legal i = true → issues i s id v = true →
    let word := BitVec.ofNat 64 ((Form.q f).word p)
    let u := brought i v s.clk word vec val
    agree (s.setInst id u) v.place.seg u.colls word val = true →
    ∃ t : State, exec i s = .next t ∧ t.insts = (s.setInst id u).insts ∧ t.mem = s.mem ∧ t.scr = s.scr ∧ t.segs = s.segs

/-- 10 R211 to R216: the result of a segment's next sweep reaches every seat that takes part: it goes on, and its register has the
combination of all, of those before it, or of all others; the broadcast lanes; or the count of flagged seats. -/
def Obligations.SweepResults : Prop :=
  ∀ (g id : Nat) (seg : Segment) (i : Instr) (s : State) (v : Inst), lookupA s.segs g = some seg → sortedA s.insts = true →
    s.inst? id = some v → v.place.seg = g → v.inSweep (seg.sweeps + 1) = true → v.place.seat < seg.seglen → s.pendingInstr v = some i →
    ∃ (t : State) (u : Inst), exec (.sweepResult g (seg.sweeps + 1)) s = .next t ∧ t.inst? id = some u ∧ u.status = .running ∧
      u.wake = some s.clk ∧ (lookupA t.segs g).map (·.sweeps) = some (seg.sweeps + 1) ∧
      let k := seg.sweeps + 1
      let q := v.place.seat
      match i with
      | .sred f => ∀ j < 16, laneAt (u.regs.getV f.d) j = if f.d < 32 then
          (BitVec.ofNat 32 (sweptLane f 0x80 (broughtLanes s g seg.seglen k) q j), true) else (0#32, false)
      | .sscan f => ∀ j < 16, laneAt (u.regs.getV f.d) j = if f.d < 32 then
          (BitVec.ofNat 32 (sweptLane f 0x81 (broughtLanes s g seg.seglen k) q j), true) else (0#32, false)
      | .scav f => ∀ j < 16, laneAt (u.regs.getV f.d) j = if f.d < 32 then
          (BitVec.ofNat 32 (sweptLane f 0x82 (broughtLanes s g seg.seglen k) q j), true) else (0#32, false)
      | .sbcast f => u.regs.getV f.d = if f.d < 32 then
          (broughtLanes s g seg.seglen k).getD (v.regs.getX f.b).toNat VecVal.none else VecVal.none
      | .srank f => u.regs.getX f.d = if f.d.val = 0 ∨ 32 ≤ f.d.val then 0#64 else
          BitVec.ofNat 64 ((List.range seg.seglen).countP (flagged s f g k q))
      | _ => True

/-- 02 R53; 10 R222: `need` declares, once, at most 64; the need sweep gives every seat the sum of the declarations before it and the total;
`emit` stages a well-formed symbol at an index below the declaration. -/
def Obligations.NeedAndEmit : Prop :=
  (∀ (f : RForm) (s : State) (id : Nat) (v : Inst), legal (.need f) = true → issues (.need f) s id v = true →
    let n := (v.regs.getX f.a).toNat
    if n ≤ 64 ∧ v.declared = none then
      ∃ t : State, exec (.need f) s = .next t ∧ t.insts = (retired (.need f) s id { v with declared := some n } 1).insts
    else exec (.need f) s = .next (trapped s id 0x14 0)) ∧
  (∀ (g : Nat) (seg : Segment) (s : State), lookupA s.segs g = some seg →
    let ns := (List.range seg.seglen).map fun q => ((s.seatInst g q).bind fun i => i.2.declared).getD 0
    ∃ t : State, exec (.needSweepComplete g) s = .next t ∧
      lookupA t.segs g = some { seg with offsets := some ((List.range seg.seglen).map fun q => (ns.take q).sum), total := ns.sum }) ∧
  (∀ (f : RForm) (s : State) (id : Nat) (v : Inst), legal (.emit f) = true → issues (.emit f) s id v = true →
    let n := (v.regs.getX f.a).toNat
    let w := v.regs.getX f.b
    if v.declared.getD 0 ≤ n then exec (.emit f) s = .next (trapped s id 0x15 0)
    else ((segment? s v).bind (·.offsets)).isSome →
      exec (.emit f) s = .next (if symbolOk v.place.cellcount w
        then retired (.emit f) s id { v with stage := { v.stage with syms := putA v.stage.syms n w } } 1 else trapped s id 0x17 0))

/-- 10 R217, R218: `fwd` sends a vector to a neighbour whose queue has room, and drops it where there is none or it is finished; an arrival
enters the receiver's queue; `rcv` takes the oldest, or sixteen invalid lanes where none can come. -/
def Obligations.Neighbours : Prop :=
  (∀ (f : QForm) (s : State) (id : Nat) (v : Inst), legal (.fwd f) = true → issues (.fwd f) s id v = true →
    match neighbour s v (!f.dir) with
    | none => exec (.fwd f) s = .next (retired (.fwd f) s id v 1)
    | some (r, u) =>
      if u.finished then exec (.fwd f) s = .next (retired (.fwd f) s id v 1)
      else pendingVectors u f.dir < 4 → ∃ t : State, exec (.fwd f) s = .next t ∧
        (∃ e ∈ t.agenda, e.at_ = s.clk + s.neighbourTime (s.devCell v.place.slot v.place.cell) (s.devCell u.place.slot u.place.cell) ∧
          e.ev = .neighbourArrival r (!f.dir) (v.regs.getV f.a)) ∧
        (r ≠ id → t.inst? id = some (completed (.fwd f) s.clk v 1) ∧
          t.inst? r = some (if f.dir then { u with comingRight := u.comingRight + 1 } else { u with comingLeft := u.comingLeft + 1 }))) ∧
  (∀ (id : Nat) (fromLeft : Bool) (w : VecVal) (s : State) (u : Inst), s.inst? id = some u →
    exec (.neighbourArrival id fromLeft w) s = .next (s.setInst id (
      if u.finished then u
      else if fromLeft then { u with rcvLeft := u.rcvLeft ++ [w], comingLeft := u.comingLeft - 1 }
      else { u with rcvRight := u.rcvRight ++ [w], comingRight := u.comingRight - 1 }))) ∧
  (∀ (f : QForm) (s : State) (id : Nat) (v : Inst), legal (.rcv f) = true → issues (.rcv f) s id v = true →
    match (if f.dir then v.rcvRight else v.rcvLeft) with
    | w :: rest => v.waitSince = none →
        exec (.rcv f) s = .next (retired (.rcv f) s id (withV (taken_ v f.dir rest) f.d w) 2)
    | [] => (match neighbour s v f.dir with | none => True | some (_, u) => u.finished = true ∧ (if f.dir then v.comingRight else v.comingLeft) = 0) →
        exec (.rcv f) s = .next (retired (.rcv f) s id (withV v f.d { lanes := Vector.replicate 16 0#32, valid := 0#16 }) 2))

/-- 03 R81; 10 R226 to R229: `unfold` asks once and waits, and its request enters the partition's; `park` takes the lowest room of the park
area and stages its record, or answers all ones; `fetch` takes the slice of a record. -/
def Obligations.UnfoldParkFetch : Prop :=
  (∀ (f : RForm) (g : Segment) (s : State) (id : Nat) (v : Inst), legal (.unfold f) = true → issues (.unfold f) s id v = true →
    segment? s v = some g →
    if g.unfolded || v.declared.isSome then exec (.unfold f) s = .next (trapped s id 0x14 0)
    else ∃ t : State, exec (.unfold f) s = .next t ∧ t.inst? id = some (pausing (.unfold f) v s.clk .unfold) ∧
      segment? t v = some { g with unfolded := true } ∧
      scheduled t (s.clk + if v.place.cellcount ≤ s.perQuarter then 20 else 32)
        (.unfoldRequestArrival id (low32 (v.regs.getX f.a)) (low32 (v.regs.getX f.b)))) ∧
  (∀ (id q a : Nat) (s : State) (v : Inst) (p : Part), s.inst? id = some v → lookupA s.parts v.place.slot = some p →
    ∃ t : State, exec (.unfoldRequestArrival id q a) s = .next t ∧
      (t.part v.place.slot).unfolds = p.unfolds ++ [(id, s.allowance v.place.ctx q a, s.clk)]) ∧
  (∀ (f : RForm) (s : State) (id : Nat) (v : Inst), legal (.park f) = true → issues (.park f) s id v = true →
    let n := (v.regs.getX f.b).toNat
    let a := (v.regs.getX f.a).toInt
    0 < n → n ≤ 5119 → inSide a (8 * n) 8 = true →
    match (contextOf s v).parkSpace (8 * n + 8) with
    | none => exec (.park f) s = .next (retired (.park f) s id (withX v f.d (BitVec.allOnes 64)) 64)
    | some addr => poisoned s v a.toNat (8 * n) = false → stageTakes v (.park addr []) = true →
      ∃ t : State, exec (.park f) s = .next t ∧
        t.inst? id = some (completed (.park f) s.clk
          (withFar (withX v f.d (BitVec.ofNat 64 (9 * 2 ^ 60 + addr % 2 ^ 48))) (.park addr (parkWords s v a.toNat n))) 64) ∧
        (contextOf t v).parks = (contextOf s v).parks ++ [{ addr, bytes := 8 * n + 8, staged := true, launch := v.place.launch,
                                                            seg := v.place.seg, manager := false }]) ∧
  (∀ (f : RForm) (ws : List Word) (s : State) (id : Nat) (v : Inst), fetched s v f = some ws → legal (.fetch f) = true →
    issues (.fetch f) s id v = true →
    exec (.fetch f) s = .next (retired (.fetch f) s id (withX (stagedAt v (v.regs.getX f.b).toNat ws) f.d (BitVec.ofNat 64 ws.length))
      (400 + (ws.length + 7) / 8)))

/-- 11 R245; 24 R390: `fld` completes and its register waits; the read is performed once, at the leased address, and its value arrives.
A released far write leaves its bytes at the leased address, or its expression ends with the lease-fault status. -/
def Obligations.FarWords : Prop :=
  (∀ (f : MForm) (e : Nat × Nat) (s : State) (id : Nat) (v : Inst), farRefOf s v f = some e → legal (.fld f) = true →
    issues (.fld f) s id v = true →
    ∃ t : State, exec (.fld f) s = .next t ∧ t.inst? id = some (completed (.fld f) s.clk (ticked v) (2 ^ 63 - s.clk)) ∧
      t.ids = s.ids + 1 ∧ t.mem = s.mem ∧ t.scr = s.scr) ∧
  (∀ (k a : Nat) (r : FarRead) (f : MForm) (s : State) (v : Inst), lookupA s.farReads k = some r → sortedA s.farReads = true →
    r.instr = .fld f → s.inst? r.inst = some v → r.value = none →
    physical (s.rangesOf v.place.launch) r.entry r.off (Ty.width f.ty / 8) false = some a → farExists a (Ty.width f.ty / 8) = true →
    s.farPoisoned a (Ty.width f.ty / 8) = false →
    ∃ t : State, exec (.farReadReply k) s = .next t ∧ t.mem = s.mem ∧ t.insts = s.insts ∧
      (lookupA t.farReads k).bind (·.value) = some (widened f.ty (number (readBytes s.mem a (Ty.width f.ty / 8)))) ∧
      scheduled t (max r.arriveAt s.clk) (.farReadReply k)) ∧
  (∀ (k : Nat) (r : FarRead) (f : MForm) (w : Word) (s : State) (v : Inst), lookupA s.farReads k = some r → r.instr = .fld f →
    s.inst? r.inst = some v → r.value = some w →
    ∃ t : State, exec (.farReadReply k) s = .next t ∧ t.mem = s.mem ∧ lookupA t.farReads k = none ∧
      ∃ u, t.inst? r.inst = some u ∧ u.regs = v.regs.setX f.d w ∧ getD 0 u.busy (regKey (.x, f.d.val)) = s.clk) ∧
  (∀ (k : Nat) (w : FarWrite) (s : State), lookupA s.farWrites k = some w →
    match w.work with
    | .bytes entry off data => match physical w.ranges entry off data.length true with
      | some a => farExists a data.length = true →
          ∃ t : State, exec (.farWritePerformed k) s = .next t ∧ performed s t a data ∧ lookupA t.farWrites k = none
      | none => ∃ t : State, exec (.farWritePerformed k) s = .next t ∧ lookupA t.farWrites k = none ∧
          ∀ l, lookupA s.launches w.launch = some l → l.phase ≠ .retired → ∃ l', lookupA t.launches w.launch = some l' ∧ l'.status.isSome = true
    | .physical a data => farExists a data.length = true →
        ∃ t : State, exec (.farWritePerformed k) s = .next t ∧ performed s t a data ∧ lookupA t.farWrites k = none
    | .counter .. => exec (.farWritePerformed k) s = .next { s with farWrites := delA s.farWrites k })

/-- 11 R247 to R251, R256: a copy whose destination is far memory or a peer is staged; one whose destination is a ring enters the queue
of the cell's engine. `tsend` takes one of the 256 places and is staged. -/
def Obligations.CopiesIssued : Prop :=
  (∀ (i : Instr) (f : MForm) (red : Bool) (d : Desc) (s : State) (id : Nat) (v : Inst),
    (i = .copy f ∧ red = false) ∨ (i = .copyred f ∧ red = true) → legal i = true → issues i s id v = true → s.descriptor v f red = .ok d →
    if d.ringDest then
      (s.queued (s.engineOf v.place.slot v.place.cell).1 (s.engineOf v.place.slot v.place.cell).2).length < 64 →
      ∃ (t : State) (k : Command), exec i s = .next t ∧ t.inst? id = some (afterRead i s.clk (ticked v)) ∧
        lookupA t.commands (s.ids + 1) = some k ∧ commandOf s id v red d k ∧ t.mem = s.mem ∧ t.scr = s.scr
    else stageTakes v (.copy red d v.stream) = true →
      ∃ t : State, exec i s = .next t ∧ t.inst? id = some (afterRead i s.clk (ticked (withFar v (.copy red d v.stream)))) ∧
        t.commands = s.commands ∧ t.mem = s.mem ∧ t.scr = s.scr) ∧
  (∀ (f : MForm) (d : Desc) (s : State) (id : Nat) (v : Inst), legal (.tsend f) = true → issues (.tsend f) s id v = true →
    s.descriptor v f false = .ok d →
    let n := (v.regs.getX f.d).toNat
    let e : StagedFar := .tsend (n % 64) (n / 2 ^ 32) d v.stream
    n / 64 % 2 ^ 26 = 0 → (contextOf s v).reserved < 256 → stageTakes v e = true →
    ∃ t : State, exec (.tsend f) s = .next t ∧ t.inst? id = some (afterRead (.tsend f) s.clk (ticked (withFar v e))) ∧
      (contextOf t v).reserved = (contextOf s v).reserved + 1 ∧ t.mem = s.mem ∧ t.scr = s.scr)

/-- 11 R254, R256; 22 R369, R370: an increment and an applied update leave the counter's new value, every other counter stands, and no armed
send of a resident context that its counter satisfies stays armed. A peer's write is performed through the context's window. -/
def Obligations.Counters : Prop :=
  (∀ (c k : Nat) (s : State), ∃ t : State, exec (.counterIncrement c k) s = .next t ∧ t.mem = s.mem ∧
    (∀ j, (t.ctx c).counter j = if j = k then (s.ctx c).counter k + 1#32 else (s.ctx c).counter j) ∧
    ((s.ctx c).state = .resident → ∀ a ∈ (t.ctx c).armed, ((t.ctx c).counter a.ctr).toNat < a.thr)) ∧
  (∀ (c k : Nat) (set : Bool) (w : Lane) (s : State), ∃ t : State, exec (.counterUpdateApplied c k set w) s = .next t ∧ t.mem = s.mem ∧
    (∀ j, (t.ctx c).counter j = if j = k then (if set then w else (s.ctx c).counter k + w) else (s.ctx c).counter j) ∧
    ((s.ctx c).state = .resident → ∀ a ∈ (t.ctx c).armed, ((t.ctx c).counter a.ctr).toNat < a.thr)) ∧
  (∀ (w : PeerWrite) (c : Nat) (s : State), w.device = s.dev.number → s.ctxOfTag w.fabric = some c → w.entry < 8 → w.red = none →
    let base := ((s.ctx c).blockWord (10 + w.entry)) % 2 ^ 48
    let size := ((s.ctx c).blockWord (10 + w.entry)) / 2 ^ 48 % 2 ^ 16 * 65536
    let n := min w.bytes.length (size - w.offset)
    0 < n → farExists (base + w.offset) n = true →
    ∃ t : State, exec (.peerWriteArrival w) s = .next t ∧ performed s t (base + w.offset) (w.bytes.take n) ∧
      ∀ k, w.counter = some k → n = w.bytes.length → scheduled t (s.clk + 40) (.counterIncrement c k))

/-- 11 R249 to R251; 22: a copy engine starts the oldest command of its queue; at the end of the source the data are the bytes that the runs
name; a ring entry is filled at the ring's tail; a completed command leaves its queue and every byte of its far destination performed. -/
def Obligations.CopyEngine : Prop :=
  (∀ (q e id : Nat) (k : Command) (rest : Assoc Command) (s : State), s.queued q e = (id, k) :: rest →
    k.cancelled = false → (s.commands.filter fun j => j.2.quarter = q && j.2.engine = e && j.2.running).length < 4 → k.readyAt ≤ s.clk →
    s.allDone k.after = true →
    ∃ t : State, exec (.copyStart q e) s = .next t ∧ lookupA t.commands id = some { k with running := true } ∧ t.mem = s.mem ∧ t.scr = s.scr ∧
      scheduled t (s.clk + s.sourceTime k + if endKind k.desc.src.endpoint = 2 then 0 else (k.desc.src.total + 63) / 64 - 1)
        (.copySourceRead id)) ∧
  (∀ (id : Nat) (k : Command) (s : State), lookupA s.commands id = some k → k.cancelled = false → endKind k.desc.src.endpoint = 3 →
    let base : Nat := k.desc.src.endpoint.toNat % 2 ^ 16
    let data := (runOffsets k.desc.src.dims).flatMap fun o => readBytes s.scr (s.scrAddr k.ctx k.cell ((base : Int) + o).toNat) k.desc.src.run
    ∃ (t : State) (k' : Command), exec (.copySourceRead id) s = .next t ∧ lookupA t.commands id = some k' ∧ k'.data = data ∧
      k'.sourceRead = true ∧ k'.desc = k.desc ∧ t.mem = s.mem ∧ t.scr = s.scr) ∧
  (∀ (id : Nat) (k : Command) (r : Ring) (s : State), lookupA s.commands id = some k → k.cancelled = false →
    s.ringAt k.ctx k.desc.dst.endpoint = some r → r.filled ≠ r.entries → k.desc.dst.run % (64 * r.size) = 0 → k.sourceRead = true →
    k.filled + 64 * r.size ≤ k.data.length → k.poisoned = false →
    let cell := k.desc.dst.endpoint.toNat / 2 ^ 16 % 2 ^ 13
    ∃ t : State, exec (.ringFillEntry id) s = .next t ∧
      t.ringAt k.ctx k.desc.dst.endpoint = some { r with tail := (r.tail + 1) % r.entries, filled := r.filled + 1 } ∧
      ∀ a, readByte t.scr a = written [(s.scrAddr k.ctx cell ((r.base + r.tail * r.size) * 64), (k.data.drop k.filled).take (64 * r.size))] a
        (readByte s.scr a)) ∧
  (∀ (id base : Nat) (k : Command) (s : State), lookupA s.commands id = some k → k.desc.dst.endpoint.toNat < 2 ^ 48 → k.desc.dst.dims = [] →
    k.red = false → k.poisoned = false → k.data.length = k.desc.dst.run → 0 < k.desc.dst.run →
    physical k.ranges (k.desc.dst.endpoint.toNat / 2 ^ 42) (k.desc.dst.endpoint.toNat % 2 ^ 42) k.desc.dst.run true = some base →
    farExists base k.desc.dst.run = true →
    ∃ t : State, exec (.copyComplete id) s = .next t ∧ performed s t base k.data ∧ lookupA t.commands id = none ∧
      (k.desc.ctl.toNat / 2 ^ 54 % 2 = 1 → scheduled t (s.clk + 40) (.counterIncrement k.ctx (k.desc.ctl.toNat / 2 ^ 48 % 64)))) ∧
  (∀ (id : Nat) (k : Command) (s : State), lookupA s.commands id = some k → k.desc.ringDest = true → k.short = false → k.poisoned = false →
    ∃ t : State, exec (.copyComplete id) s = .next t ∧ lookupA t.commands id = none ∧ t.mem = s.mem ∧ t.scr = s.scr)

/-- 12 R260 to R263, R266, R270: an atomic, a pass or a bell form sends its operation to its engine and waits for the reply; those that
engage at issue engage the segment. A bell of scope 0 waits for its segment. -/
def Obligations.SyncIssued : Prop :=
  (∀ (i : Instr) (idx addr : Nat) (x y : Word) (engages : Bool) (s : State) (id : Nat) (v : Inst),
    syncRequest s v i = some (idx, addr, x, y, engages) → legal i = true → issues i s id v = true →
    let e := v.place.slot + idx % max 1 (v.place.cellcount / s.perQuarter)
    let travel := if s.quarterOf (s.devCell v.place.slot v.place.cell) = e then 40 else 88
    ∃ t : State, exec i s = .next t ∧ t.inst? id = some (pausing i (rung i v) s.clk (.syncOp (s.ids + 1))) ∧
      lookupA t.syncOps (s.ids + 1) = some { inst := id, seg := v.place.seg, ctx := v.place.ctx, engine := e, travel, instr := i, addr,
                                             operand := x, operand2 := y, reply := 0#64, trap := none, slot := none, performed := false } ∧
      scheduled t (s.clk + travel) (.syncOpPerformed (s.ids + 1)) ∧
      (∀ g, segment? s v = some g → segment? t v = some (if engages then { g with engaged := true } else g)) ∧ t.mem = s.mem ∧ t.scr = s.scr) ∧
  (∀ (f : IForm) (s : State) (id : Nat) (v : Inst), legal (.bell f) = true → issues (.bell f) s id v = true → f.imm.val / 256 % 4 = 0 →
    bellWaits s v f = false →
    ∃ t : State, exec (.bell f) s = .next t ∧ t.insts = (s.setInst id (pausing (.bell f) (rung (.bell f) v) s.clk .segBell)).insts)

/-- 12 R261, R264, R265, R269, R273: an atomic or a baton operation that its engine performs leaves the word as stated and replies its old
value, extended by type; `pqry` replies the pass's word. -/
def Obligations.SyncPerformed : Prop :=
  (∀ (k : Nat) (op : SyncOp) (f : MForm) (new : Option Nat) (s : State), lookupA s.syncOps k = some op → performsNow s op = true →
    let n := Ty.width f.ty / 8
    let old := number (readBytes (s.ctx op.ctx).sync op.addr n)
    atomicResult op.instr old op.operand op.operand2 = some (f, new) → legal op.instr = true →
    ∃ t : State, exec (.syncOpPerformed k) s = .next t ∧ t.clk = s.clk ∧
      replied t k op (if f.ty = .f32 then BitVec.ofNat 64 old else widened f.ty old) none ∧
      ∀ a, readByte (t.ctx op.ctx).sync a = match new with
        | some w => written [(op.addr, bytesOf n w)] a (readByte (s.ctx op.ctx).sync a)
        | none => readByte (s.ctx op.ctx).sync a) ∧
  (∀ (k : Nat) (op : SyncOp) (f : IForm) (s : State), lookupA s.syncOps k = some op → performsNow s op = true → op.instr = .pqry f →
    let p := passOf s op.ctx op.addr
    ∃ t : State, exec (.syncOpPerformed k) s = .next t ∧ t.clk = s.clk ∧ passOf t op.ctx op.addr = p ∧
      replied t k op (BitVec.ofNat 64 ((if p.faulted then 2 ^ 18 else 0) + (if p.pending.isSome then 2 ^ 17 else 0) +
        (if p.holder.isSome then 2 ^ 16 else 0) + p.holder.getD 0 * 2 ^ 8 + min 255 p.waiters.length)) none) ∧
  (∀ (k : Nat) (op : SyncOp) (s : State) (v : Inst), lookupA s.syncOps k = some op → s.inst? op.inst = some v →
    v.status = .waiting (.syncOp k) → op.trap = none → (∀ g, segment? s v = some g → g.standard = false) →
    (syncForm op.instr).isSome = true ∨ (∃ f, op.instr = .pacq f ∨ op.instr = .prel f ∨ op.instr = .pqry f ∨ op.instr = .bell f) →
    exec (.syncReply k) s = .next ({ s with syncOps := delA s.syncOps k }.setInst op.inst (released op.instr v s.clk
      (match replyRegister op.instr with | some d => v.regs.setX d op.reply | none => v.regs))))

/-- 12 R267, R268, R270, R271, R273: a free pass is granted and engages; a release that nothing holds back frees it or goes to the first
waiter; a bell releases its arrivals with their indices; the baton moves on. -/
def Obligations.PassesBellsBaton : Prop :=
  (∀ (k : Nat) (op : SyncOp) (f : IForm) (v : Inst) (s : State), lookupA s.syncOps k = some op → performsNow s op = true → op.instr = .pacq f →
    s.inst? op.inst = some v → (lookupA s.parts (s.ctx op.ctx).slot).isSome = true →
    let p := passOf s op.ctx op.addr
    p.holder = none → p.waiters = [] →
    ∃ t : State, exec (.syncOpPerformed k) s = .next t ∧ t.clk = s.clk ∧
      passOf t op.ctx op.addr = { p with holder := some op.ctx, pending := none, faulted := false } ∧
      replied t k op (if p.faulted then 3#64 else 0#64) none ∧
      ∀ g, lookupA s.segs op.seg = some g → lookupA t.segs op.seg = some { g with engaged := true }) ∧
  (∀ (c n : Nat) (s : State), (lookupA s.parts (s.ctx c).slot).isSome = true →
    let p := passOf s c n
    p.holder = some c → p.pending.isSome = true → p.faulted = true → p.waiters = [] →
    ∃ t : State, exec (.passHandoff c n) s = .next t ∧ passOf t c n = { p with holder := none, pending := none } ∧ t.mem = s.mem) ∧
  (∀ (key : Nat) (b : BellGen) (s : State), key % 2 = 1 → (s.bells.find? fun b => b.key = key) = some b → b.arrivals.length = b.count →
    b.arrivals.Nodup →
    ∃ t : State, exec (.bellComplete key) s = .next t ∧ (∀ c ∈ t.bells, c.key ≠ key) ∧ t.clk = s.clk ∧
      ∀ (n k : Nat) (op : SyncOp), b.arrivals[n]? = some k → lookupA s.syncOps k = some op → replied t k op (BitVec.ofNat 64 n) none) ∧
  (∀ (g id : Nat) (f : IForm) (s : State) (v : Inst), s.inst? id = some v → sortedA s.insts = true → v.place.seg = g →
    v.status = .waiting .segBell → s.pendingInstr v = some (.bell f) →
    ∃ t : State, exec (.bellComplete (2 * g)) s = .next t ∧
      t.inst? id = some (released (.bell f) v s.clk (v.regs.setX f.d 0#64))) ∧
  (∀ (e : Nat) (s : State), (s.batonQ.filter fun q => q.1 = e) = [] →
    ∃ t : State, exec (.batonHop e) s = .next t ∧ t.baton = ((e + 1) % 4, s.clk + 24) ∧ t.batonQ = s.batonQ ∧
      (s.batonQ ≠ [] → scheduled t (s.clk + 24) (.batonHop ((e + 1) % 4))))

/-- 12 R275; 19 R343, R347: in record mode `opsave` and `oprecomp` enter their handle in a table of eight, and `logmark` appends a mark
entry; a ninth handle and a 33rd entry raise the record trap. -/
def Obligations.RecordMarks : Prop :=
  (∀ (i : Instr) (f : RForm) (flag : Nat) (s : State) (id : Nat) (v : Inst), (i = .opsave f ∧ flag = 1) ∨ (i = .oprecomp f ∧ flag = 2) →
    legal i = true → issues i s id v = true → v.committed = false → s.recordMode v = true →
    let h := (v.regs.getX f.a).toNat
    exec i s = .next (if (lookupA v.stage.marks h).isNone ∧ 8 ≤ v.stage.marks.length then trapped s id 0x26 1
      else retired i s id { v with stage := { v.stage with marks := putA v.stage.marks h flag } } 1)) ∧
  (∀ (f : RForm) (s : State) (id : Nat) (v : Inst), legal (.logmark f) = true → issues (.logmark f) s id v = true → v.committed = false →
    s.recordMode v = true →
    if 32 ≤ v.stage.lane.length then exec (.logmark f) s = .next (trapped s id 0x26 3)
    else ∃ e : CbEntry, e.raw = BitVec.ofNat 64 (low32 (v.regs.getX f.a)) ∧ e.lane = v.stage.lane.length ∧ e.ops = [] ∧
      e.word0.toNat / 2 ^ 60 = 2 ∧
      exec (.logmark f) s = .next (retired (.logmark f) s id { v with stage := { v.stage with lane := v.stage.lane ++ [e] } } 1))

/-- 12 R280; 23 R383; 25 R399: a queue form sends its operation to the hub, 30 clk away, and waits. The hub appends a push to a user queue
that holds fewer than 32 records and a pop takes the oldest; the reply says whether; a popped record is written to scratch. The
memory-side agent appends a record at a virtual queue's tail. -/
def Obligations.QueueForms : Prop :=
  (∀ (f : ZForm) (push : Bool) (i : Instr) (s : State) (id : Nat) (v : Inst), (i = .qpush f ∧ push = true) ∨ (i = .qpop f ∧ push = false) →
    legal i = true → issues i s id v = true →
    let a := (v.regs.getX f.a).toInt
    inSide a 64 64 = true → (push = true → poisoned s v a.toNat 64 = false) →
    ∃ t : State, exec i s = .next t ∧ t.inst? id = some (pausing i v s.clk (.queueOp (s.ids + 1))) ∧
      (∃ op, lookupA t.queueOps (s.ids + 1) = some op ∧ op.inst = id ∧ op.push = push ∧ op.queue = f.code.val % 16 ∧ op.addr = a.toNat ∧
        (push = true → op.record = (List.range 8).map fun k => BitVec.ofNat 64 (number (s.sideBytes v v.place.cell (a.toNat + 8 * k) 8)))) ∧
      scheduled t (s.clk + 30) (.queueOpArrival (s.ids + 1)) ∧ t.mem = s.mem ∧ t.scr = s.scr) ∧
  (∀ (k : Nat) (op : QueueOp) (s : State), lookupA s.queueOps k = some op → op.push = true → op.queue = 6 ∨ op.queue = 7 →
    let x := s.ctx op.ctx
    let room : Bool := (x.userQueue op.queue).length + (x.held.filter fun h => h.1 = op.queue).length < 32
    ∃ t : State, exec (.queueOpArrival k) s = .next t ∧ lookupA t.queueOps k = some { op with ok := room, record := [] } ∧
      (t.ctx op.ctx).userQueue op.queue = x.userQueue op.queue ++ (if room then [op.record] else []) ∧ scheduled t (s.clk + 30) (.queueReply k)) ∧
  (∀ (k : Nat) (op : QueueOp) (r : List Word) (rest : List (List Word)) (v : Inst) (s : State), lookupA s.queueOps k = some op →
    op.push = false → op.queue = 6 ∨ op.queue = 7 → s.inst? op.inst = some v → (s.ctx op.ctx).userQueue op.queue = r :: rest →
    ∃ t : State, exec (.queueOpArrival k) s = .next t ∧ lookupA t.queueOps k = some { op with ok := true, record := r } ∧
      (t.ctx op.ctx).userQueue op.queue = rest ∧ (t.ctx op.ctx).held = (s.ctx op.ctx).held ++ [(op.queue, op.inst, r)]) ∧
  (∀ (k : Nat) (op : QueueOp) (f : ZForm) (s : State) (v : Inst), lookupA s.queueOps k = some op → s.inst? op.inst = some v →
    s.pendingInstr v = some (.qpush f) → op.ok = true →
    ∃ t : State, exec (.queueReply k) s = .next t ∧ t.inst? op.inst = some (released (.qpush f) v s.clk (v.regs.setX f.d 0#64)) ∧
      ∀ g, segment? s v = some g → segment? t v = some { g with engaged := true }) ∧
  (∀ (k : Nat) (op : QueueOp) (f : ZForm) (s : State) (v : Inst), lookupA s.queueOps k = some op → s.inst? op.inst = some v →
    s.pendingInstr v = some (.qpop f) → op.ok = true → op.record.length = 8 → v.isProtected (op.addr / 64) = false → op.addr % 64 = 0 →
    ∃ (t : State) (u : Inst), exec (.queueReply k) s = .next t ∧ t.inst? op.inst = some u ∧
      u.regs = (released (.qpop f) v s.clk (v.regs.setX f.d 0#64)).regs ∧ u.status = .running ∧
      ∀ a, readByte t.scr a = written [(s.scrAddr v.place.ctx v.place.cell op.addr, op.record.flatMap fun w => bytesOf 8 w.toNat)] a
        (readByte s.scr a)) ∧
  (∀ (c q : Nat) (r : List Word) (s : State),
    let a := (s.ctx c).virtualRing q
    let size := s.virtualSize a
    let head := readNat s.mem a 8
    let tail := readNat s.mem (a + 8) 8
    if (s.ctx c).state = .absent ∨ size = 0 ∨ size ≤ (tail + 2 ^ 64 - head) % 2 ^ 64 then exec (.agentAppend c q r) s = .next s
    else
      let m := writeNat (writeWords s.mem (a + 64 + 64 * (tail % size)) r) (a + 8) 8 ((tail + 1) % 2 ^ 64)
      exec (.agentAppend c q r) s = .next { s with mem := m })

/-- 06 R133, R134; 07 R159; 12 R279; 26 R408: `trap`, an illegal word and a ring wait of 65,536 clk in a tail raise their traps; `brk` under
intrusive debug halts its instance, whose registers the debugger writes and which it resumes. -/
def Obligations.TrapsAndDebug : Prop :=
  (∀ (f : ZForm) (s : State) (id : Nat) (v : Inst), legal (.trap f) = true → issues (.trap f) s id v = true →
    exec (.trap f) s = .next (trapped s id 0x09 (f.code % 256))) ∧
  (∀ (w : Word) (s : State) (id : Nat) (v : Inst), s.actor = some id → s.inst? id = some v →
    exec (.illegalInstruction w) s = .next (trapped s id 0x10
      (((lowestCause (staticCauses w.toNat ++ lessonCauses v.hdr v.pc w.toNat)).map IllegalCause.code).getD 1))) ∧
  (∀ (id began : Nat) (s : State) (v : Inst), s.inst? id = some v → v.committed = true → v.waitSince = some began → v.status = .running →
    exec (.waitTimeout id began) s = .next (trapped s id 0x13 0)) ∧
  (∀ (f : ZForm) (s : State) (id : Nat) (v : Inst), legal (.brk f) = true → issues (.brk f) s id v = true → s.dev.debug = .intrusive →
    s.dev.debugger = true → exec (.brk f) s = .next (s.setInst id { completed (.brk f) s.clk v 1 with status := .halted, wake := none })) ∧
  (∀ (id : Nat) (s : State) (v : Inst), s.inst? id = some v →
    exec (.debugResume id) s = .next (s.setInst id (if v.status = .halted then { v with status := .running, wake := some (s.clk + 1) } else v))) ∧
  (∀ (id n : Nat) (c : RegClass) (w : VecVal) (s : State) (v : Inst), s.inst? id = some v → v.status = .halted → s.dev.debug = .intrusive →
    exec (.haltedInstanceRegisterWrite id c n w) s = .next (s.setInst id (match c with
      | .x => withX v n (BitVec.ofNat 64 ((w.lane 1).toNat * 2 ^ 32 + (w.lane 0).toNat))
      | .v => withV v n w
      | .k => withK v n (BitVec.ofNat 16 (w.lane 0).toNat)
      | .lc => { v with regs := v.regs.setLc n (w.lane 0) }
      | _ => v)))

/-- 02 R45 to R49: a cell that has checked its image reports; clean reports bring the switch beat, a failed one a second load and a second
failure the context's fault; the beat exchanges the buffers of the cells that loaded and starts every seat's instance. -/
def Obligations.LessonLoads : Prop :=
  (∀ (g i e : Nat) (s : State) (x : Segment), lookupA s.segs g = some x → x.phase = .loading → x.clean.contains i = false →
    lookupA x.loadAt i = some e → e ≤ s.clk →
    ∃ t : State, exec (.lessonImageReceived g i) s = .next t ∧
      lookupA t.segs g = some { x with
        clean := i :: x.clean
        failed := x.failed || (x.loads.contains i && !x.standard && imageCheck x.header x.words ≠ x.header % 2 ^ 32) } ∧
      (x.clean.length + 1 = x.seglen → scheduled t (s.clk + oneWay (s.segLevel x)) (.loadReportsCollected g)) ∧
      t.ctxs = s.ctxs ∧ t.insts = s.insts ∧ t.mem = s.mem ∧ t.scr = s.scr) ∧
  (∀ (g : Nat) (s : State) (x : Segment), lookupA s.segs g = some x → x.phase = .loading → x.failed = false →
    exec (.loadReportsCollected g) s = .next (s.schedule (s.clk + oneWay (s.segLevel x)) (.switchBeat g))) ∧
  (∀ (g : Nat) (s : State) (x : Segment), lookupA s.segs g = some x → x.phase = .loading → x.failed = true →
    ∃ t : State, exec (.loadReportsCollected g) s = .next t ∧ t.insts = s.insts ∧ t.scr = s.scr ∧
      if x.attempt = 0 then
        t.ctxs = s.ctxs ∧ t.mem = s.mem ∧ ∃ u, lookupA t.segs g = some u ∧ u.phase = .loading ∧ u.attempt = 1 ∧ u.failed = false ∧
          u.words = (List.range (x.header / 2 ^ 55 % 512)).map (fun k => readNat s.mem (x.address + 8 + 8 * k) 8)
      else (t.ctx x.ctx).state = .faulted ∧
        ∀ v, lookupA s.launches x.launch = some v → v.phase ≠ .retired → v.status = none → x.openSeat < 0xFFFF →
          (lookupA t.launches x.launch).bind (·.status) = some 0x06) ∧
  (∀ (g : Nat) (s : State) (x : Segment), lookupA s.segs g = some x → x.phase = .loading → x.standard = false → x.loads.Nodup →
    ∃ t : State, exec (.switchBeat g) s = .next t ∧ lookupA t.segs g = some { x with phase := .running } ∧
      (∀ i, i < x.seglen → ∃ v, t.inst? (s.ids + 1 + i) = some v ∧ startsAs s g i x v ∧ v.buf = (t.cell x.ctx (x.openCell + i)).cur ∧
        let c := s.cell x.ctx (x.openCell + i)
        let b : LessonBuf := { opnum := x.opnum, header := x.header, words := x.words }
        t.cell x.ctx (x.openCell + i) =
          (if x.loads.contains i then (if c.cur = 0 then { c with buf1 := some b, cur := 1 } else { c with buf0 := some b, cur := 0 }) else c)) ∧
      (∀ j, j ≤ s.ids → t.inst? j = s.inst? j) ∧ t.mem = s.mem ∧ t.scr = s.scr)

/-- 02 R39 to R43; 13 R306: a discovery sweep finds exactly the ready applications of the row; without a running context sweeps cease; an
application that is bound makes its seats busy; the search of a syllabus table whose numbers rise finds an entry exactly when it is there,
and an operator number that names nothing ends its expression. -/
def Obligations.DiscoveryAndBinding : Prop :=
  (∀ (slot c : Nat) (s : State) (p : Part) (w : Wave), lookupA s.parts slot = some p → p.running = some c → p.preempt = none →
    p.found = [] → p.wave = some w → s.dev.power = .active → (s.ctx c).dying = false → (s.ctx c).state = .resident → (s.ctx c).logWaiters = [] →
    sortedA (s.ctx c).row = true → s.bestHead slot c = none →
    ∃ t : State, exec (.discoverySweep slot) s = .next t ∧ t.ctxs = s.ctxs ∧ t.insts = s.insts ∧ t.segs = s.segs ∧ t.mem = s.mem ∧
      (t.part slot).sweepNo = p.sweepNo + 1 ∧ ∀ f l, (f, l) ∈ (t.part slot).found ↔
        (readyAt_ s (s.ctx c) f l ∧ ¬ (((s.ctx c).seat (f + 1)).sym.toNat % 2 ^ 16 = 0x61 ∧
          ∃ g ∈ s.segs, g.2.ctx = c ∧ g.2.record = true ∧ g.2.phase ≠ .tail))) ∧
  (∀ (slot : Nat) (s : State) (p : Part), lookupA s.parts slot = some p → p.running = none →
    ∃ t : State, exec (.discoverySweep slot) s = .next t ∧ (t.part slot).sweeping = false ∧ (t.part slot).found = [] ∧ t.ctxs = s.ctxs ∧
      t.insts = s.insts ∧ t.mem = s.mem) ∧
  (∀ (slot c f l : Nat) (s : State) (v : Launch) (img : Image), f ≤ l → lookupA s.launches ((s.ctx c).seat f).launch = some v →
    v.phase = .running → v.status = none → kind ((s.ctx c).seat f).sym = 1 → ((s.ctx c).seat f).busy = none →
    let n := ((s.ctx c).seat (f + 1)).sym.toNat % 2 ^ 16
    s.lessonImage c f n v.level = .ok img → n ≠ 0x61 →
    let b := s.bindOne slot c f l
    b.2 = some (s.ids + 1) ∧
      (∃ g, lookupA b.1.segs (s.ids + 1) = some g ∧ g.ctx = c ∧ g.opnum = n ∧ g.openSeat = f ∧ g.openCell = f ∧ g.seglen = l + 1 - f ∧
        g.phase = .loading ∧ g.level = level ((s.ctx c).seat f).sym ∧ g.words = img.words ∧ g.header = img.header) ∧
      ∀ p, (b.1.ctx c).seat p =
        (if f ≤ p ∧ p ≤ l then { (s.ctx c).seat p with busy := some (s.ids + 1) } else (s.ctx c).seat p)) ∧
  (∀ (slot c f l : Nat) (s : State) (v : Launch), lookupA s.launches ((s.ctx c).seat f).launch = some v →
    v.phase = .running → v.status = none → kind ((s.ctx c).seat f).sym = 1 → ((s.ctx c).seat f).busy = none →
    let n := ((s.ctx c).seat (f + 1)).sym.toNat % 2 ^ 16
    n < 0x1000 → isStandard n = false →
    let b := s.bindOne slot c f l
    b.2 = none ∧ b.1.segs = s.segs ∧ b.1.ctxs = s.ctxs ∧ (lookupA b.1.launches ((s.ctx c).seat f).launch).bind (·.status) = some 0x04) ∧
  (∀ (table n count : Nat) (s : State), count ≤ 4095 →
    (∀ i j, i < j → j < count → (syllabusEntry s table i).1 / 2 ^ 48 < (syllabusEntry s table j).1 / 2 ^ 48) →
    (∀ i, i < count → (syllabusEntry s table i).1 / 2 ^ 48 = n → s.searchTable table n 13 0 count = some (syllabusEntry s table i)) ∧
    ((∀ i, i < count → (syllabusEntry s table i).1 / 2 ^ 48 ≠ n) → s.searchTable table n 13 0 count = none))

/-- 02 R53 to R57: when the last seat has committed, a seat that has not emitted its symbols or a malformed output raises a trap, a result
that fits begins its commit step and a longer one waits for seats; the commit step puts the output in the segment's seats, and its seats go
on as tails or end. -/
def Obligations.Commits : Prop :=
  (∀ (g : Nat) (s : State) (x : Segment), lookupA s.segs g = some x → x.phase = .running → x.standard = false →
    let out := outputOf s g x
    match (s.bySeat g x.seglen).find? fun i => short i.2 with
    | some (id, _) => exec (.segmentCommit g) s = .next (trapped s id 0x16 0)
    | none =>
      if wellFormed x.level out = false then ∃ id, exec (.segmentCommit g) s = .next (trapped s id 0x17 0)
      else if x.seglen < out.length then
        ∃ t : State, exec (.segmentCommit g) s = .next t ∧ lookupA t.segs g = some { x with total := out.length, phase := .waitingSeats } ∧
          t.ctxs = s.ctxs ∧ t.insts = s.insts ∧ t.mem = s.mem ∧ t.scr = s.scr
      else x.granted = false → s.frozenSegment x = false → x.record = false →
        ∃ t : State, exec (.segmentCommit g) s = .next t ∧ lookupA t.segs g = some { x with total := out.length, phase := .committing } ∧
          scheduled t (s.clk + (twoWay (s.segLevel x) - oneWay (s.segLevel x)) + (out.length + 7) / 8) (.commitComplete g) ∧
          t.insts = s.insts ∧ t.mem = s.mem ∧ t.scr = s.scr) ∧
  (∀ (g : Nat) (s : State) (x : Segment), lookupA s.segs g = some x → x.phase = .committing → x.result = none → sortedA (s.ctx x.ctx).row = true →
    sortedA s.insts = true →
    let out := outputOf s g x
    ∃ t : State, exec (.commitComplete g) s = .next t ∧
      (∀ p, ((t.ctx x.ctx).seat p).sym =
        if x.openSeat ≤ p ∧ p < x.openSeat + out.length then raiseLevel x.level (out.getD (p - x.openSeat) 0#64)
        else if x.openSeat ≤ p ∧ p < x.openSeat + x.seglen then 0#64 else ((s.ctx x.ctx).seat p).sym) ∧
      (∀ i id v, i < x.seglen → s.seatInst g i = some (id, v) →
        if v.ends then t.inst? id = none
        else ∃ u, t.inst? id = some u ∧ u.committed = true ∧ u.stage = Stage.empty ∧ u.regs = v.regs ∧ u.place = v.place) ∧
      ∀ id v, s.inst? id = some v → v.place.seg ≠ g → t.inst? id = some v)

/-- 23 R375, R376; 24 R392; 25 R402: a launch that has finished, or that a status has ended and no segment of which is left, all of whose
far accesses are complete and which is the oldest of its queue, writes its completion record where its queue record says, raises its
interrupt, and retires. -/
def Obligations.CompletionRecords : Prop :=
  ∀ (l pos start : Nat) (s : State) (v : Launch), lookupA s.launches l = some v →
    ((v.status = none ∧ v.phase = .finishing) ∨ (v.status.isSome = true ∧ v.phase ≠ .retired ∧ ∀ g ∈ s.segs, g.2.launch ≠ l)) →
    v.outstanding = 0 → ((s.part v.slot).queue v.queue).pending = [(pos, some l)] → v.startClk = some start →
    let r (i : Nat) : Nat := (v.record.getD i 0#64).toNat
    let words := recordOf s l v start
    (r 5 / 2 ^ 63 = 0 ∨ farExists (r 5 % 2 ^ 48) (8 * words.length) = true) →
    ∃ t : State, exec (.completionRecordWrite l) s = .next t ∧
      performed s t (r 5 % 2 ^ 48) (if r 5 / 2 ^ 63 = 1 then wordBytes words else []) ∧
      (lookupA t.launches l).map (·.phase) = some .retired ∧ t.insts = s.insts ∧ t.scr = s.scr ∧
      t.dev.msix = if r 0 / 2 ^ 23 % 2 = 1 then s.dev.msix ||| (1#64 <<< (v.ctx % 64)) else s.dev.msix

/-- 02 R36; 03 R65, R69 to R72; 10 R226: a wave that starts freezes the sources and destinations of its moves, and when it is complete the
symbols stand at their destinations and nothing is frozen by it; instances stay in their cells; an allowance reaches its instance with the
end of the planning step; an expression is in its seats when it is placed. -/
def Obligations.ShiftWaves : Prop :=
  (∀ (slot c : Nat) (s : State) (p : Part) (w : Wave), lookupA s.parts slot = some p → p.running = some c → p.wave = some w →
    w.started = false → w.allow = [] → w.begins = [] →
    if w.moves = [] then
      w.serves = [] → exec (.shiftWave slot) s = .next ((s.modPart slot fun q => { q with wave := none }).nudge slot)
    else ∃ t : State, exec (.shiftWave slot) s = .next t ∧ (t.part slot).wave = some { w with started := true } ∧
      scheduled t (s.clk + w.duration) (.waveComplete slot) ∧ t.insts = s.insts ∧ t.segs = s.segs ∧ t.mem = s.mem ∧
      ∀ q, (t.ctx c).seat q =
        if w.moves.any (fun m => m.1 = q || m.2 = q) then { (s.ctx c).seat q with frozen := true } else (s.ctx c).seat q) ∧
  (∀ (slot c id n : Nat) (f : RForm) (s : State) (p : Part) (w : Wave) (v : Inst), lookupA s.parts slot = some p → p.running = some c →
    p.wave = some w → w.started = false → w.allow = [(id, n)] → w.begins = [] → w.moves = [] → w.serves = [] →
    s.inst? id = some v → s.pendingInstr v = some (.unfold f) →
    ∃ t : State, exec (.shiftWave slot) s = .next t ∧ t.inst? id = some (released (.unfold f) v s.clk (v.regs.setX f.d (BitVec.ofNat 64 n)))) ∧
  (∀ (slot c : Nat) (s : State) (p : Part) (w : Wave), lookupA s.parts slot = some p → p.running = some c → p.wave = some w →
    w.started = true → w.begins = [] → w.serves = [] → (w.moves.map (·.1)).Nodup → (w.moves.map (·.2)).Nodup →
    (∀ g ∈ s.segs, g.2.ctx = c → g.2.phase ≠ .waitingWave) →
    ∃ t : State, exec (.waveComplete slot) s = .next t ∧ (t.part slot).wave = none ∧ t.insts = s.insts ∧ t.mem = s.mem ∧ t.scr = s.scr ∧
      (∀ q, (t.ctx c).seat q = seatAfter (s.ctx c) w.moves q) ∧
      ∀ g x, lookupA s.segs g = some x → (lookupA t.segs g).map (·.openSeat) = some (
        match w.moves.find? fun m => m.1 = x.openSeat with
        | some m => if x.ctx = c ∧ x.phase ≠ .tail then m.2 else x.openSeat
        | none => x.openSeat)) ∧
  (∀ (l : Nat) (s : State) (v : Launch), lookupA s.launches l = some v → v.phase = .placed → v.status = none →
    let a := (v.record.getD 1 0#64).toNat % 2 ^ 48
    let n := (v.record.getD 2 0#64).toNat % 2 ^ 13
    let ws := (List.range n).map fun k => BitVec.ofNat 64 (readNat s.mem (a + 8 * k) 8)
    let seats := ((s.ctx v.ctx).row.filter fun p => p.2.launch = l).map (·.1)
    farExists a (8 * n) = true → (0 < n → s.farPoisoned a (8 * n) = false) → sortedA (s.ctx v.ctx).row = true → seats.length = n →
    if termsOk 0 [] false ws = true ∧ ws.all (symbolOk (s.part v.slot).cellcount) = true ∧
        (splitTerms [] 0 (ws.filter fun w => kind w ≠ 0)).length = 1 then
      ∃ t : State, exec (.expressionPlaced l) s = .next t ∧ t.mem = s.mem ∧ t.insts = s.insts ∧
        (∀ k, k < n → ((t.ctx v.ctx).seat (seats.getD k 0)).sym = ws.getD k 0#64) ∧
        (∀ q, seats.contains q = false → (t.ctx v.ctx).seat q = (s.ctx v.ctx).seat q) ∧
        ((lookupA t.launches l).map (·.phase) = some .running ∨ (lookupA t.launches l).map (·.phase) = some .finishing)
    else ∃ t : State, exec (.expressionPlaced l) s = .next t ∧ (lookupA t.launches l).bind (·.status) = some 0x02 ∧ t.ctxs = s.ctxs)

/-- 03 R74 to R77, R80: the end of a park writes the record and leaves one quoted symbol, the end of an unpark puts the record's symbols
back at the parked symbol's level plus their own, and the end of a tidy copy brings a tile under its symbol and frees the old header. -/
def Obligations.StorageMoves : Prop :=
  (∀ (slot c a b addr g : Nat) (s : State) (p : Part), lookupA s.parts slot = some p → p.running = some c →
    p.moves.find? (fun m => match m with | .park .. => true | _ => false) = some (.park a b addr g) → a ≤ b →
    kind ((s.ctx c).seat a).sym = 1 →
    let l := level ((s.ctx c).seat a).sym
    let ws := ((s.ctx c).row.filter fun q => a ≤ q.1 && q.1 ≤ b && kind q.2.sym ≠ 0).map fun q => q.2.sym
    farExists addr (8 * ws.length + 8) = true →
    ∃ t : State, exec (.parkWriteComplete slot) s = .next t ∧ t.insts = s.insts ∧ t.segs = s.segs ∧ t.scr = s.scr ∧
      performed s t addr (wordBytes (BitVec.ofNat 64 (ws.length * 2 ^ 48 + l * 2 ^ 40 + 1) :: ws.map fun w => replaced w 59 52 (level w - l))) ∧
      ∀ q, (t.ctx c).seat q =
        if q = a then { SeatState.free with
          sym := BitVec.ofNat 64 (9 * 2 ^ 60 + l * 2 ^ 52 + 2 ^ 48 + addr % 2 ^ 48), launch := ((s.ctx c).seat a).launch }
        else if a ≤ q ∧ q ≤ b then SeatState.free else (s.ctx c).seat q) ∧
  (∀ (slot c a n : Nat) (s : State) (p : Part), lookupA s.parts slot = some p → p.running = some c →
    p.moves.find? (fun m => match m with | .unpark .. => true | _ => false) = some (.unpark a n) → sortedA (s.ctx c).row = true →
    let q := (s.ctx c).seat a
    let addr := q.sym.toNat % 2 ^ 48
    let ws := (List.range n).map fun k => BitVec.ofNat 64 (readNat s.mem (addr + 8 + 8 * k) 8)
    kind q.sym = 9 → q.sym.toNat / 2 ^ 48 % 2 = 1 → farExists addr (8 * n + 8) = true → s.farPoisoned addr (8 * n + 8) = false →
    readNat s.mem addr 8 / 2 % 2 ^ 39 = 0 → ws.all (symbolOk p.cellcount) = true →
    ∃ t : State, exec (.unparkComplete slot) s = .next t ∧ t.insts = s.insts ∧ t.segs = s.segs ∧ t.mem = s.mem ∧ t.scr = s.scr ∧
      (∀ k, k < n → ((t.ctx c).seat (a + k)).sym = raiseLevel (level q.sym) (ws.getD k 0#64)) ∧
      (∀ k, k < a ∨ (a + n ≤ k ∧ a < k) → ((t.ctx c).seat k).sym = ((s.ctx c).seat k).sym) ∧
      (t.ctx c).parks = (s.ctx c).parks.filter fun r => r.addr ≠ addr) ∧
  (∀ (slot c a old cell idx i b : Nat) (s : State) (p : Part) (h : HdrView), lookupA s.parts slot = some p → p.running = some c →
    p.moves.find? (fun m => match m with | .tidy .. => true | _ => false) = some (.tidy a old) →
    s.committedTile c old = some (cell, idx, h) → cell ≠ a → a < 8192 → kind ((s.ctx c).seat a).sym = 6 →
    ((s.ctx c).seat a).sym.toNat % 2 ^ 20 = old → s.poisonedAt c cell h.base (h.base + h.count - 1) = false →
    freePlace (s.cellHeld c a) h.granules = some (i, b) → (∀ g ∈ s.segs, g.2.ctx = c → g.2.phase ≠ .waitingWave) →
    ∃ (t : State) (u : HdrView), exec (.tidyCopyComplete slot) s = .next t ∧ t.insts = s.insts ∧ t.mem = s.mem ∧
      ((t.ctx c).seat a).sym.toNat / 2 ^ 20 = ((s.ctx c).seat a).sym.toNat / 2 ^ 20 ∧
      t.committedTile c (((t.ctx c).seat a).sym.toNat % 2 ^ 20) = some (a, i, u) ∧
      u.ty = h.ty ∧ u.rows = h.rows ∧ u.cols = h.cols ∧ u.band = h.band ∧ u.dirty = h.dirty ∧ u.base = b ∧
      t.committedTile c old = none ∧
      ∀ k, k < 64 * h.granules → readByte t.scr (t.scrAddr c a (64 * b + k)) = readByte s.scr (s.scrAddr c cell (64 * h.base + k)))

/-- 23 R375, R378, R380; 24 R385 to R389: the record at a queue's head is checked, and a fence, level or marker completes behind the records
before it; a launch enters the dependence unit with a dependence on each earlier launch in it whose ranges meet its own; its lease is set up
within the stated bound, waits for pages that are not resident, or ends it. -/
def Obligations.Launches : Prop :=
  (∀ (slot q : Nat) (s : State), ((s.part slot).queue q).die = [] → exec (.recordAtHead slot q) s = .next s) ∧
  (∀ (slot q pos l : Nat) (r : List Word) (rest : List (Nat × List Word)) (s : State) (v : Launch),
    ((s.part slot).queue q).die = (pos, r) :: rest → s.launchAt slot q pos = some (l, v) → lookupA s.launches l = some v → v.status = none →
    if s.badRecord slot q r = true ∨ (s.ctx v.ctx).state = .faulted then
      ∃ (t : State) (u : Launch), exec (.recordAtHead slot q) s = .next t ∧ lookupA t.launches l = some u ∧ u.phase = .finishing ∧
        u.status = some (if s.badRecord slot q r = true then 0x01 else 0x51) ∧ t.mem = s.mem ∧
        (t.part slot).queue q = headTaken s { (s.part slot).queue q with pending := ((s.part slot).queue q).pending ++ [(pos, some l)] } ∧
        scheduled t s.clk (.completionRecordWrite l)
    else (v.phase ≠ .ready ∨ v.deps ≠ []) →
      exec (.recordAtHead slot q) s = .next (s.modLaunch l fun v => { v with record := r })) ∧
  (∀ (slot q pos : Nat) (r : List Word) (rest : List (Nat × List Word)) (s : State),
    ((s.part slot).queue q).die = (pos, r) :: rest → s.launchAt slot q pos = none → s.badRecord slot q r = false →
    ((s.part slot).queue q).pending = [] →
    let w (i : Nat) : Nat := (r.getD i 0#64).toNat
    let bytes := wordBytes [r.getD 6 0#64, 0#64, BitVec.ofNat 64 pos, 0#64, 0#64, 0#64, Config.noStart pos, Config.noEnd pos]
    (w 5 / 2 ^ 63 = 1 → farExists (w 5 % 2 ^ 48) 64 = true) →
    ∃ t : State, exec (.recordAtHead slot q) s = .next t ∧ performed s t (w 5 % 2 ^ 48) (if w 5 / 2 ^ 63 = 1 then bytes else []) ∧
      ((t.part slot).queue q).level = (if w 0 / 2 ^ 44 % 16 = 2 then w 0 / 2 ^ 40 % 4 else ((s.part slot).queue q).level) ∧
      ((t.part slot).queue q).pending = [] ∧ t.launches = s.launches ∧ t.insts = s.insts) ∧
  (∀ (l : Nat) (s : State) (v : Launch) (p : Part) (d : DepRanges), lookupA s.launches l = some v → lookupA s.parts v.slot = some p →
    v.phase = .queued → p.depUnit.length < 64 → s.depRanges v.record = some d →
    let n := (v.record.getD 3 0#64).toNat / 2 ^ 48 % 256
    let a := s.readLease v.record
    let bound := spaceLatency ((v.record.getD 3 0#64).toNat % 2 ^ 48) + (n + 3) / 4 + 4 * a.latency + a.pages
    ∃ (t : State) (u : Launch), exec (.dependenceEntry l) s = .next t ∧ (t.part v.slot).depUnit = p.depUnit ++ [l] ∧
      lookupA t.launches l = some u ∧ t.mem = s.mem ∧
      (∀ e, e ∈ u.deps ↔ e ∈ p.depUnit ∧ ∃ w x, lookupA s.launches e = some w ∧ s.depRanges w.record = some x ∧ mustWait d x) ∧
      if n = 0 then u.phase = .ready
      else n ≤ 64 → u.phase = .waitingUnit ∨ (u.phase = .setup ∧ s.rangesTaken v.ctx + n ≤ 64 ∧
        ∃ e ∈ t.agenda, e.ev = .leaseSetupComplete l ∧ s.clk ≤ e.at_ ∧ e.at_ ≤ s.clk + bound)) ∧
  (∀ (l : Nat) (i : Instr) (s : State) (v : Launch), i = .leaseSetupComplete l ∨ i = .pageRewalk l → lookupA s.launches l = some v →
    v.phase = .setup → v.status = none →
    let a := s.readLease v.record
    ∃ (t : State) (u : Launch), exec i s = .next t ∧ lookupA t.launches l = some u ∧ t.insts = s.insts ∧ t.scr = s.scr ∧
      if a.bad = true then u.status = some 0x32
      else if a.absent = [] then u.phase = .ready ∧ u.ranges = a.ranges ∧ u.pendingPages = [] ∧ t.mem = s.mem
      else u.phase = .setup ∧ u.status = none ∧ u.pendingPages = v.pendingPages ++ a.absent.filter (fun p => !v.pendingPages.contains p) ∧
        scheduled t (s.clk + 65536) (.pageRewalk l) ∧ (v.pendingPages = [] → scheduled t (s.clk + 330000000) (.leaseTimeout l))) ∧
  (∀ (l : Nat) (s : State) (v : Launch), lookupA s.launches l = some v → v.phase = .setup → v.status = none → v.pendingPages ≠ [] →
    ∃ (t : State) (u : Launch), exec (.leaseTimeout l) s = .next t ∧ lookupA t.launches l = some u ∧ u.status = some 0x31 ∧ u.phase = .ready)

/-- 23 R373, R380, R382: the context commands. A create reads the block and gives the context a free side, or leaves it evicted; any other
command to an absent context is refused with bit 4 of the command status and changes nothing else; the address of a block is written only
while its context does not exist. -/
def Obligations.ContextCommands : Prop :=
  (∀ (c : Nat) (s : State),
    let a := (s.ctx c).blockAddr.toNat % 2 ^ 48
    let block := (List.range 24).map fun k => BitVec.ofNat 64 (readNat s.mem (a + 8 * k) 8)
    let slot := (block.getD 0 0#64).toNat / 2 ^ 28 % 4
    farExists a 192 = true →
    if (s.ctx c).state = .absent ∧ s.dev.boot = .firmware ∧ s.dev.lifecycle ≠ .blank ∧ s.dev.choice = true ∧ c < 256 ∧ s.blockOk block = true then
      ∃ (t : State), exec (.create c) s = .next t ∧ t.mem = s.mem ∧ t.scr = s.scr ∧
        let x := t.ctx c
        x.block = block ∧ x.slot = slot ∧ x.cmdStatus = 1#64 ∧ x.row = [] ∧ x.counters = [] ∧ x.sync = [] ∧ x.armed = [] ∧ x.cells = [] ∧
        (x.holds = true ↔ x.state = .resident) ∧ (x.holds = false ↔ x.state = .evicted) ∧
        (x.holds = true → sideFree s slot x.side ∧ x.side < 2) ∧ (x.holds = false → ¬ sideFree s slot 0 ∧ ¬ sideFree s slot 1)
    else exec (.create c) s = .next (commanded s c 1 true)) ∧
  (∀ (c : Nat) (s : State), ∀ e ∈ commandOfCode c (s.ctx c),
    if (s.ctx c).state = .absent then exec e.2.1 s = .next (commanded s c e.1 true)
    else ∃ t : State, exec e.2.1 s = .next t ∧ t.ctx c = { e.2.2 with cmdStatus := BitVec.ofNat 64 e.1 } ∧
      (∀ d, d ≠ c → t.ctx d = s.ctx d) ∧ t.insts = s.insts ∧ t.segs = s.segs ∧ t.mem = s.mem) ∧
  (∀ (c : Nat) (w : Word) (s : State), exec (.contextBlockAddressWrite c w) s = .next (
    if (s.ctx c).state = .absent ∧ c < 256 then s.modCtx c fun x => { x with blockAddr := BitVec.ofNat 64 (w.toNat % 2 ^ 48) } else s))

/-- 23 R379 to R382; 17 R330, R331; 02 R60, R61; 26 R409: a pre-emption discards at once what may be discarded and nothing else; a context
that holds its side begins its turn at once, another after a full exchange; what has not ended 1 ms after the decision is dropped and the
context faults; two equal clean waves report quiescence; an evicted context's scratch stands in its eviction area. -/
def Obligations.Switching : Prop :=
  (∀ (slot c : Nat) (inc : Option Nat) (s : State) (p : Part), lookupA s.parts slot = some p → p.preempt = none → p.leaving = none →
    s.dev.power = .active → p.running = some c → s.switchWanted slot = some inc → sortedA s.segs = true →
    ∃ t : State, exec (.preemptDecision slot) s = .next t ∧ (t.part slot).preempt = some (3, s.clk) ∧ (t.part slot).incoming = inc ∧
      scheduled t (s.clk + 3300000) (.preemptionTimeout slot s.clk) ∧
      (∀ g x, lookupA s.segs g = some x → (discardedAtOnce s c (g, x) → lookupA t.segs g = none) ∧
        (¬ discardedAtOnce s c (g, x) → lookupA t.segs g = some x)) ∧
      ∀ id v, s.inst? id = some v → sortedA s.insts = true → (lookupA t.segs v.place.seg).isSome = true → t.inst? id = some v) ∧
  (∀ (slot n : Nat) (s : State) (p : Part), lookupA s.parts slot = some p → p.preempt = none → p.leaving = none → s.dev.power = .active →
    p.running = none → s.switchWanted slot = some (some n) →
    ∃ t : State, exec (.preemptDecision slot) s = .next t ∧
      if (s.ctx n).holds then (t.part slot).running = some n ∧ (t.part slot).turnStart = s.clk ∧ (t.ctx n).state = .resident ∧
        (t.ctx n).block = (List.range 24).map (fun k => BitVec.ofNat 64 (readNat s.mem ((s.ctx n).blockAddr.toNat % 2 ^ 48 + 8 * k) 8)) ∧
        scheduled t (s.clk + 6600000) (.turnExpiry slot)
      else s.victim slot = none → (t.part slot).preempt = some (7, s.clk) ∧
        scheduled t (s.clk + if s.dev.lx36 then 153997 else 175054) (.contextSwitchComplete slot)) ∧
  (∀ (slot : Nat) (s : State), exec (.turnExpiry slot) s =
    if (s.part slot).turnStart + 6600000 ≤ s.clk then exec (.preemptDecision slot) s else .next s) ∧
  (∀ (slot : Nat) (s : State), ((s.part slot).preempt.isSome = true ∨ (s.part slot).leaving.isSome = true ∨ s.dev.power ≠ .active ∨
    s.switchWanted slot = none) → exec (.preemptDecision slot) s = .next s) ∧
  (∀ (slot c began : Nat) (s : State) (p : Part), lookupA s.parts slot = some p → p.running = some c →
    if p.preempt = some (3, began) ∧ ∃ g ∈ s.segs, g.2.ctx = c ∧ ∀ k ∈ s.colls, k.2.seg ≠ g.1 then
      ∃ t : State, exec (.preemptionTimeout slot began) s = .next t ∧ (t.ctx c).state = .faulted ∧
        ∀ g ∈ s.segs, g.2.ctx = c → (∀ k ∈ s.colls, k.2.seg ≠ g.1) → lookupA t.segs g.1 = none
    else exec (.preemptionTimeout slot began) s = .next s) ∧
  (∀ (slot c e : Nat) (s : State) (p : Part), lookupA s.parts slot = some p → p.preempt = none → p.rollCall = some e → e ≤ s.clk →
    s.callers slot = [c] → (s.ctx c).resetting = true → (s.ctx c).dying = false →
    ∃ t : State, exec (.rollCallWave slot) s = .next t ∧
      if s.rollClean slot c = true ∧ (s.ctx c).lastWave = some (s.ctx c).roll then
        (t.ctx c).counters = [] ∧ (t.ctx c).resetting = false ∧ (t.ctx c).lastWave = none
      else (t.ctx c).counters = (s.ctx c).counters ∧ (t.ctx c).resetting = true ∧
        (t.ctx c).lastWave = if s.rollClean slot c = true then some (s.ctx c).roll else none) ∧
  (∀ (slot n began : Nat) (s : State) (p : Part), lookupA s.parts slot = some p → p.leaving = none → p.preempt = some (7, began) →
    p.incoming = some n → (s.ctx n).state = .resident → (s.ctx n).holds = true → (s.ctx n).suspended = false → (s.ctx n).dying = false →
    ∃ t : State, exec (.contextSwitchComplete slot) s = .next t ∧ (t.part slot).running = some n ∧ (t.part slot).preempt = none ∧
      (t.ctx n).state = .resident ∧ (t.ctx n).holds = true ∧ ∀ c, p.running = some c → c ≠ n → (t.ctx c).turnOut = s.clk) ∧
  (∀ (slot c : Nat) (s : State) (p : Part), lookupA s.parts slot = some p → p.leaving = some c → p.preempt = none → (s.ctx c).holds = true →
    (s.ctx c).slot = slot → (s.ctx c).state = .resident → imageFits (s.ctx c) = true → sortedA s.scr = true → sortedA s.mem = true →
    ∃ t : State, exec (.contextSwitchComplete slot) s = .next t ∧ (t.ctx c).state = .evicted ∧ (t.ctx c).holds = false ∧ t.scr = s.scr ∧
      (∀ cell a, cell < p.cellcount → a < 40960 →
        readByte t.mem ((s.ctx c).blockWord 4 % 2 ^ 48 + 65536 * cell + a) = readByte s.scr (s.scrAddr c cell a)) ∧
      ∀ b, (b < (s.ctx c).blockWord 4 % 2 ^ 48 ∨ (s.ctx c).blockWord 4 % 2 ^ 48 + 65536 * p.cellcount + 4160 ≤ b) →
        readByte t.mem b = readByte s.mem b) ∧
  (∀ (slot t₀ : Nat) (s : State) (p : Part), lookupA s.parts slot = some p → p.idleSince = some t₀ →
    exec (.idleGateEntry slot) s = .next (
      if t₀ + 330000 ≤ s.clk ∧ p.sweeping = false ∧ s.dev.power = .active then s.modPart slot fun q => { q with gated := true } else s))

/-- 23 R372, R373, R377, R383; 25 R397 to R400; 27 R416: a push goes to an on-die place, to the ring's tail or is dropped and counted; the
spill registers change only while the queue is empty; a virtual push that is refused is counted; a forwarded record goes to the queue of the
context of its tag and is answered by a report; and the register writes of the host. -/
def Obligations.HostWrites : Prop :=
  (∀ (slot q : Nat) (r : List Word) (s : State) (p : Part), lookupA s.parts slot = some p → q < 4 →
    let u := p.queue q
    let a := u.base.toNat % 2 ^ 48 + 64 * ((u.ringHead + u.ringCount) % max 1 u.size)
    let onDie : Bool := u.ringCount = 0 && u.die.length < 32
    (onDie = false → u.ringCount < u.size → farExists a 64 = true) →
    ∃ t : State, exec (.queuePush slot q r) s = .next t ∧ t.insts = s.insts ∧ t.scr = s.scr ∧
      if onDie then t.mem = s.mem ∧ (t.part slot).queue q = { u with die := u.die ++ [(u.nextPos, r)], nextPos := u.nextPos + 1 }
      else if u.ringCount < u.size then performed s t a (wordBytes r) ∧
        (t.part slot).queue q = { u with ringCount := u.ringCount + 1, nextPos := u.nextPos + 1 }
      else t = s.modQueue slot q fun u => { u with drops := u.drops + 1 }) ∧
  (∀ (slot q : Nat) (r : List Word) (s : State) (p : Part), lookupA s.parts slot = some p → q = 4 ∨ q = 5 → r.length = 8 →
    let c := (r.getD 0 0#64).toNat / 2 ^ 32 % 256
    let a := (s.ctx c).blockWord (if q = 4 then 6 else 7) % 2 ^ 48
    let size := s.virtualSize a
    let tail := readNat s.mem (a + 8) 8
    if (s.ctx c).state = .absent ∨ size = 0 ∨ size ≤ (tail + 2 ^ 64 - readNat s.mem a 8) % 2 ^ 64 then
      ∃ t : State, exec (.virtualQueuePush slot q r) s = .next t ∧ t.mem = s.mem ∧ t.ctxs = s.ctxs ∧
        (slot < 4 → t.dev.virtualDrops.toList.getD (2 * slot + (q - 4)) 0 = s.dev.virtualDrops.toList.getD (2 * slot + (q - 4)) 0 + 1)
    else ∃ t : State, exec (.virtualQueuePush slot q r) s = .next t ∧ t.ctxs = s.ctxs ∧ t.dev = s.dev ∧
      ∀ b, readByte t.mem b = written [(a + 64 + 64 * (tail % size), wordBytes r)] b
        (written [(a + 8, bytesOf 8 (tail + 1))] b (readByte s.mem b))) ∧
  (∀ (slot q : Nat) (w : Word) (s : State),
    let u := (s.part slot).queue q
    let empty : Bool := u.die.isEmpty && u.ringCount = 0
    exec (.spillBaseWrite slot q w) s = .next (if empty then
      s.modQueue slot q fun u => { u with base := BitVec.ofNat 64 (w.toNat / 64 % 2 ^ 42 * 64), ringHead := 0 } else s) ∧
    exec (.spillSizeWrite slot q w) s = .next (if empty ∧ (w.toNat = 0 ∨ (List.range 11).any (fun k => w.toNat = 2 ^ (k + 6)) = true) then
      s.modQueue slot q fun u => { u with size := w.toNat } else s)) ∧
  (∀ (offset : Nat) (w : Word) (s : State), exec (.registerWrite offset w) s = .next (
    if offset = 0x300010 then { s with dev := { s.dev with imageLength := w } }
    else if 0x2000000 ≤ offset ∧ offset + 8 ≤ 0x3000000 ∧ offset % 8 = 0 then
      (if s.dev.boot = .waitingImage then
        { s with dev := { s.dev with imageBuffer := writeNat s.dev.imageBuffer (offset - 0x2000000) 8 w.toNat } } else s)
    else if 0x200000 ≤ offset ∧ offset < 0x300000 ∧ offset % 4096 = 8 ∧ ¬ (1 ≤ w.toNat ∧ w.toNat ≤ 6) then
      commanded s ((offset - 0x200000) / 4096) (w.toNat % 16) true
    else s)) ∧
  (∀ (addr : Nat) (write : Bool) (bytes : List Byte) (s : State),
    if write = true ∧ 512000000000 ≤ addr + s.dev.window * 2 ^ 30 ∧ addr + bytes.length ≤ 512000000000 then
      ∃ t : State, exec (.cxlMemAccess addr write bytes) s = .next t ∧ performed s t addr bytes ∧ t.insts = s.insts
    else exec (.cxlMemAccess addr write bytes) s = .next s) ∧
  (∀ (plane fabric : Nat) (r : List Word) (s : State),
    match s.ctxs.find? (fun x => x.2.state ≠ .absent && x.2.blockWord 0 / 2 ^ 48 % 2 ^ 16 = fabric) with
    | none => ∃ t : State, exec (.forwardedRecord plane fabric r) s = .next t ∧ t.mem = s.mem ∧ t.ctxs = s.ctxs ∧ t.parts = s.parts ∧
        t.dev.reports.length = s.dev.reports.length + 1
    | some (c, x) =>
      let q := (r.getD 0 0#64).toNat / 2 ^ 42 % 4
      let u := (s.part x.slot).queue q
      (r.getD 0 0#64).toNat / 2 ^ 44 % 16 ≠ 3 → c < 256 → s.ctx c = x → (lookupA s.parts x.slot).isSome = true → u.ringCount = 0 → u.die.length < 32 →
      ∃ (t : State) (r' : List Word), exec (.forwardedRecord plane fabric r) s = .next t ∧ t.mem = s.mem ∧
        ((t.part x.slot).queue q).die = u.die ++ [(u.nextPos, r')] ∧ r'.drop 1 = r.drop 1 ∧ (r'.getD 0 0#64).toNat / 2 ^ 32 % 256 = c % 256 ∧
        t.dev.reports.length = s.dev.reports.length + 1)

/-- 15 R308; 26 R410, R411; 27 R413 to R418: the limiter's ceiling moves by the ramp table towards the demand and admits nothing beyond it;
the power cap; the unit limit moves by the module power, a free value (log 3); the partition layout and a partition's reset; the choice of
formats; links, whose training reads a free value (log 3). -/
def Obligations.PowerAndLayout : Prop :=
  (∀ (q : Nat) (s : State),
    let l := s.limiter q
    let d := demandOf s q
    let code := s.dev.cap.toNat / 2 ^ 16 % 16
    ∃ t : State, exec (.limiterStep q) s = .next t ∧ t.scr = s.scr ∧
      (t.limiter q).ceiling = (if l.ceiling < d then min d (l.ceiling + riseOf code l.ceiling)
        else if d < l.ceiling then max d (l.ceiling - fallOf l.ceiling) else l.ceiling) ∧
      ((t.limiter q).admitted.length ≤ (t.limiter q).ceiling ∨ ∀ u ∈ (t.limiter q).admitted, u ∈ l.admitted)) ∧
  (∀ s : State,
    let power := Config.modulePower s.fresh
    let cap := s.dev.cap.toNat % 2 ^ 16
    let cells := if s.dev.lx36 then 1792 else 2048
    let moved (m : Nat) : Nat := if s.dev.isModule = false then cells else if cap < power then max 64 (m - m / 8)
      else if 100 * power < 95 * cap then min cells (m + (m + 7) / 8) else m
    ∃ t : State, exec .capControl s = .next t ∧ scheduled t (s.clk + 3300000) .capControl ∧ t.insts = s.insts ∧ t.mem = s.mem ∧
      ∀ q, q < 4 → t.limiter q = { s.limiter q with unitLimit := moved (s.limiter q).unitLimit }) ∧
  (∀ (w : Word) (s : State), exec (.powerCapWrite w) s = .next (
    let watts := w.toNat % 2 ^ 16
    if s.dev.isModule = true ∧ 1000 ≤ watts ∧ watts ≤ (if s.dev.lx36 then 2550 else 2800) ∧ w.toNat / 2 ^ 16 % 16 < 3 then
      onDevice s { s.dev with cap := BitVec.ofNat 64 (w.toNat % 2 ^ 20) } else s)) ∧
  (∀ (w : Word) (s : State),
    let v := w.toNat % 4
    if v = 3 ∨ ∃ x ∈ s.ctxs, x.2.state ≠ .absent then exec (.partitionLayoutWrite w) s = .next s
    else ∃ t : State, exec (.partitionLayoutWrite w) s = .next t ∧ t.dev.layout = v ∧ t.launches = [] ∧ t.mem = s.mem ∧ t.ctxs = s.ctxs ∧
      (∀ slot, lookupA t.parts slot =
        if (slotsOf v).1.contains slot then some (Part.empty ((slotsOf v).2 * s.perQuarter) s.clk) else none) ∧
      ∀ q, (t.limiter q).ceiling = 0 ∧ (t.limiter q).admitted = [] ∧ (t.limiter q).waiting = []) ∧
  (∀ (w : Word) (s : State),
    let slot := w.toNat
    if (lookupA s.parts slot).isNone = true ∨ ∃ x ∈ s.ctxs, x.2.state ≠ .absent ∧ x.2.slot = slot then exec (.partitionResetWrite w) s = .next s
    else ∃ t : State, exec (.partitionResetWrite w) s = .next t ∧ t.ctxs = s.ctxs ∧ t.mem = s.mem ∧ t.dev.layout = s.dev.layout ∧
      lookupA t.parts slot = some (Part.empty ((slotsOf s.dev.layout).2 * s.perQuarter) s.clk) ∧
      (∀ p, p ≠ slot → lookupA t.parts p = lookupA s.parts p) ∧ ∀ l ∈ t.launches, l ∈ s.launches ∧ l.2.slot ≠ slot) ∧
  (∀ (w : Word) (s : State),
    let field (i : Nat) : Nat := w.toNat / 2 ^ (16 * i) % 2 ^ 16
    let top (i : Nat) : Nat := if i = 0 then s.dev.hif else (Config.offeredMax i).toNat
    ((∀ i, i < 4 → (Config.offeredMin i).toNat ≤ field i ∧ field i ≤ top i) → s.dev.boot = .firmware → (∀ x ∈ s.ctxs, x.2.state = .absent) →
      exec (.formatChoiceWrite w) s = .next (onDevice s { s.dev with chosen := w, choice := true })) ∧
    (((∃ i, i < 4 ∧ ¬ ((Config.offeredMin i).toNat ≤ field i ∧ field i ≤ top i)) ∨ ∃ x ∈ s.ctxs, x.2.state ≠ .absent) →
      exec (.formatChoiceWrite w) s = .next s)) ∧
  (∀ (plane : Nat) (s : State), plane < 16 →
    let k := Config.linkTraining s.fresh
    let format := min (s.dev.chosen.toNat / 2 ^ 48) k.2.1
    let others := ∃ p, p < 16 ∧ p ≠ plane ∧ (s.dev.links.toList.getD p ⟨false, 0⟩).up = true
    ∃ t : State, exec (.linkTraining plane) s = .next t ∧ t.mem = s.mem ∧ t.ctxs = s.ctxs ∧
      (∀ p, p < 16 → p ≠ plane → t.dev.links.toList.getD p ⟨false, 0⟩ = s.dev.links.toList.getD p ⟨false, 0⟩) ∧
      ((k.2.2 = true ∧ (Config.offeredMin 3).toNat ≤ format ∧ k.1 < 512 ∧ (others → k.1 = s.dev.number) →
          t.dev.links.toList.getD plane ⟨false, 0⟩ = ⟨true, format⟩ ∧ t.dev.number = k.1 ∧ t.dev.live = s.dev.live) ∧
        (¬ (k.2.2 = true ∧ (Config.offeredMin 3).toNat ≤ format ∧ k.1 < 512 ∧ (others → k.1 = s.dev.number)) →
          (t.dev.links.toList.getD plane ⟨false, 0⟩).up = false ∧ t.dev.number = s.dev.number ∧
            t.dev.live.fabric = s.dev.live.fabric + 1#64))) ∧
  (∀ (plane : Nat) (s : State), plane < 16 → ∃ t : State, exec (.linkDown plane) s = .next t ∧
    (t.dev.links.toList.getD plane ⟨false, 0⟩).up = false ∧ ∀ p, p < 16 → p ≠ plane →
      t.dev.links.toList.getD p ⟨false, 0⟩ = s.dev.links.toList.getD p ⟨false, 0⟩)

/-- 21 R361, R362, R364 to R368: members that agree start their first step and members that disagree end with collective-mismatch; a step that
completes gives way to the next and a local slice takes the member's own block; a collective that is complete writes its destination
shard; a lost member ends the collective, or is left out of a reduction. What peers hold and when is a free value (log 36). -/
def Obligations.CrossDevice : Prop :=
  (∀ (id : Nat) (s : State) (k : Collective), lookupA s.colls id = some k → s.mayStep k.ctx = true →
    ∃ t : State, exec (.collectiveHandshake id) s = .next t ∧
      if Config.peersAgree s.fresh = true then
        lookupA t.colls id = some { k with stepping := true, lastBeat := s.clk } ∧ t.mem = s.mem ∧ t.ctxs = s.ctxs
      else lookupA t.colls id = none ∧ t.dev.live.fabric = s.dev.live.fabric + 1#64 ∧
        (mayEnd s k.launch → (lookupA t.launches k.launch).bind (·.status) = some 0x40)) ∧
  (∀ (id : Nat) (s : State) (k : Collective) (st : CollStep) (rest : List CollStep), lookupA s.colls id = some k → s.mayStep k.ctx = true →
    k.stepping = true → k.steps = st :: rest →
    ∃ t : State, exec (.collectiveStepComplete id) s = .next t ∧
      if k.level = 2 ∧ k.remote st = true ∧ Config.digestDiffers s.fresh = true then
        lookupA t.colls id = none ∧ (mayEnd s k.launch → (lookupA t.launches k.launch).bind (·.status) = some 0x41)
      else ∃ u, lookupA t.colls id = some u ∧ u.steps = rest ∧ u.stepNo = k.stepNo + 1 ∧ u.stepping = true ∧ u.lastBeat = s.clk ∧
        t.mem = s.mem ∧ t.ctxs = s.ctxs ∧
        match st.kind with
        | .slice d =>
          let n := k.dims.getD d 1 / max 1 (k.mesh.getD st.axis 1)
          u.dims = k.dims.set d n ∧ u.data = bytesOfCodes k.ty ((indicesOf u.dims).map fun i =>
            (codesOf k.ty k.data).getD (flatIndex k.dims (i.set d (i.getD d 0 + k.coord.getD st.axis 0 * n))) 0)
        | .gatherWhole => u.data = k.data ∧ u.dims = k.dims
        | .allGather d => u.dims = k.dims.set d (k.dims.getD d 1 * max 1 (k.mesh.getD st.axis 1))
        | _ => True) ∧
  (∀ (id a : Nat) (s : State) (k : Collective), lookupA s.colls id = some k → k.stepping = true → k.steps = [] →
    physical (s.rangesOf k.launch) k.entry k.dest k.data.length true = some a → farExists a k.data.length = true →
    ∃ t : State, exec (.collectiveStepComplete id) s = .next t ∧ lookupA t.colls id = none ∧ scheduled t s.clk (.segmentCommit k.seg) ∧
      (∀ g, lookupA s.segs k.seg = some g →
        lookupA t.segs k.seg = some { g with result := some [mkSym 8 (k.entry * 2 ^ 42 + k.dest)] }) ∧
      (k.lost = [] → performed s t a k.data) ∧
      (k.lost ≠ [] → (lookupA s.launches k.launch).isSome = true → (lookupA t.launches k.launch).bind (·.noted) = some 0x42)) ∧
  (∀ (c id : Nat) (s : State), (s.part (s.ctx c).slot).running ≠ some c →
    exec (.parkedReply c id) s = .next (onDevice s { s.dev with parkedReplies := (c, id) :: s.dev.parkedReplies })) ∧
  (∀ (c id : Nat) (s : State) (k : Collective), (s.part (s.ctx c).slot).running = some c → lookupA s.colls id = some k → k.stepping = true →
    exec (.parkedReply c id) s = .next ({ s with colls := putA s.colls id { k with lastBeat := s.clk } }.schedule (s.clk + 6600000)
      (.memberLostTimeout id))) ∧
  (∀ (id : Nat) (s : State) (k : Collective), lookupA s.colls id = some k → s.mayStep k.ctx = true →
    ∃ t : State, exec (.switchSlotLoss id) s = .next t ∧ lookupA t.colls id = some { k with stepping := true, lastBeat := s.clk } ∧
      t.mem = s.mem ∧ t.launches = s.launches ∧ t.insts = s.insts) ∧
  (∀ (id : Nat) (s : State) (k : Collective) (st : CollStep) (rest : List CollStep), lookupA s.colls id = some k → s.mayStep k.ctx = true →
    k.stepping = true → k.steps = st :: rest → k.remote st = true →
    ∃ t : State, exec (.memberLostTimeout id) s = .next t ∧
      if s.clk < k.lastBeat + 6600000 then t = s
      else match st.kind with
        | .reduceScatter _ =>
          if k.level = 2 then lookupA t.colls id = none ∧ (mayEnd s k.launch → (lookupA t.launches k.launch).bind (·.status) = some 0x42)
          else ∃ m, m ≠ k.coord.getD st.axis 0 ∧ m < k.mesh.getD st.axis 1 ∧
            lookupA t.colls id = some { k with stepping := true, lastBeat := s.clk, lost := k.lost ++ [m] } ∧
            t.dev.live.fabric = s.dev.live.fabric + 1#64
        | _ => lookupA t.colls id = none ∧ (mayEnd s k.launch → (lookupA t.launches k.launch).bind (·.status) = some 0x42))

/-- 26 R403 to R409: the ROM runs an image exactly when it passes every check, the firmware's start resets every partition and fixes the debug
level, the flash slot, the rollback counter, the lifecycle, which advances only forward, and the power states. What a token names and
whether it verifies is a free value (log 3). -/
def Obligations.BootAndSecurity : Prop :=
  (∀ (i : Instr) (m : Memory) (s : State),
    (i = .powerOnBoot ∧ m = s.dev.flash) ∨ (i = .verifyImage ∧ s.dev.boot = .waitingImage ∧ m = s.dev.imageBuffer) →
    (s.dev.imageCause m = 0 ↔ imageAccepted s.dev m) ∧
    ∃ t : State, exec i s = .next t ∧
      if s.dev.imageCause m = 0 then
        t.dev.boot = .firmware ∧ t.dev.svn = readNat m 0 8 % 2 ^ 16 ∧ t.dev.hif = readNat m 0 8 / 2 ^ 16 % 2 ^ 16 ∧
        t.dev.digest = readBytes m 16 48 ∧ t.dev.debug = s.dev.token.getD .none ∧ t.dev.choice = false ∧ t.launches = [] ∧
        t.dev.cap = (if s.dev.isModule then (if s.dev.lx36 then 2550#64 else 2800#64) else 0#64) ∧
        (∀ slot, (lookupA t.parts slot).isSome = (slotsOf s.dev.layout).1.contains slot) ∧
        t.mem = (if s.dev.lifecycle = .deployed ∧ s.dev.token = some .intrusive then s.mem.filter fun b => b.1 / 2 ^ 46 % 4 = 2 else s.mem)
      else t = onDevice s { s.dev with boot := .waitingImage, verifyCause := s.dev.imageCause m }) ∧
  (∀ s : State, s.dev.boot ≠ .waitingImage → exec .verifyImage s = .next s) ∧
  (∀ s : State,
    if s.dev.lifecycle = .deployed ∧ ∃ x ∈ s.ctxs, x.2.state ≠ .absent then exec .writeFlash s = .next s
    else
      let n := min s.dev.imageLength.toNat (2 ^ 24)
      exec .writeFlash s = .next (onDevice s { s.dev with flash := s.dev.imageBuffer.filter (fun b => b.1 < n), flashLength := n })) ∧
  (∀ s : State, s.dev.boot = .rom ∨ s.dev.boot = .waitingImage →
    let k := Config.token s.fresh
    let level : DebugLevel := if k.1 = 1 then .observe else if k.1 = 2 then .intrusive else .none
    let free : Bool := level = .none || s.dev.lifecycle = .blank || s.dev.lifecycle = .returned ||
      (s.dev.lifecycle = .provisioned && level = .observe)
    exec .presentDebugToken s = .next { onDevice s { s.dev with token := if free || k.2 then some level else s.dev.token } with
      fresh := s.fresh + 1 }) ∧
  (∀ s : State, exec .rollbackRaise s = .next (if s.dev.boot = .firmware ∧ s.dev.firmwareSince + 198000000000 ≤ s.clk then
    onDevice s { s.dev with rollback := max s.dev.rollback s.dev.svn } else s)) ∧
  (∀ s : State, exec .identityKeyCreate s = .next (if s.dev.lifecycle = .blank then
    onDevice s { s.dev with lifecycle := .provisioned, identityKey := true } else s)) ∧
  (∀ s : State, exec .deployFuseWrite s = .next (if s.dev.lifecycle = .provisioned then
    onDevice s { s.dev with lifecycle := .deployed } else s)) ∧
  (∀ s : State, exec .returnToken s = .next (if s.dev.lifecycle = .deployed ∧ (Config.token s.fresh).2 = true then
    { onDevice s { s.dev with lifecycle := .returned } with fresh := s.fresh + 1, mem := s.mem.filter fun b => b.1 / 2 ^ 46 % 4 = 2 }
    else { s with fresh := s.fresh + 1 })) ∧
  (∀ s : State, match s.dev.power with
    | .active => exec .powerActive s = .next s
    | .off => exec .powerActive s = .next ((onDevice s { s.dev with power := .active, boot := .rom }).schedule s.clk .powerOnBoot)
    | .retention => ∃ t : State, exec .powerActive s = .next t ∧ t.dev = { s.dev with power := .active } ∧ t.mem = s.mem ∧ t.scr = s.scr ∧
        t.insts = s.insts ∧ ∀ p ∈ s.parts, scheduled t (s.clk + 66000) (.discoverySweep p.1)) ∧
  (∀ s : State,
    (s.dev.power = .active → (∀ x ∈ s.ctxs, x.2.holds = true → s.rollClean x.2.slot x.1 = true) → s.dev.debug ≠ .intrusive →
      s.dev.lifecycle ≠ .blank → exec .powerRetention s = .next (onDevice s { s.dev with power := .retention })) ∧
    ((s.dev.debug = .intrusive ∨ s.dev.lifecycle = .blank ∨ ∃ x ∈ s.ctxs, x.2.holds = true ∧ s.rollClean x.2.slot x.1 = false) →
      exec .powerRetention s = .next s)) ∧
  (∀ s : State,
    if (∃ x ∈ s.ctxs, x.2.state ≠ .absent) ∨ s.dev.debug = .intrusive then exec .powerOff s = .next s
    else s.dev.power ≠ .off → ∃ t : State, exec .powerOff s = .next t ∧ t.dev.power = .off ∧ t.ctxs = [] ∧ t.parts = [] ∧ t.insts = [] ∧
      t.scr = [] ∧ t.mem = s.mem.filter (fun b => b.1 / 2 ^ 46 % 4 ≠ 1) ∧ t.dev.lifecycle = s.dev.lifecycle ∧
      t.dev.rollback = s.dev.rollback ∧ t.dev.identityKey = s.dev.identityKey ∧ t.dev.flash = s.dev.flash)

/-- 24 R395; 26 R407, R408; 27 R419: the attestation requests and their answers; telemetry; a correctable error is counted and changes nothing
else, and an uncorrectable one takes the path of its store. -/
def Obligations.AttestationAndErrors : Prop :=
  (∀ (s : State), ∀ e ∈ spdmAnswers s.dev, exec e.1 s = .next (onDevice s { s.dev with answer := e.2, nonce :=
    if e.1 = .challenge ∨ e.1 = .getMeasurements then s.dev.nonce + 1 else s.dev.nonce })) ∧
  (∀ s : State, ∃ t : State, exec .telemetryRefresh s = .next t ∧ t.dev.live = s.dev.live ∧ t.dev.shown.correctable = s.dev.live.correctable ∧
    t.dev.shown.uncorrectable = s.dev.live.uncorrectable ∧ t.dev.shown.fabric = s.dev.live.fabric ∧ t.dev.shown.lost = s.dev.live.lost ∧
    scheduled t (s.clk + 3300000) .telemetryRefresh ∧ t.mem = s.mem ∧ t.ctxs = s.ctxs) ∧
  (∀ (e : ErrorStore) (k : Nat) (s : State), (match e with
      | .instanceState _ | .cellState _ _ => k = 0
      | .scratch _ _ _ => k = 1
      | .lessonBuffer _ _ => k = 2
      | .sweepBuffer _ | .discovery _ | .rowSymbol _ _ => k = 3
      | .farLine a => (a / 2 ^ 46 % 4 = 0 ∧ k = 4) ∨ (a / 2 ^ 46 % 4 = 1 ∧ k = 5)
      | .contextStore _ => k = 6) →
    ∃ t : State, exec (.correctableError e) s = .next t ∧
      t = onDevice s { s.dev with live := { s.dev.live with correctable := t.dev.live.correctable } } ∧
      ∀ j, j < 7 → t.dev.live.correctable.toList.getD j 0#64 = counted s.dev.live.correctable k j) ∧
  (∀ (c cell g a : Nat) (s : State),
    (∃ t : State, exec (.uncorrectableError (.scratch c cell g)) s = .next t ∧ s.poisonKey c cell g ∈ t.poison ∧ (∀ k ∈ s.poison, k ∈ t.poison) ∧
      t.mem = s.mem ∧ t.scr = s.scr ∧ t.insts = s.insts) ∧
    (∃ t : State, exec (.uncorrectableError (.farLine a)) s = .next t ∧ a / 64 ∈ t.poison ∧ (∀ k ∈ s.poison, k ∈ t.poison) ∧
      t.mem = s.mem ∧ t.scr = s.scr ∧ t.insts = s.insts)) ∧
  (∀ (c : Nat) (e : ErrorStore) (s : State), (e = .contextStore c ∨ ∃ k, e = .cellState c k ∨ e = .rowSymbol c k) →
    (s.ctx c).state ≠ .absent → ∃ t : State, exec (.uncorrectableError e) s = .next t ∧ (t.ctx c).state = .faulted) ∧
  (∀ (id : Nat) (s : State) (v : Inst) (g : Segment), s.inst? id = some v → segment? s v = some g → loose g = true →
    sortedA (s.ctx g.ctx).row = true →
    ∃ t : State, exec (.uncorrectableError (.instanceState id)) s = .next t ∧ lookupA t.segs v.place.seg = none ∧ t.inst? id = none ∧
      if ((s.ctx g.ctx).seat g.openSeat).struck then mayEnd s g.launch → (lookupA t.launches g.launch).bind (·.status) = some 0x33
      else ((t.ctx g.ctx).seat g.openSeat).struck = true ∧ ((t.ctx g.ctx).seat g.openSeat).sym = ((s.ctx g.ctx).seat g.openSeat).sym) ∧
  (∀ (id : Nat) (s : State) (v : Inst) (g : Segment), s.inst? id = some v → segment? s v = some g → loose g = false →
    ∃ t : State, exec (.uncorrectableError (.instanceState id)) s = .next t ∧ (v.status ≠ .trapped → t.trapped = s.trapped ++ [id]))

/-- 02 R57; 06 R124, R133, R134; 24 R392, R394: what taking a trap does: the instance stops and is among those that end with the clk, the
report card has the entry, and the launch has the status. Reading a freed register raises the freed-register trap, and a form that a
tail may not issue the post-commit trap. With the clk an uncommitted instance's segment goes with everything it staged; in a tail the
instance ends alone; of an ended launch the uncommitted segments that are not engaged go. Scratch that no dropped instance has written
stands (02 R51). -/
def Obligations.TrapsTaken : Prop :=
  (∀ (id status cause : Nat) (s : State) (v : Inst), s.inst? id = some v → v.status ≠ .trapped →
    let t := trapped s id status cause
    t.inst? id = some { v with status := .trapped, wake := none } ∧ (∀ j, j ≠ id → t.inst? j = s.inst? j) ∧
      t.trapped = s.trapped ++ [id] ∧ t.mem = carded s v status cause ∧ t.scr = s.scr ∧ t.segs = s.segs ∧ t.ctxs = s.ctxs ∧
      t.farWrites = s.farWrites ∧ t.agenda = s.agenda ∧
      (mayEnd s v.place.launch → v.place.launch ∈ t.ending ∧ (lookupA t.launches v.place.launch).bind (·.status) = some status)) ∧
  (∀ (i : Instr) (s : State) (id : Nat) (v : Inst), legal i = true → s.actor = some id → s.inst? id = some v → v.committed = false →
    (usesOf i).reads.any v.regs.isFreed = true → exec i s = .next (trapped s id 0x11 0)) ∧
  (∀ (i : Instr) (p : Nat) (f : Form) (s : State) (id : Nat) (v : Inst), legal i = true → i.parts = some (p, f) → s.actor = some id →
    s.inst? id = some v → v.committed = true → tailMay p (s.recordMode v) = false → exec i s = .next (trapped s id 0x1A 0)) ∧
  (∀ (id : Nat) (s : State) (v : Inst) (x : Segment), s.trapped = [id] → s.ending = [] → s.inst? id = some v → v.committed = false →
    lookupA s.segs v.place.seg = some x → sortedA s.insts = true → sortedA s.segs = true →
    let t := s.endOfClk
    lookupA t.segs v.place.seg = none ∧ (∀ h, h ≠ v.place.seg → lookupA t.segs h = lookupA s.segs h) ∧
      (∀ j w, s.inst? j = some w → t.inst? j = if w.place.seg = v.place.seg then none else some w) ∧
      t.trapped = [] ∧ t.mem = s.mem ∧ t.farWrites = s.farWrites ∧
      ∀ a, (∀ j w, s.inst? j = some w → w.place.seg = v.place.seg → wroteByte s w a = false) → readByte t.scr a = readByte s.scr a) ∧
  (∀ (id : Nat) (s : State) (v : Inst), s.trapped = [id] → s.ending = [] → s.inst? id = some v → v.committed = true → sortedA s.insts = true →
    let t := s.endOfClk
    t.inst? id = none ∧ (∀ j, j ≠ id → t.inst? j = s.inst? j) ∧ t.trapped = [] ∧ t.mem = s.mem ∧ t.scr = s.scr ∧ t.farWrites = s.farWrites) ∧
  (∀ (l : Nat) (s : State), s.trapped = [] → s.ending = [l] → sortedA s.insts = true → sortedA s.segs = true →
    let t := s.endOfClk
    (∀ g x, lookupA s.segs g = some x → lookupA t.segs g = if x.launch = l ∧ loose x = true then none else some x) ∧
      t.ending = [] ∧ t.mem = s.mem ∧ t.farWrites = s.farWrites ∧
      ∀ a, (∀ j w x, s.inst? j = some w → segment? s w = some x → x.launch = l → loose x = true → wroteByte s w a = false) →
        readByte t.scr a = readByte s.scr a)

/-- 05, "Encoding"; 06 R121, R126, R133: words written out in the spec, and the instructions and causes that the spec gives them. -/
def Obligations.DecodeWords : Prop :=
  decode 0x000060C108000000 = .ok (.add ⟨0, false, false, false, false, .i64, 3, 1, 2, 0, 0⟩) ∧
  decode 0x10006104FFFFFFFF = .ok (.addi ⟨0, false, false, .i64, 4, 4, 0xFFFFFFFF⟩) ∧
  decode 0x407881461C000000 = .ok (.vadd ⟨3, true, true, false, false, .f32, 5, 6, 7, 0, 0⟩) ∧
  decode 0x20006004000FFFFF = .ok (.b ⟨false, false, .i64, 4, 0, 0, 0, 0xFFFFF⟩) ∧
  decode 0x2700000000000000 = .ok .done ∧
  decode 0x000060C108000001 = .error .function ∧ decode 0x0000E0C108000000 = .error .reservedType ∧
  decode 0x000080C108000000 = .error .typeNotAccepted ∧ decode 0x000060E808000000 = .error .registerClass ∧
  decode 0x000260C108000000 = .error .lastUse ∧ decode 0x002060C108000000 = .error .maskUse ∧
  decode 0x0022E0C108000001 = .error .function ∧ decode 0x2700000000010000 = .error .reservedBit ∧
  decode 0xF000000000000000 = .error .primary

/-- Every legal lesson instruction has one word, which the decoder reads back as that instruction, with every operand at every value that
its encoding admits. -/
def Obligations.DecodeEncode : Prop :=
  ∀ i : Instr, i.parts.isSome = true → WellFormed i = true →
    ∃ w, encode i = some w ∧ w < 2 ^ 64 ∧ decode w = .ok i ∧ decodeTableWord 64 w = some i

/-- 06 R126, R133: every word that the decoder reads as an instruction is that instruction's word, so no two words are one instruction;
the decoder refuses exactly the words that show a cause, and names the cause with the lowest code. -/
def Obligations.EncodeDecode : Prop :=
  (∀ (w : Nat) (i : Instr), w < 2 ^ 64 → decode w = .ok i → encode i = some w ∧ legal i = true) ∧
  (∀ w : Nat, w < 2 ^ 64 → staticCauses w = [] → ∃ i, decode w = .ok i) ∧
  (∀ (w : Nat) (c : IllegalCause), w < 2 ^ 64 → c ∈ staticCauses w → ∃ d, decode w = .error d ∧ d ∈ staticCauses w ∧
    ∀ e ∈ staticCauses w, d.code ≤ e.code)

/-- 01 R13 to R15; 06 R131, R133: a step runs the instruction that the word at the program counter decodes to; an index past the last word
acts as `done`; an illegal word takes its trap; an instance waits for its registers and, with a tile, tree, symbol or record
instruction, for the older instance of its cell; an event of the agenda runs at its clk; and what a clk ends, ends behind its issues. -/
def Obligations.StepRunsDecoded : Prop :=
  (∀ (s : State) (clk id w : Nat) (v : Inst) (i : Instr), s.turn = .issue clk id → s.inst? id = some v → s.fetch v = some w →
    lessonCauses v.hdr v.pc w = [] → decode w = .ok i →
    step s =
      if v.committed = false ∧ primaryOf i / 16 ∈ [7, 8, 9, 13] ∧
          (∃ o ∈ s.insts, o.2.committed = true ∧ o.2.place.ctx = v.place.ctx ∧ o.2.place.cell = v.place.cell) then
        .next ((s.atTurn clk id).setInst id { v with wake := some (clk + 1) })
      else if v.readyAt i ≤ clk then exec i (s.atTurn clk id)
      else .next ((s.atTurn clk id).setInst id { v with wake := some (if unknownClk ≤ v.readyAt i then clk + 1 else v.readyAt i) })) ∧
  (∀ (s : State) (clk id w : Nat) (v : Inst), s.turn = .issue clk id → s.inst? id = some v → s.fetch v = some w →
    (lessonCauses v.hdr v.pc w ≠ [] ∨ staticCauses w ≠ []) → step s = exec (.illegalInstruction (BitVec.ofNat 64 w)) (s.atTurn clk id)) ∧
  (∀ (s : State) (clk id : Nat) (v : Inst), s.turn = .issue clk id → s.inst? id = some v → s.fetch v = none →
    step s = exec .done (s.atTurn clk id)) ∧
  (∀ (s : State) (t : Timed), s.turn = .event t → step s = exec t.ev (s.atEvent t) ∧ s.agenda.head? = some t) ∧
  (∀ s : State, s.turn = .ends → step s = .next s.endOfClk) ∧
  (∀ s : State, s.turn = .idle → step s = .next { s with clk := s.clk + 1 })

/-- Every step keeps memory and scratch in their canonical form, the tables and rows in order, and the stages of committed instances free of
headers. The statements above take parts of this as premises. -/
def Obligations.TidyKept : Prop :=
  ∀ s t : State, Tidy s → step s = .next t → Tidy t

/-- 26 R405, R414, R409; 15 R308; 19 R341: the machine right after reset: its data are in order, the ROM runs and boots next, no context,
partition, launch, instance or segment exists, every ceiling is 0 and no format is chosen. -/
def Obligations.ResetTidy : Prop :=
  Tidy State.reset ∧ State.reset.dev.boot = .rom ∧ State.reset.turn = .event ⟨0, 0, .powerOnBoot⟩ ∧ State.reset.ctxs = [] ∧
  State.reset.parts = [] ∧ State.reset.launches = [] ∧ State.reset.insts = [] ∧ State.reset.segs = [] ∧
  (∀ q, (State.reset.limiter q).ceiling = 0) ∧ State.reset.dev.choice = false ∧ State.reset.dev.debug = .none ∧
  State.reset.dev.power = .active
end

