-- ==== Sys2Proof/Laws/Data.lean ====
section
/-!
SUPPORT. Laws/Data.lean: data by number and memory: what a read gives after a write, and that every memory operation keeps the
canonical form (log 2).
-/

namespace Sys2Proof.Machine

variable {α : Type}

/-! ## Data by number -/

/-- Setting a number's datum and looking it up gives the datum. -/
@[simp] theorem lookupA_putA_self (m : Assoc α) (k : Nat) (v : α) : lookupA (putA m k v) k = some v := by
  induction m with
  | nil => simp [putA, lookupA]
  | cons a t ih =>
    obtain ⟨j, w⟩ := a
    unfold putA
    split
    · simp [lookupA]
    · split
      · simp [lookupA]
      · next h h' => rw [lookupA, if_neg (by omega)]; exact ih

/-- Setting a number's datum leaves the others alone. -/
theorem lookupA_putA_of_ne (m : Assoc α) (k j : Nat) (v : α) (h : j ≠ k) : lookupA (putA m k v) j = lookupA m j := by
  induction m with
  | nil => simp [putA, lookupA]; omega
  | cons a t ih =>
    obtain ⟨i, w⟩ := a
    unfold putA
    split
    · rw [lookupA, if_neg (by omega)]
    · split
      · next h' => subst h'; rw [lookupA, lookupA, if_neg (by omega), if_neg (by omega)]
      · rw [lookupA, lookupA]; split
        · rfl
        · exact ih

/-- What a lookup gives after a datum is set. -/
theorem lookupA_putA (m : Assoc α) (k j : Nat) (v : α) :
    lookupA (putA m k v) j = if j = k then some v else lookupA m j := by
  split
  · next h => subst h; exact lookupA_putA_self ..
  · next h => exact lookupA_putA_of_ne _ _ _ _ h

/-- Of two data set for one number the later stands. -/
@[simp] theorem putA_putA (m : Assoc α) (k : Nat) (v w : α) : putA (putA m k v) k w = putA m k w := by
  induction m with
  | nil => simp [putA]
  | cons a t ih =>
    obtain ⟨j, x⟩ := a
    by_cases h : k < j
    · simp [putA, h]
    · by_cases h' : k = j
      · simp [putA, h']
      · simp [putA, h, h', ih]

/-- What a lookup gives after a number is dropped. -/
theorem lookupA_delA (m : Assoc α) (k j : Nat) : lookupA (delA m k) j = if j = k then none else lookupA m j := by
  induction m with
  | nil => simp [delA, lookupA]
  | cons a t ih =>
    obtain ⟨i, w⟩ := a
    by_cases hi : i = k
    · subst hi
      rw [delA, if_pos rfl, ih]
      by_cases hj : j = i
      · simp [hj]
      · rw [if_neg hj, if_neg hj, lookupA, if_neg (fun h => hj h.symm)]
    · rw [delA, if_neg hi, lookupA, lookupA]
      by_cases hj : i = j
      · subst hj; simp [hi]
      · rw [if_neg hj, if_neg hj, ih]

/-- A dropped number is not there. -/
@[simp] theorem lookupA_delA_self (m : Assoc α) (k : Nat) : lookupA (delA m k) k = none := by simp [lookupA_delA]

/-- What reading a datum gives after one is set, where the default is not listed. -/
theorem getD_setD [DecidableEq α] (d : α) (m : Assoc α) (k j : Nat) (v : α) :
    getD d (setD d m k v) j = if j = k then v else getD d m j := by
  unfold getD setD
  split
  · next hv => subst hv; rw [lookupA_delA]; split <;> simp
  · rw [lookupA_putA]; split <;> simp

/-- Every number of the rest of a sorted list lies above its first. -/
theorem sortedA_above {a : Nat × α} {t : Assoc α} (h : sortedA (a :: t) = true) : ∀ p ∈ t, a.1 < p.1 := by
  induction t generalizing a with
  | nil => simp
  | cons b t ih =>
    simp only [sortedA, Bool.and_eq_true, decide_eq_true_eq] at h
    intro p hp
    rcases List.mem_cons.mp hp with rfl | hp
    · exact h.1
    · exact lt_trans h.1 (ih h.2 p hp)

/-- The rest of a sorted list is sorted. -/
theorem sortedA_tail {a : Nat × α} {t : Assoc α} (h : sortedA (a :: t) = true) : sortedA t = true := by
  cases t with
  | nil => rfl
  | cons b t => simp only [sortedA, Bool.and_eq_true] at h; exact h.2

/-- A first number below all of a sorted list keeps it sorted. -/
theorem sortedA_cons {a : Nat × α} {t : Assoc α} (h : sortedA t = true) (ha : ∀ p ∈ t, a.1 < p.1) : sortedA (a :: t) = true := by
  cases t with
  | nil => rfl
  | cons b t => simp only [sortedA, Bool.and_eq_true, decide_eq_true_eq]; exact ⟨ha b (List.mem_cons_self ..), h⟩

/-- A number of a list with a datum set is the number set or one of the list's. -/
theorem mem_putA {m : Assoc α} {k : Nat} {v : α} {p : Nat × α} (h : p ∈ putA m k v) : p = (k, v) ∨ p ∈ m := by
  induction m with
  | nil => simpa [putA] using h
  | cons a t ih =>
    obtain ⟨j, w⟩ := a
    unfold putA at h
    split at h
    · rcases List.mem_cons.mp h with h | h
      · exact .inl h
      · exact .inr h
    · split at h
      · rcases List.mem_cons.mp h with h | h
        · exact .inl h
        · exact .inr (List.mem_cons_of_mem _ h)
      · rcases List.mem_cons.mp h with h | h
        · exact .inr (h ▸ List.mem_cons_self ..)
        · rcases ih h with h | h
          · exact .inl h
          · exact .inr (List.mem_cons_of_mem _ h)

/-- A number of a list with one dropped is one of the list's. -/
theorem mem_delA {m : Assoc α} {k : Nat} {p : Nat × α} (h : p ∈ delA m k) : p ∈ m := by
  induction m with
  | nil => exact h
  | cons a t ih =>
    obtain ⟨j, w⟩ := a
    unfold delA at h
    split at h
    · exact List.mem_cons_of_mem _ (ih h)
    · rcases List.mem_cons.mp h with h | h
      · exact h ▸ List.mem_cons_self ..
      · exact List.mem_cons_of_mem _ (ih h)

/-- Setting a datum keeps the rising order. -/
theorem sortedA_putA {m : Assoc α} (h : sortedA m = true) (k : Nat) (v : α) : sortedA (putA m k v) = true := by
  induction m with
  | nil => rfl
  | cons a t ih =>
    obtain ⟨j, w⟩ := a
    unfold putA
    split
    · next hk =>
      refine sortedA_cons h fun p hp => ?_
      rcases List.mem_cons.mp hp with rfl | hp
      · exact hk
      · exact lt_trans hk (sortedA_above h p hp)
    · split
      · next hk => subst hk; exact sortedA_cons (sortedA_tail h) fun p hp => sortedA_above (a := (k, w)) h p hp
      · next hk hk' =>
        refine sortedA_cons (ih (sortedA_tail h)) fun p hp => ?_
        rcases mem_putA hp with rfl | hp
        · show j < k; omega
        · exact sortedA_above h p hp

/-- Dropping a number keeps the rising order. -/
theorem sortedA_delA {m : Assoc α} (h : sortedA m = true) (k : Nat) : sortedA (delA m k) = true := by
  induction m with
  | nil => rfl
  | cons a t ih =>
    obtain ⟨j, w⟩ := a
    unfold delA
    split
    · exact ih (sortedA_tail h)
    · exact sortedA_cons (ih (sortedA_tail h)) fun p hp => sortedA_above h p (mem_delA hp)

/-- Keeping some of a sorted list keeps the rising order. -/
theorem sortedA_filter {m : Assoc α} (h : sortedA m = true) (f : Nat × α → Bool) : sortedA (m.filter f) = true := by
  induction m with
  | nil => rfl
  | cons a t ih =>
    rw [List.filter_cons]
    split
    · exact sortedA_cons (ih (sortedA_tail h)) fun p hp => sortedA_above h p (List.mem_filter.mp hp).1
    · exact ih (sortedA_tail h)

/-! ## Memory -/

/-- A byte reads as what was last written to its address. -/
theorem readByte_writeByte (m : Memory) (a b : Nat) (v : Byte) :
    readByte (writeByte m a v) b = if b = a then v else readByte m b := getD_setD ..

/-- Writing a byte keeps the canonical form. -/
theorem writeByte_wf {m : Memory} (h : Memory.wf m = true) (a : Nat) (v : Byte) : Memory.wf (writeByte m a v) = true := by
  simp only [Memory.wf, Bool.and_eq_true, List.all_eq_true, decide_eq_true_eq] at h ⊢
  unfold writeByte setD
  split
  · exact ⟨sortedA_delA h.1 a, fun p hp => h.2 p (mem_delA hp)⟩
  · next hv =>
    refine ⟨sortedA_putA h.1 a v, fun p hp => ?_⟩
    rcases mem_putA hp with rfl | hp
    · exact hv
    · exact h.2 p hp

/-- Writing bytes keeps the canonical form. -/
theorem writeBytes_wf {m : Memory} (h : Memory.wf m = true) (a : Nat) (bs : List Byte) : Memory.wf (writeBytes m a bs) = true := by
  induction bs generalizing m a with
  | nil => exact h
  | cons b bs ih => exact ih (writeByte_wf h a b) (a + 1)

/-- Writing a number keeps the canonical form. -/
theorem writeNat_wf {m : Memory} (h : Memory.wf m = true) (a n v : Nat) : Memory.wf (writeNat m a n v) = true :=
  writeBytes_wf h a _

/-- Writing words keeps the canonical form. -/
theorem writeWords_wf {m : Memory} (h : Memory.wf m = true) (a : Nat) (ws : List Word) : Memory.wf (writeWords m a ws) = true := by
  induction ws generalizing m a with
  | nil => exact h
  | cons w ws ih => exact ih (writeNat_wf h a 8 _) (a + 8)

/-- Keeping some bytes keeps the canonical form. -/
theorem filter_wf {m : Memory} (h : Memory.wf m = true) (f : Host.Cell → Bool) : Memory.wf (m.filter f) = true := by
  simp only [Memory.wf, Bool.and_eq_true, List.all_eq_true, decide_eq_true_eq] at h ⊢
  exact ⟨sortedA_filter h.1 f, fun p hp => h.2 p (List.mem_filter.mp hp).1⟩

/-- Bytes outside those written read as before; those written read as written. -/
theorem readByte_writeBytes (m : Memory) (a b : Nat) (bs : List Byte) :
    readByte (writeBytes m a bs) b = if a ≤ b ∧ b < a + bs.length then bs.getD (b - a) 0#8 else readByte m b := by
  induction bs generalizing m a with
  | nil => rw [writeBytes, if_neg (by simp)]
  | cons x bs ih =>
    rw [writeBytes, ih, readByte_writeByte]
    by_cases h1 : a + 1 ≤ b ∧ b < a + 1 + bs.length
    · rw [if_pos h1, if_pos (by simp; omega)]
      obtain ⟨k, hk⟩ : ∃ k, b - a = k + 1 := ⟨b - a - 1, by omega⟩
      rw [hk, show b - (a + 1) = k by omega]; simp
    · rw [if_neg h1]
      by_cases h2 : b = a
      · subst h2; simp
      · rw [if_neg h2, if_neg (by simp; omega)]

/-- The memory right after reset has the canonical form. -/
theorem reset_memory_wf : Memory.wf State.reset.mem = true ∧ Memory.wf State.reset.scr = true := by decide

end Sys2Proof.Machine
end

