-- ==== Sys2Proof/Laws/Dispatch.lean ====
section
/-!
SUPPORT. Laws/Dispatch.lean: the dispatcher, one equation per constructor.
-/

namespace Sys2Proof.Machine

@[simp] theorem exec_add (f : RForm) (s : State) : exec (.add f) s = execAdd f s := rfl
@[simp] theorem exec_sub (f : RForm) (s : State) : exec (.sub f) s = execSub f s := rfl
@[simp] theorem exec_mul (f : RForm) (s : State) : exec (.mul f) s = execMul f s := rfl
@[simp] theorem exec_mulh (f : RForm) (s : State) : exec (.mulh f) s = execMulh f s := rfl
@[simp] theorem exec_div (f : RForm) (s : State) : exec (.div f) s = execDiv f s := rfl
@[simp] theorem exec_rem (f : RForm) (s : State) : exec (.rem f) s = execRem f s := rfl
@[simp] theorem exec_and (f : RForm) (s : State) : exec (.and f) s = execAnd f s := rfl
@[simp] theorem exec_or (f : RForm) (s : State) : exec (.or f) s = execOr f s := rfl
@[simp] theorem exec_xor (f : RForm) (s : State) : exec (.xor f) s = execXor f s := rfl
@[simp] theorem exec_shl (f : RForm) (s : State) : exec (.shl f) s = execShl f s := rfl
@[simp] theorem exec_shr (f : RForm) (s : State) : exec (.shr f) s = execShr f s := rfl
@[simp] theorem exec_cmpset (f : RForm) (s : State) : exec (.cmpset f) s = execCmpset f s := rfl
@[simp] theorem exec_sel (f : RForm) (s : State) : exec (.sel f) s = execSel f s := rfl
@[simp] theorem exec_min (f : RForm) (s : State) : exec (.min f) s = execMin f s := rfl
@[simp] theorem exec_max (f : RForm) (s : State) : exec (.max f) s = execMax f s := rfl
@[simp] theorem exec_adda (f : RForm) (s : State) : exec (.adda f) s = execAdda f s := rfl
@[simp] theorem exec_addi (f : IForm) (s : State) : exec (.addi f) s = execAddi f s := rfl
@[simp] theorem exec_muli (f : IForm) (s : State) : exec (.muli f) s = execMuli f s := rfl
@[simp] theorem exec_li (f : IForm) (s : State) : exec (.li f) s = execLi f s := rfl
@[simp] theorem exec_lih (f : IForm) (s : State) : exec (.lih f) s = execLih f s := rfl
@[simp] theorem exec_andi (f : IForm) (s : State) : exec (.andi f) s = execAndi f s := rfl
@[simp] theorem exec_ori (f : IForm) (s : State) : exec (.ori f) s = execOri f s := rfl
@[simp] theorem exec_xori (f : IForm) (s : State) : exec (.xori f) s = execXori f s := rfl
@[simp] theorem exec_shli (f : IForm) (s : State) : exec (.shli f) s = execShli f s := rfl
@[simp] theorem exec_shri (f : IForm) (s : State) : exec (.shri f) s = execShri f s := rfl
@[simp] theorem exec_cmpseti (f : IForm) (s : State) : exec (.cmpseti f) s = execCmpseti f s := rfl
@[simp] theorem exec_rdsr (f : IForm) (s : State) : exec (.rdsr f) s = execRdsr f s := rfl
@[simp] theorem exec_mini (f : IForm) (s : State) : exec (.mini f) s = execMini f s := rfl
@[simp] theorem exec_maxi (f : IForm) (s : State) : exec (.maxi f) s = execMaxi f s := rfl
@[simp] theorem exec_addai (f : IForm) (s : State) : exec (.addai f) s = execAddai f s := rfl
@[simp] theorem exec_b (f : LForm) (s : State) : exec (.b f) s = execB f s := rfl
@[simp] theorem exec_j (f : LForm) (s : State) : exec (.j f) s = execJ f s := rfl
@[simp] theorem exec_loop (f : LForm) (s : State) : exec (.loop f) s = execLoop f s := rfl
@[simp] theorem exec_lexit (f : LForm) (s : State) : exec (.lexit f) s = execLexit f s := rfl
@[simp] theorem exec_wfill (f : IForm) (s : State) : exec (.wfill f) s = execWfill f s := rfl
@[simp] theorem exec_wfree (f : IForm) (s : State) : exec (.wfree f) s = execWfree f s := rfl
@[simp] theorem exec_rdlc (f : RForm) (s : State) : exec (.rdlc f) s = execRdlc f s := rfl
@[simp] theorem exec_kand (f : RForm) (s : State) : exec (.kand f) s = execKand f s := rfl
@[simp] theorem exec_kor (f : RForm) (s : State) : exec (.kor f) s = execKor f s := rfl
@[simp] theorem exec_kxor (f : RForm) (s : State) : exec (.kxor f) s = execKxor f s := rfl
@[simp] theorem exec_knot (f : RForm) (s : State) : exec (.knot f) s = execKnot f s := rfl
@[simp] theorem exec_kmov (f : RForm) (s : State) : exec (.kmov f) s = execKmov f s := rfl
@[simp] theorem exec_kread (f : RForm) (s : State) : exec (.kread f) s = execKread f s := rfl
@[simp] theorem exec_kpop (f : RForm) (s : State) : exec (.kpop f) s = execKpop f s := rfl
@[simp] theorem exec_kfirst (f : RForm) (s : State) : exec (.kfirst f) s = execKfirst f s := rfl
@[simp] theorem exec_vadd (f : RForm) (s : State) : exec (.vadd f) s = execVadd f s := rfl
@[simp] theorem exec_vsub (f : RForm) (s : State) : exec (.vsub f) s = execVsub f s := rfl
@[simp] theorem exec_vmul (f : RForm) (s : State) : exec (.vmul f) s = execVmul f s := rfl
@[simp] theorem exec_vfma (f : RForm) (s : State) : exec (.vfma f) s = execVfma f s := rfl
@[simp] theorem exec_vfms (f : RForm) (s : State) : exec (.vfms f) s = execVfms f s := rfl
@[simp] theorem exec_vfnma (f : RForm) (s : State) : exec (.vfnma f) s = execVfnma f s := rfl
@[simp] theorem exec_vmin (f : RForm) (s : State) : exec (.vmin f) s = execVmin f s := rfl
@[simp] theorem exec_vmax (f : RForm) (s : State) : exec (.vmax f) s = execVmax f s := rfl
@[simp] theorem exec_vabs (f : RForm) (s : State) : exec (.vabs f) s = execVabs f s := rfl
@[simp] theorem exec_vneg (f : RForm) (s : State) : exec (.vneg f) s = execVneg f s := rfl
@[simp] theorem exec_vand (f : RForm) (s : State) : exec (.vand f) s = execVand f s := rfl
@[simp] theorem exec_vor (f : RForm) (s : State) : exec (.vor f) s = execVor f s := rfl
@[simp] theorem exec_vxor (f : RForm) (s : State) : exec (.vxor f) s = execVxor f s := rfl
@[simp] theorem exec_vshl (f : RForm) (s : State) : exec (.vshl f) s = execVshl f s := rfl
@[simp] theorem exec_vshr (f : RForm) (s : State) : exec (.vshr f) s = execVshr f s := rfl
@[simp] theorem exec_vclamp (f : RForm) (s : State) : exec (.vclamp f) s = execVclamp f s := rfl
@[simp] theorem exec_vcmp (f : RForm) (s : State) : exec (.vcmp f) s = execVcmp f s := rfl
@[simp] theorem exec_vsel (f : RForm) (s : State) : exec (.vsel f) s = execVsel f s := rfl
@[simp] theorem exec_vshuf (f : RForm) (s : State) : exec (.vshuf f) s = execVshuf f s := rfl
@[simp] theorem exec_vperm (f : RForm) (s : State) : exec (.vperm f) s = execVperm f s := rfl
@[simp] theorem exec_vbcast (f : RForm) (s : State) : exec (.vbcast f) s = execVbcast f s := rfl
@[simp] theorem exec_vbcasti (f : IForm) (s : State) : exec (.vbcasti f) s = execVbcasti f s := rfl
@[simp] theorem exec_vlane (f : RForm) (s : State) : exec (.vlane f) s = execVlane f s := rfl
@[simp] theorem exec_vins (f : RForm) (s : State) : exec (.vins f) s = execVins f s := rfl
@[simp] theorem exec_vred (f : RForm) (s : State) : exec (.vred f) s = execVred f s := rfl
@[simp] theorem exec_vmov (f : RForm) (s : State) : exec (.vmov f) s = execVmov f s := rfl
@[simp] theorem exec_vsetvalid (f : RForm) (s : State) : exec (.vsetvalid f) s = execVsetvalid f s := rfl
@[simp] theorem exec_vgetvalid (f : RForm) (s : State) : exec (.vgetvalid f) s = execVgetvalid f s := rfl
@[simp] theorem exec_vcvt (f : RForm) (s : State) : exec (.vcvt f) s = execVcvt f s := rfl
@[simp] theorem exec_vexp2 (f : RForm) (s : State) : exec (.vexp2 f) s = execVexp2 f s := rfl
@[simp] theorem exec_vlog2 (f : RForm) (s : State) : exec (.vlog2 f) s = execVlog2 f s := rfl
@[simp] theorem exec_vrcp (f : RForm) (s : State) : exec (.vrcp f) s = execVrcp f s := rfl
@[simp] theorem exec_vrsqrt (f : RForm) (s : State) : exec (.vrsqrt f) s = execVrsqrt f s := rfl
@[simp] theorem exec_vsigm (f : RForm) (s : State) : exec (.vsigm f) s = execVsigm f s := rfl
@[simp] theorem exec_vtanh (f : RForm) (s : State) : exec (.vtanh f) s = execVtanh f s := rfl
@[simp] theorem exec_vsoftp (f : RForm) (s : State) : exec (.vsoftp f) s = execVsoftp f s := rfl
@[simp] theorem exec_vpack (f : RForm) (s : State) : exec (.vpack f) s = execVpack f s := rfl
@[simp] theorem exec_vunpack (f : RForm) (s : State) : exec (.vunpack f) s = execVunpack f s := rfl
@[simp] theorem exec_wld (f : RForm) (s : State) : exec (.wld f) s = execWld f s := rfl
@[simp] theorem exec_wcmp (f : RForm) (s : State) : exec (.wcmp f) s = execWcmp f s := rfl
@[simp] theorem exec_thdr (f : RForm) (s : State) : exec (.thdr f) s = execThdr f s := rfl
@[simp] theorem exec_mma (f : RForm) (s : State) : exec (.mma f) s = execMma f s := rfl
@[simp] theorem exec_mmaAccumulatorReady (inst acc : Nat) (s : State) : exec (.mmaAccumulatorReady inst acc) s = execMmaAccumulatorReady inst acc s := rfl
@[simp] theorem exec_gangon (f : RForm) (s : State) : exec (.gangon f) s = execGangon f s := rfl
@[simp] theorem exec_accrd (f : RForm) (s : State) : exec (.accrd f) s = execAccrd f s := rfl
@[simp] theorem exec_accwr (f : RForm) (s : State) : exec (.accwr f) s = execAccwr f s := rfl
@[simp] theorem exec_acczero (f : RForm) (s : State) : exec (.acczero f) s = execAcczero f s := rfl
@[simp] theorem exec_acccvt (f : RForm) (s : State) : exec (.acccvt f) s = execAcccvt f s := rfl
@[simp] theorem exec_quant (f : RForm) (s : State) : exec (.quant f) s = execQuant f s := rfl
@[simp] theorem exec_quantb (f : RForm) (s : State) : exec (.quantb f) s = execQuantb f s := rfl
@[simp] theorem exec_tew (f : RForm) (s : State) : exec (.tew f) s = execTew f s := rfl
@[simp] theorem exec_settle (f : RForm) (s : State) : exec (.settle f) s = execSettle f s := rfl
@[simp] theorem exec_talloc (f : RForm) (s : State) : exec (.talloc f) s = execTalloc f s := rfl
@[simp] theorem exec_tfree (f : RForm) (s : State) : exec (.tfree f) s = execTfree f s := rfl
@[simp] theorem exec_sred (f : QForm) (s : State) : exec (.sred f) s = execSred f s := rfl
@[simp] theorem exec_sscan (f : QForm) (s : State) : exec (.sscan f) s = execSscan f s := rfl
@[simp] theorem exec_scav (f : QForm) (s : State) : exec (.scav f) s = execScav f s := rfl
@[simp] theorem exec_sbcast (f : QForm) (s : State) : exec (.sbcast f) s = execSbcast f s := rfl
@[simp] theorem exec_srank (f : QForm) (s : State) : exec (.srank f) s = execSrank f s := rfl
@[simp] theorem exec_sweepResult (seg k : Nat) (s : State) : exec (.sweepResult seg k) s = execSweepResult seg k s := rfl
@[simp] theorem exec_fwd (f : QForm) (s : State) : exec (.fwd f) s = execFwd f s := rfl
@[simp] theorem exec_rcv (f : QForm) (s : State) : exec (.rcv f) s = execRcv f s := rfl
@[simp] theorem exec_neighbourArrival (inst : Nat) (fromLeft : Bool) (v : VecVal) (s : State) : exec (.neighbourArrival inst fromLeft v) s = execNeighbourArrival inst fromLeft v s := rfl
@[simp] theorem exec_need (f : RForm) (s : State) : exec (.need f) s = execNeed f s := rfl
@[simp] theorem exec_needSweepComplete (seg : Nat) (s : State) : exec (.needSweepComplete seg) s = execNeedSweepComplete seg s := rfl
@[simp] theorem exec_emit (f : RForm) (s : State) : exec (.emit f) s = execEmit f s := rfl
@[simp] theorem exec_symrd (f : RForm) (s : State) : exec (.symrd f) s = execSymrd f s := rfl
@[simp] theorem exec_symbld (f : RForm) (s : State) : exec (.symbld f) s = execSymbld f s := rfl
@[simp] theorem exec_symget (f : RForm) (s : State) : exec (.symget f) s = execSymget f s := rfl
@[simp] theorem exec_unfold (f : RForm) (s : State) : exec (.unfold f) s = execUnfold f s := rfl
@[simp] theorem exec_unfoldRequestArrival (inst q a : Nat) (s : State) : exec (.unfoldRequestArrival inst q a) s = execUnfoldRequestArrival inst q a s := rfl
@[simp] theorem exec_park (f : RForm) (s : State) : exec (.park f) s = execPark f s := rfl
@[simp] theorem exec_fetch (f : RForm) (s : State) : exec (.fetch f) s = execFetch f s := rfl
@[simp] theorem exec_vld (f : MForm) (s : State) : exec (.vld f) s = execVld f s := rfl
@[simp] theorem exec_vst (f : MForm) (s : State) : exec (.vst f) s = execVst f s := rfl
@[simp] theorem exec_sld (f : MForm) (s : State) : exec (.sld f) s = execSld f s := rfl
@[simp] theorem exec_sst (f : MForm) (s : State) : exec (.sst f) s = execSst f s := rfl
@[simp] theorem exec_vgath (f : RForm) (s : State) : exec (.vgath f) s = execVgath f s := rfl
@[simp] theorem exec_vscat (f : RForm) (s : State) : exec (.vscat f) s = execVscat f s := rfl
@[simp] theorem exec_rpush (f : IForm) (s : State) : exec (.rpush f) s = execRpush f s := rfl
@[simp] theorem exec_rpop (f : IForm) (s : State) : exec (.rpop f) s = execRpop f s := rfl
@[simp] theorem exec_ratom (f : MForm) (s : State) : exec (.ratom f) s = execRatom f s := rfl
@[simp] theorem exec_tld (f : RForm) (s : State) : exec (.tld f) s = execTld f s := rfl
@[simp] theorem exec_rinit (f : IForm) (s : State) : exec (.rinit f) s = execRinit f s := rfl
@[simp] theorem exec_copy (f : MForm) (s : State) : exec (.copy f) s = execCopy f s := rfl
@[simp] theorem exec_copyred (f : MForm) (s : State) : exec (.copyred f) s = execCopyred f s := rfl
@[simp] theorem exec_pref (f : MForm) (s : State) : exec (.pref f) s = execPref f s := rfl
@[simp] theorem exec_tsend (f : MForm) (s : State) : exec (.tsend f) s = execTsend f s := rfl
@[simp] theorem exec_ctrset (f : IForm) (s : State) : exec (.ctrset f) s = execCtrset f s := rfl
@[simp] theorem exec_ctradd (f : IForm) (s : State) : exec (.ctradd f) s = execCtradd f s := rfl
@[simp] theorem exec_ctrrd (f : IForm) (s : State) : exec (.ctrrd f) s = execCtrrd f s := rfl
@[simp] theorem exec_ctrwait (f : IForm) (s : State) : exec (.ctrwait f) s = execCtrwait f s := rfl
@[simp] theorem exec_smark (f : IForm) (s : State) : exec (.smark f) s = execSmark f s := rfl
@[simp] theorem exec_fence (f : ZForm) (s : State) : exec (.fence f) s = execFence f s := rfl
@[simp] theorem exec_fld (f : MForm) (s : State) : exec (.fld f) s = execFld f s := rfl
@[simp] theorem exec_farReadReply (req : Nat) (s : State) : exec (.farReadReply req) s = execFarReadReply req s := rfl
@[simp] theorem exec_fst (f : MForm) (s : State) : exec (.fst f) s = execFst f s := rfl
@[simp] theorem exec_aadd (f : MForm) (s : State) : exec (.aadd f) s = execAadd f s := rfl
@[simp] theorem exec_amin (f : MForm) (s : State) : exec (.amin f) s = execAmin f s := rfl
@[simp] theorem exec_amax (f : MForm) (s : State) : exec (.amax f) s = execAmax f s := rfl
@[simp] theorem exec_axchg (f : MForm) (s : State) : exec (.axchg f) s = execAxchg f s := rfl
@[simp] theorem exec_acas (f : MForm) (s : State) : exec (.acas f) s = execAcas f s := rfl
@[simp] theorem exec_aand (f : MForm) (s : State) : exec (.aand f) s = execAand f s := rfl
@[simp] theorem exec_aor (f : MForm) (s : State) : exec (.aor f) s = execAor f s := rfl
@[simp] theorem exec_pacq (f : IForm) (s : State) : exec (.pacq f) s = execPacq f s := rfl
@[simp] theorem exec_prel (f : IForm) (s : State) : exec (.prel f) s = execPrel f s := rfl
@[simp] theorem exec_bell (f : IForm) (s : State) : exec (.bell f) s = execBell f s := rfl
@[simp] theorem exec_scld (f : MForm) (s : State) : exec (.scld f) s = execScld f s := rfl
@[simp] theorem exec_scst (f : MForm) (s : State) : exec (.scst f) s = execScst f s := rfl
@[simp] theorem exec_scrmw (f : MForm) (s : State) : exec (.scrmw f) s = execScrmw f s := rfl
@[simp] theorem exec_pqry (f : IForm) (s : State) : exec (.pqry f) s = execPqry f s := rfl
@[simp] theorem exec_syncOpPerformed (op : Nat) (s : State) : exec (.syncOpPerformed op) s = execSyncOpPerformed op s := rfl
@[simp] theorem exec_syncReply (op : Nat) (s : State) : exec (.syncReply op) s = execSyncReply op s := rfl
@[simp] theorem exec_bellComplete (bell : Nat) (s : State) : exec (.bellComplete bell) s = execBellComplete bell s := rfl
@[simp] theorem exec_passHandoff (ctx pass : Nat) (s : State) : exec (.passHandoff ctx pass) s = execPassHandoff ctx pass s := rfl
@[simp] theorem exec_batonHop (engine : Nat) (s : State) : exec (.batonHop engine) s = execBatonHop engine s := rfl
@[simp] theorem exec_logmark (f : RForm) (s : State) : exec (.logmark f) s = execLogmark f s := rfl
@[simp] theorem exec_gacc (f : RForm) (s : State) : exec (.gacc f) s = execGacc f s := rfl
@[simp] theorem exec_opsave (f : RForm) (s : State) : exec (.opsave f) s = execOpsave f s := rfl
@[simp] theorem exec_oprecomp (f : RForm) (s : State) : exec (.oprecomp f) s = execOprecomp f s := rfl
@[simp] theorem exec_logrd (f : RForm) (s : State) : exec (.logrd f) s = execLogrd f s := rfl
@[simp] theorem exec_recq (f : RForm) (s : State) : exec (.recq f) s = execRecq f s := rfl
@[simp] theorem exec_trap (f : ZForm) (s : State) : exec (.trap f) s = execTrap f s := rfl
@[simp] theorem exec_syscall (f : ZForm) (s : State) : exec (.syscall f) s = execSyscall f s := rfl
@[simp] theorem exec_cfgrd (f : ZForm) (s : State) : exec (.cfgrd f) s = execCfgrd f s := rfl
@[simp] theorem exec_cfgwr (f : ZForm) (s : State) : exec (.cfgwr f) s = execCfgwr f s := rfl
@[simp] theorem exec_brk (f : ZForm) (s : State) : exec (.brk f) s = execBrk f s := rfl
@[simp] theorem exec_pcrd (f : ZForm) (s : State) : exec (.pcrd f) s = execPcrd f s := rfl
@[simp] theorem exec_qpush (f : ZForm) (s : State) : exec (.qpush f) s = execQpush f s := rfl
@[simp] theorem exec_qpop (f : ZForm) (s : State) : exec (.qpop f) s = execQpop f s := rfl
@[simp] theorem exec_queueOpArrival (op : Nat) (s : State) : exec (.queueOpArrival op) s = execQueueOpArrival op s := rfl
@[simp] theorem exec_sleep (f : ZForm) (s : State) : exec (.sleep f) s = execSleep f s := rfl
@[simp] theorem exec_evsig (f : ZForm) (s : State) : exec (.evsig f) s = execEvsig f s := rfl
@[simp] theorem exec_rdclk (f : ZForm) (s : State) : exec (.rdclk f) s = execRdclk f s := rfl
@[simp] theorem exec_debugResume (inst : Nat) (s : State) : exec (.debugResume inst) s = execDebugResume inst s := rfl
@[simp] theorem exec_discoverySweep (slot : Nat) (s : State) : exec (.discoverySweep slot) s = execDiscoverySweep slot s := rfl
@[simp] theorem exec_shiftWave (slot : Nat) (s : State) : exec (.shiftWave slot) s = execShiftWave slot s := rfl
@[simp] theorem exec_waveComplete (slot : Nat) (s : State) : exec (.waveComplete slot) s = execWaveComplete slot s := rfl
@[simp] theorem exec_expressionPlaced (launch : Nat) (s : State) : exec (.expressionPlaced launch) s = execExpressionPlaced launch s := rfl
@[simp] theorem exec_parkWriteComplete (slot : Nat) (s : State) : exec (.parkWriteComplete slot) s = execParkWriteComplete slot s := rfl
@[simp] theorem exec_unparkComplete (slot : Nat) (s : State) : exec (.unparkComplete slot) s = execUnparkComplete slot s := rfl
@[simp] theorem exec_tidyCopyComplete (slot : Nat) (s : State) : exec (.tidyCopyComplete slot) s = execTidyCopyComplete slot s := rfl
@[simp] theorem exec_lessonImageReceived (seg seat : Nat) (s : State) : exec (.lessonImageReceived seg seat) s = execLessonImageReceived seg seat s := rfl
@[simp] theorem exec_loadReportsCollected (seg : Nat) (s : State) : exec (.loadReportsCollected seg) s = execLoadReportsCollected seg s := rfl
@[simp] theorem exec_switchBeat (seg : Nat) (s : State) : exec (.switchBeat seg) s = execSwitchBeat seg s := rfl
@[simp] theorem exec_segmentCommit (seg : Nat) (s : State) : exec (.segmentCommit seg) s = execSegmentCommit seg s := rfl
@[simp] theorem exec_commitComplete (seg : Nat) (s : State) : exec (.commitComplete seg) s = execCommitComplete seg s := rfl
@[simp] theorem exec_completionRecordWrite (launch : Nat) (s : State) : exec (.completionRecordWrite launch) s = execCompletionRecordWrite launch s := rfl
@[simp] theorem exec_copyStart (quarter engine : Nat) (s : State) : exec (.copyStart quarter engine) s = execCopyStart quarter engine s := rfl
@[simp] theorem exec_ringFillEntry (cmd : Nat) (s : State) : exec (.ringFillEntry cmd) s = execRingFillEntry cmd s := rfl
@[simp] theorem exec_farWritePerformed (w : Nat) (s : State) : exec (.farWritePerformed w) s = execFarWritePerformed w s := rfl
@[simp] theorem exec_copyComplete (cmd : Nat) (s : State) : exec (.copyComplete cmd) s = execCopyComplete cmd s := rfl
@[simp] theorem exec_counterIncrement (ctx counter : Nat) (s : State) : exec (.counterIncrement ctx counter) s = execCounterIncrement ctx counter s := rfl
@[simp] theorem exec_counterUpdateApplied (ctx counter : Nat) (set : Bool) (value : Lane) (s : State) : exec (.counterUpdateApplied ctx counter set value) s = execCounterUpdateApplied ctx counter set value s := rfl
@[simp] theorem exec_peerWriteArrival (w : PeerWrite) (s : State) : exec (.peerWriteArrival w) s = execPeerWriteArrival w s := rfl
@[simp] theorem exec_agentAppend (ctx queue : Nat) (rec : List Word) (s : State) : exec (.agentAppend ctx queue rec) s = execAgentAppend ctx queue rec s := rfl
@[simp] theorem exec_preemptDecision (slot : Nat) (s : State) : exec (.preemptDecision slot) s = execPreemptDecision slot s := rfl
@[simp] theorem exec_turnExpiry (slot : Nat) (s : State) : exec (.turnExpiry slot) s = execTurnExpiry slot s := rfl
@[simp] theorem exec_preemptionTimeout (slot began : Nat) (s : State) : exec (.preemptionTimeout slot began) s = execPreemptionTimeout slot began s := rfl
@[simp] theorem exec_waitTimeout (inst began : Nat) (s : State) : exec (.waitTimeout inst began) s = execWaitTimeout inst began s := rfl
@[simp] theorem exec_rollCallWave (slot : Nat) (s : State) : exec (.rollCallWave slot) s = execRollCallWave slot s := rfl
@[simp] theorem exec_contextSwitchComplete (slot : Nat) (s : State) : exec (.contextSwitchComplete slot) s = execContextSwitchComplete slot s := rfl
@[simp] theorem exec_limiterStep (quarter : Nat) (s : State) : exec (.limiterStep quarter) s = execLimiterStep quarter s := rfl
@[simp] theorem exec_queuePush (slot queue : Nat) (rec : List Word) (s : State) : exec (.queuePush slot queue rec) s = execQueuePush slot queue rec s := rfl
@[simp] theorem exec_virtualQueuePush (slot queue : Nat) (rec : List Word) (s : State) : exec (.virtualQueuePush slot queue rec) s = execVirtualQueuePush slot queue rec s := rfl
@[simp] theorem exec_spillBaseWrite (slot queue : Nat) (value : Word) (s : State) : exec (.spillBaseWrite slot queue value) s = execSpillBaseWrite slot queue value s := rfl
@[simp] theorem exec_spillSizeWrite (slot queue : Nat) (value : Word) (s : State) : exec (.spillSizeWrite slot queue value) s = execSpillSizeWrite slot queue value s := rfl
@[simp] theorem exec_recordAtHead (slot queue : Nat) (s : State) : exec (.recordAtHead slot queue) s = execRecordAtHead slot queue s := rfl
@[simp] theorem exec_dependenceEntry (launch : Nat) (s : State) : exec (.dependenceEntry launch) s = execDependenceEntry launch s := rfl
@[simp] theorem exec_leaseSetupComplete (launch : Nat) (s : State) : exec (.leaseSetupComplete launch) s = execLeaseSetupComplete launch s := rfl
@[simp] theorem exec_pageRewalk (launch : Nat) (s : State) : exec (.pageRewalk launch) s = execPageRewalk launch s := rfl
@[simp] theorem exec_leaseTimeout (launch : Nat) (s : State) : exec (.leaseTimeout launch) s = execLeaseTimeout launch s := rfl
@[simp] theorem exec_contextBlockAddressWrite (ctx : Nat) (value : Word) (s : State) : exec (.contextBlockAddressWrite ctx value) s = execContextBlockAddressWrite ctx value s := rfl
@[simp] theorem exec_create (ctx : Nat) (s : State) : exec (.create ctx) s = execCreate ctx s := rfl
@[simp] theorem exec_destroy (ctx : Nat) (s : State) : exec (.destroy ctx) s = execDestroy ctx s := rfl
@[simp] theorem exec_resetCounters (ctx : Nat) (s : State) : exec (.resetCounters ctx) s = execResetCounters ctx s := rfl
@[simp] theorem exec_cancelSends (ctx : Nat) (s : State) : exec (.cancelSends ctx) s = execCancelSends ctx s := rfl
@[simp] theorem exec_suspend (ctx : Nat) (s : State) : exec (.suspend ctx) s = execSuspend ctx s := rfl
@[simp] theorem exec_resume (ctx : Nat) (s : State) : exec (.resume ctx) s = execResume ctx s := rfl
@[simp] theorem exec_idleGateEntry (slot : Nat) (s : State) : exec (.idleGateEntry slot) s = execIdleGateEntry slot s := rfl
@[simp] theorem exec_powerCapWrite (value : Word) (s : State) : exec (.powerCapWrite value) s = execPowerCapWrite value s := rfl
@[simp] theorem exec_partitionLayoutWrite (value : Word) (s : State) : exec (.partitionLayoutWrite value) s = execPartitionLayoutWrite value s := rfl
@[simp] theorem exec_partitionResetWrite (value : Word) (s : State) : exec (.partitionResetWrite value) s = execPartitionResetWrite value s := rfl
@[simp] theorem exec_formatChoiceWrite (value : Word) (s : State) : exec (.formatChoiceWrite value) s = execFormatChoiceWrite value s := rfl
@[simp] theorem exec_linkTraining (plane : Nat) (s : State) : exec (.linkTraining plane) s = execLinkTraining plane s := rfl
@[simp] theorem exec_forwardedRecord (plane fabric : Nat) (rec : List Word) (s : State) : exec (.forwardedRecord plane fabric rec) s = execForwardedRecord plane fabric rec s := rfl
@[simp] theorem exec_collectiveStepComplete (coll : Nat) (s : State) : exec (.collectiveStepComplete coll) s = execCollectiveStepComplete coll s := rfl
@[simp] theorem exec_collectiveHandshake (coll : Nat) (s : State) : exec (.collectiveHandshake coll) s = execCollectiveHandshake coll s := rfl
@[simp] theorem exec_parkedReply (ctx coll : Nat) (s : State) : exec (.parkedReply ctx coll) s = execParkedReply ctx coll s := rfl
@[simp] theorem exec_switchSlotLoss (coll : Nat) (s : State) : exec (.switchSlotLoss coll) s = execSwitchSlotLoss coll s := rfl
@[simp] theorem exec_memberLostTimeout (coll : Nat) (s : State) : exec (.memberLostTimeout coll) s = execMemberLostTimeout coll s := rfl
@[simp] theorem exec_linkDown (plane : Nat) (s : State) : exec (.linkDown plane) s = execLinkDown plane s := rfl
@[simp] theorem exec_uncorrectableError (store : ErrorStore) (s : State) : exec (.uncorrectableError store) s = execUncorrectableError store s := rfl
@[simp] theorem exec_cxlMemAccess (addr : Nat) (write : Bool) (bytes : List Byte) (s : State) : exec (.cxlMemAccess addr write bytes) s = execCxlMemAccess addr write bytes s := rfl
@[simp] theorem exec_registerWrite (offset : Nat) (value : Word) (s : State) : exec (.registerWrite offset value) s = execRegisterWrite offset value s := rfl
@[simp] theorem exec_illegalInstruction (word : Word) (s : State) : exec (.illegalInstruction word) s = execIllegalInstruction word s := rfl
@[simp] theorem exec_queueReply (op : Nat) (s : State) : exec (.queueReply op) s = execQueueReply op s := rfl
@[simp] theorem exec_copySourceRead (cmd : Nat) (s : State) : exec (.copySourceRead cmd) s = execCopySourceRead cmd s := rfl
@[simp] theorem exec_correctableError (store : ErrorStore) (s : State) : exec (.correctableError store) s = execCorrectableError store s := rfl
@[simp] theorem exec_haltedInstanceRegisterWrite (inst : Nat) (cls : RegClass) (reg : Nat) (value : VecVal) (s : State) : exec (.haltedInstanceRegisterWrite inst cls reg value) s = execHaltedInstanceRegisterWrite inst cls reg value s := rfl
@[simp] theorem exec_done (s : State) : exec (.done) s = execDone s := rfl
@[simp] theorem exec_gangoff (s : State) : exec (.gangoff) s = execGangoff s := rfl
@[simp] theorem exec_commit (s : State) : exec (.commit) s = execCommit s := rfl
@[simp] theorem exec_nop (s : State) : exec (.nop) s = execNop s := rfl
@[simp] theorem exec_capControl (s : State) : exec (.capControl) s = execCapControl s := rfl
@[simp] theorem exec_powerOnBoot (s : State) : exec (.powerOnBoot) s = execPowerOnBoot s := rfl
@[simp] theorem exec_verifyImage (s : State) : exec (.verifyImage) s = execVerifyImage s := rfl
@[simp] theorem exec_writeFlash (s : State) : exec (.writeFlash) s = execWriteFlash s := rfl
@[simp] theorem exec_presentDebugToken (s : State) : exec (.presentDebugToken) s = execPresentDebugToken s := rfl
@[simp] theorem exec_rollbackRaise (s : State) : exec (.rollbackRaise) s = execRollbackRaise s := rfl
@[simp] theorem exec_getVersion (s : State) : exec (.getVersion) s = execGetVersion s := rfl
@[simp] theorem exec_getCapabilities (s : State) : exec (.getCapabilities) s = execGetCapabilities s := rfl
@[simp] theorem exec_negotiateAlgorithms (s : State) : exec (.negotiateAlgorithms) s = execNegotiateAlgorithms s := rfl
@[simp] theorem exec_getDigests (s : State) : exec (.getDigests) s = execGetDigests s := rfl
@[simp] theorem exec_getCertificate (s : State) : exec (.getCertificate) s = execGetCertificate s := rfl
@[simp] theorem exec_challenge (s : State) : exec (.challenge) s = execChallenge s := rfl
@[simp] theorem exec_getMeasurements (s : State) : exec (.getMeasurements) s = execGetMeasurements s := rfl
@[simp] theorem exec_keyExchange (s : State) : exec (.keyExchange) s = execKeyExchange s := rfl
@[simp] theorem exec_identityKeyCreate (s : State) : exec (.identityKeyCreate) s = execIdentityKeyCreate s := rfl
@[simp] theorem exec_deployFuseWrite (s : State) : exec (.deployFuseWrite) s = execDeployFuseWrite s := rfl
@[simp] theorem exec_returnToken (s : State) : exec (.returnToken) s = execReturnToken s := rfl
@[simp] theorem exec_powerActive (s : State) : exec (.powerActive) s = execPowerActive s := rfl
@[simp] theorem exec_powerRetention (s : State) : exec (.powerRetention) s = execPowerRetention s := rfl
@[simp] theorem exec_powerOff (s : State) : exec (.powerOff) s = execPowerOff s := rfl
@[simp] theorem exec_telemetryRefresh (s : State) : exec (.telemetryRefresh) s = execTelemetryRefresh s := rfl

end Sys2Proof.Machine
end

