-- ==== Sys2Proof/Laws/State.lean ====
section
/-!
SUPPORT. Laws/State.lean: what each named update of the state leaves as it was, field by field, and what it reads as afterwards.
-/

namespace Sys2Proof.Machine

/-! ## `State.setInst` -/

@[simp] theorem State.setInst_clk (s : State) (i : Nat) (v : Inst) : (s.setInst i v).clk = s.clk := rfl
@[simp] theorem State.setInst_fresh (s : State) (i : Nat) (v : Inst) : (s.setInst i v).fresh = s.fresh := rfl
@[simp] theorem State.setInst_ids (s : State) (i : Nat) (v : Inst) : (s.setInst i v).ids = s.ids := rfl
@[simp] theorem State.setInst_actor (s : State) (i : Nat) (v : Inst) : (s.setInst i v).actor = s.actor := rfl
@[simp] theorem State.setInst_agenda (s : State) (i : Nat) (v : Inst) : (s.setInst i v).agenda = s.agenda := rfl
@[simp] theorem State.setInst_dev (s : State) (i : Nat) (v : Inst) : (s.setInst i v).dev = s.dev := rfl
@[simp] theorem State.setInst_mem (s : State) (i : Nat) (v : Inst) : (s.setInst i v).mem = s.mem := rfl
@[simp] theorem State.setInst_poison (s : State) (i : Nat) (v : Inst) : (s.setInst i v).poison = s.poison := rfl
@[simp] theorem State.setInst_scr (s : State) (i : Nat) (v : Inst) : (s.setInst i v).scr = s.scr := rfl
@[simp] theorem State.setInst_ctxs (s : State) (i : Nat) (v : Inst) : (s.setInst i v).ctxs = s.ctxs := rfl
@[simp] theorem State.setInst_parts (s : State) (i : Nat) (v : Inst) : (s.setInst i v).parts = s.parts := rfl
@[simp] theorem State.setInst_segs (s : State) (i : Nat) (v : Inst) : (s.setInst i v).segs = s.segs := rfl
@[simp] theorem State.setInst_launches (s : State) (i : Nat) (v : Inst) : (s.setInst i v).launches = s.launches := rfl
@[simp] theorem State.setInst_syncOps (s : State) (i : Nat) (v : Inst) : (s.setInst i v).syncOps = s.syncOps := rfl
@[simp] theorem State.setInst_engineFree (s : State) (i : Nat) (v : Inst) : (s.setInst i v).engineFree = s.engineFree := rfl
@[simp] theorem State.setInst_baton (s : State) (i : Nat) (v : Inst) : (s.setInst i v).baton = s.baton := rfl
@[simp] theorem State.setInst_batonQ (s : State) (i : Nat) (v : Inst) : (s.setInst i v).batonQ = s.batonQ := rfl
@[simp] theorem State.setInst_bells (s : State) (i : Nat) (v : Inst) : (s.setInst i v).bells = s.bells := rfl
@[simp] theorem State.setInst_farWrites (s : State) (i : Nat) (v : Inst) : (s.setInst i v).farWrites = s.farWrites := rfl
@[simp] theorem State.setInst_farReads (s : State) (i : Nat) (v : Inst) : (s.setInst i v).farReads = s.farReads := rfl
@[simp] theorem State.setInst_commands (s : State) (i : Nat) (v : Inst) : (s.setInst i v).commands = s.commands := rfl
@[simp] theorem State.setInst_queueOps (s : State) (i : Nat) (v : Inst) : (s.setInst i v).queueOps = s.queueOps := rfl
@[simp] theorem State.setInst_limiters (s : State) (i : Nat) (v : Inst) : (s.setInst i v).limiters = s.limiters := rfl
@[simp] theorem State.setInst_caches (s : State) (i : Nat) (v : Inst) : (s.setInst i v).caches = s.caches := rfl
@[simp] theorem State.setInst_colls (s : State) (i : Nat) (v : Inst) : (s.setInst i v).colls = s.colls := rfl
@[simp] theorem State.setInst_collCounts (s : State) (i : Nat) (v : Inst) : (s.setInst i v).collCounts = s.collCounts := rfl
@[simp] theorem State.setInst_trapped (s : State) (i : Nat) (v : Inst) : (s.setInst i v).trapped = s.trapped := rfl
@[simp] theorem State.setInst_ending (s : State) (i : Nat) (v : Inst) : (s.setInst i v).ending = s.ending := rfl

/-! ## `State.setCtx` -/

@[simp] theorem State.setCtx_clk (s : State) (c : Nat) (v : Ctx) : (s.setCtx c v).clk = s.clk := rfl
@[simp] theorem State.setCtx_fresh (s : State) (c : Nat) (v : Ctx) : (s.setCtx c v).fresh = s.fresh := rfl
@[simp] theorem State.setCtx_ids (s : State) (c : Nat) (v : Ctx) : (s.setCtx c v).ids = s.ids := rfl
@[simp] theorem State.setCtx_actor (s : State) (c : Nat) (v : Ctx) : (s.setCtx c v).actor = s.actor := rfl
@[simp] theorem State.setCtx_agenda (s : State) (c : Nat) (v : Ctx) : (s.setCtx c v).agenda = s.agenda := rfl
@[simp] theorem State.setCtx_dev (s : State) (c : Nat) (v : Ctx) : (s.setCtx c v).dev = s.dev := rfl
@[simp] theorem State.setCtx_mem (s : State) (c : Nat) (v : Ctx) : (s.setCtx c v).mem = s.mem := rfl
@[simp] theorem State.setCtx_poison (s : State) (c : Nat) (v : Ctx) : (s.setCtx c v).poison = s.poison := rfl
@[simp] theorem State.setCtx_scr (s : State) (c : Nat) (v : Ctx) : (s.setCtx c v).scr = s.scr := rfl
@[simp] theorem State.setCtx_parts (s : State) (c : Nat) (v : Ctx) : (s.setCtx c v).parts = s.parts := rfl
@[simp] theorem State.setCtx_insts (s : State) (c : Nat) (v : Ctx) : (s.setCtx c v).insts = s.insts := rfl
@[simp] theorem State.setCtx_segs (s : State) (c : Nat) (v : Ctx) : (s.setCtx c v).segs = s.segs := rfl
@[simp] theorem State.setCtx_launches (s : State) (c : Nat) (v : Ctx) : (s.setCtx c v).launches = s.launches := rfl
@[simp] theorem State.setCtx_syncOps (s : State) (c : Nat) (v : Ctx) : (s.setCtx c v).syncOps = s.syncOps := rfl
@[simp] theorem State.setCtx_engineFree (s : State) (c : Nat) (v : Ctx) : (s.setCtx c v).engineFree = s.engineFree := rfl
@[simp] theorem State.setCtx_baton (s : State) (c : Nat) (v : Ctx) : (s.setCtx c v).baton = s.baton := rfl
@[simp] theorem State.setCtx_batonQ (s : State) (c : Nat) (v : Ctx) : (s.setCtx c v).batonQ = s.batonQ := rfl
@[simp] theorem State.setCtx_bells (s : State) (c : Nat) (v : Ctx) : (s.setCtx c v).bells = s.bells := rfl
@[simp] theorem State.setCtx_farWrites (s : State) (c : Nat) (v : Ctx) : (s.setCtx c v).farWrites = s.farWrites := rfl
@[simp] theorem State.setCtx_farReads (s : State) (c : Nat) (v : Ctx) : (s.setCtx c v).farReads = s.farReads := rfl
@[simp] theorem State.setCtx_commands (s : State) (c : Nat) (v : Ctx) : (s.setCtx c v).commands = s.commands := rfl
@[simp] theorem State.setCtx_queueOps (s : State) (c : Nat) (v : Ctx) : (s.setCtx c v).queueOps = s.queueOps := rfl
@[simp] theorem State.setCtx_limiters (s : State) (c : Nat) (v : Ctx) : (s.setCtx c v).limiters = s.limiters := rfl
@[simp] theorem State.setCtx_caches (s : State) (c : Nat) (v : Ctx) : (s.setCtx c v).caches = s.caches := rfl
@[simp] theorem State.setCtx_colls (s : State) (c : Nat) (v : Ctx) : (s.setCtx c v).colls = s.colls := rfl
@[simp] theorem State.setCtx_collCounts (s : State) (c : Nat) (v : Ctx) : (s.setCtx c v).collCounts = s.collCounts := rfl
@[simp] theorem State.setCtx_trapped (s : State) (c : Nat) (v : Ctx) : (s.setCtx c v).trapped = s.trapped := rfl
@[simp] theorem State.setCtx_ending (s : State) (c : Nat) (v : Ctx) : (s.setCtx c v).ending = s.ending := rfl

/-! ## `State.modCtx` -/

@[simp] theorem State.modCtx_clk (s : State) (c : Nat) (f : Ctx → Ctx) : (s.modCtx c f).clk = s.clk := rfl
@[simp] theorem State.modCtx_fresh (s : State) (c : Nat) (f : Ctx → Ctx) : (s.modCtx c f).fresh = s.fresh := rfl
@[simp] theorem State.modCtx_ids (s : State) (c : Nat) (f : Ctx → Ctx) : (s.modCtx c f).ids = s.ids := rfl
@[simp] theorem State.modCtx_actor (s : State) (c : Nat) (f : Ctx → Ctx) : (s.modCtx c f).actor = s.actor := rfl
@[simp] theorem State.modCtx_agenda (s : State) (c : Nat) (f : Ctx → Ctx) : (s.modCtx c f).agenda = s.agenda := rfl
@[simp] theorem State.modCtx_dev (s : State) (c : Nat) (f : Ctx → Ctx) : (s.modCtx c f).dev = s.dev := rfl
@[simp] theorem State.modCtx_mem (s : State) (c : Nat) (f : Ctx → Ctx) : (s.modCtx c f).mem = s.mem := rfl
@[simp] theorem State.modCtx_poison (s : State) (c : Nat) (f : Ctx → Ctx) : (s.modCtx c f).poison = s.poison := rfl
@[simp] theorem State.modCtx_scr (s : State) (c : Nat) (f : Ctx → Ctx) : (s.modCtx c f).scr = s.scr := rfl
@[simp] theorem State.modCtx_parts (s : State) (c : Nat) (f : Ctx → Ctx) : (s.modCtx c f).parts = s.parts := rfl
@[simp] theorem State.modCtx_insts (s : State) (c : Nat) (f : Ctx → Ctx) : (s.modCtx c f).insts = s.insts := rfl
@[simp] theorem State.modCtx_segs (s : State) (c : Nat) (f : Ctx → Ctx) : (s.modCtx c f).segs = s.segs := rfl
@[simp] theorem State.modCtx_launches (s : State) (c : Nat) (f : Ctx → Ctx) : (s.modCtx c f).launches = s.launches := rfl
@[simp] theorem State.modCtx_syncOps (s : State) (c : Nat) (f : Ctx → Ctx) : (s.modCtx c f).syncOps = s.syncOps := rfl
@[simp] theorem State.modCtx_engineFree (s : State) (c : Nat) (f : Ctx → Ctx) : (s.modCtx c f).engineFree = s.engineFree := rfl
@[simp] theorem State.modCtx_baton (s : State) (c : Nat) (f : Ctx → Ctx) : (s.modCtx c f).baton = s.baton := rfl
@[simp] theorem State.modCtx_batonQ (s : State) (c : Nat) (f : Ctx → Ctx) : (s.modCtx c f).batonQ = s.batonQ := rfl
@[simp] theorem State.modCtx_bells (s : State) (c : Nat) (f : Ctx → Ctx) : (s.modCtx c f).bells = s.bells := rfl
@[simp] theorem State.modCtx_farWrites (s : State) (c : Nat) (f : Ctx → Ctx) : (s.modCtx c f).farWrites = s.farWrites := rfl
@[simp] theorem State.modCtx_farReads (s : State) (c : Nat) (f : Ctx → Ctx) : (s.modCtx c f).farReads = s.farReads := rfl
@[simp] theorem State.modCtx_commands (s : State) (c : Nat) (f : Ctx → Ctx) : (s.modCtx c f).commands = s.commands := rfl
@[simp] theorem State.modCtx_queueOps (s : State) (c : Nat) (f : Ctx → Ctx) : (s.modCtx c f).queueOps = s.queueOps := rfl
@[simp] theorem State.modCtx_limiters (s : State) (c : Nat) (f : Ctx → Ctx) : (s.modCtx c f).limiters = s.limiters := rfl
@[simp] theorem State.modCtx_caches (s : State) (c : Nat) (f : Ctx → Ctx) : (s.modCtx c f).caches = s.caches := rfl
@[simp] theorem State.modCtx_colls (s : State) (c : Nat) (f : Ctx → Ctx) : (s.modCtx c f).colls = s.colls := rfl
@[simp] theorem State.modCtx_collCounts (s : State) (c : Nat) (f : Ctx → Ctx) : (s.modCtx c f).collCounts = s.collCounts := rfl
@[simp] theorem State.modCtx_trapped (s : State) (c : Nat) (f : Ctx → Ctx) : (s.modCtx c f).trapped = s.trapped := rfl
@[simp] theorem State.modCtx_ending (s : State) (c : Nat) (f : Ctx → Ctx) : (s.modCtx c f).ending = s.ending := rfl

/-! ## `State.modCell` -/

@[simp] theorem State.modCell_clk (s : State) (c k : Nat) (f : CellCtx → CellCtx) : (s.modCell c k f).clk = s.clk := rfl
@[simp] theorem State.modCell_fresh (s : State) (c k : Nat) (f : CellCtx → CellCtx) : (s.modCell c k f).fresh = s.fresh := rfl
@[simp] theorem State.modCell_ids (s : State) (c k : Nat) (f : CellCtx → CellCtx) : (s.modCell c k f).ids = s.ids := rfl
@[simp] theorem State.modCell_actor (s : State) (c k : Nat) (f : CellCtx → CellCtx) : (s.modCell c k f).actor = s.actor := rfl
@[simp] theorem State.modCell_agenda (s : State) (c k : Nat) (f : CellCtx → CellCtx) : (s.modCell c k f).agenda = s.agenda := rfl
@[simp] theorem State.modCell_dev (s : State) (c k : Nat) (f : CellCtx → CellCtx) : (s.modCell c k f).dev = s.dev := rfl
@[simp] theorem State.modCell_mem (s : State) (c k : Nat) (f : CellCtx → CellCtx) : (s.modCell c k f).mem = s.mem := rfl
@[simp] theorem State.modCell_poison (s : State) (c k : Nat) (f : CellCtx → CellCtx) : (s.modCell c k f).poison = s.poison := rfl
@[simp] theorem State.modCell_scr (s : State) (c k : Nat) (f : CellCtx → CellCtx) : (s.modCell c k f).scr = s.scr := rfl
@[simp] theorem State.modCell_parts (s : State) (c k : Nat) (f : CellCtx → CellCtx) : (s.modCell c k f).parts = s.parts := rfl
@[simp] theorem State.modCell_insts (s : State) (c k : Nat) (f : CellCtx → CellCtx) : (s.modCell c k f).insts = s.insts := rfl
@[simp] theorem State.modCell_segs (s : State) (c k : Nat) (f : CellCtx → CellCtx) : (s.modCell c k f).segs = s.segs := rfl
@[simp] theorem State.modCell_launches (s : State) (c k : Nat) (f : CellCtx → CellCtx) : (s.modCell c k f).launches = s.launches := rfl
@[simp] theorem State.modCell_syncOps (s : State) (c k : Nat) (f : CellCtx → CellCtx) : (s.modCell c k f).syncOps = s.syncOps := rfl
@[simp] theorem State.modCell_engineFree (s : State) (c k : Nat) (f : CellCtx → CellCtx) : (s.modCell c k f).engineFree = s.engineFree := rfl
@[simp] theorem State.modCell_baton (s : State) (c k : Nat) (f : CellCtx → CellCtx) : (s.modCell c k f).baton = s.baton := rfl
@[simp] theorem State.modCell_batonQ (s : State) (c k : Nat) (f : CellCtx → CellCtx) : (s.modCell c k f).batonQ = s.batonQ := rfl
@[simp] theorem State.modCell_bells (s : State) (c k : Nat) (f : CellCtx → CellCtx) : (s.modCell c k f).bells = s.bells := rfl
@[simp] theorem State.modCell_farWrites (s : State) (c k : Nat) (f : CellCtx → CellCtx) : (s.modCell c k f).farWrites = s.farWrites := rfl
@[simp] theorem State.modCell_farReads (s : State) (c k : Nat) (f : CellCtx → CellCtx) : (s.modCell c k f).farReads = s.farReads := rfl
@[simp] theorem State.modCell_commands (s : State) (c k : Nat) (f : CellCtx → CellCtx) : (s.modCell c k f).commands = s.commands := rfl
@[simp] theorem State.modCell_queueOps (s : State) (c k : Nat) (f : CellCtx → CellCtx) : (s.modCell c k f).queueOps = s.queueOps := rfl
@[simp] theorem State.modCell_limiters (s : State) (c k : Nat) (f : CellCtx → CellCtx) : (s.modCell c k f).limiters = s.limiters := rfl
@[simp] theorem State.modCell_caches (s : State) (c k : Nat) (f : CellCtx → CellCtx) : (s.modCell c k f).caches = s.caches := rfl
@[simp] theorem State.modCell_colls (s : State) (c k : Nat) (f : CellCtx → CellCtx) : (s.modCell c k f).colls = s.colls := rfl
@[simp] theorem State.modCell_collCounts (s : State) (c k : Nat) (f : CellCtx → CellCtx) : (s.modCell c k f).collCounts = s.collCounts := rfl
@[simp] theorem State.modCell_trapped (s : State) (c k : Nat) (f : CellCtx → CellCtx) : (s.modCell c k f).trapped = s.trapped := rfl
@[simp] theorem State.modCell_ending (s : State) (c k : Nat) (f : CellCtx → CellCtx) : (s.modCell c k f).ending = s.ending := rfl

/-! ## `State.countRequest` -/

@[simp] theorem State.countRequest_clk (s : State) (c : Nat) : (s.countRequest c).clk = s.clk := rfl
@[simp] theorem State.countRequest_fresh (s : State) (c : Nat) : (s.countRequest c).fresh = s.fresh := rfl
@[simp] theorem State.countRequest_ids (s : State) (c : Nat) : (s.countRequest c).ids = s.ids := rfl
@[simp] theorem State.countRequest_actor (s : State) (c : Nat) : (s.countRequest c).actor = s.actor := rfl
@[simp] theorem State.countRequest_agenda (s : State) (c : Nat) : (s.countRequest c).agenda = s.agenda := rfl
@[simp] theorem State.countRequest_dev (s : State) (c : Nat) : (s.countRequest c).dev = s.dev := rfl
@[simp] theorem State.countRequest_mem (s : State) (c : Nat) : (s.countRequest c).mem = s.mem := rfl
@[simp] theorem State.countRequest_poison (s : State) (c : Nat) : (s.countRequest c).poison = s.poison := rfl
@[simp] theorem State.countRequest_scr (s : State) (c : Nat) : (s.countRequest c).scr = s.scr := rfl
@[simp] theorem State.countRequest_parts (s : State) (c : Nat) : (s.countRequest c).parts = s.parts := rfl
@[simp] theorem State.countRequest_insts (s : State) (c : Nat) : (s.countRequest c).insts = s.insts := rfl
@[simp] theorem State.countRequest_segs (s : State) (c : Nat) : (s.countRequest c).segs = s.segs := rfl
@[simp] theorem State.countRequest_launches (s : State) (c : Nat) : (s.countRequest c).launches = s.launches := rfl
@[simp] theorem State.countRequest_syncOps (s : State) (c : Nat) : (s.countRequest c).syncOps = s.syncOps := rfl
@[simp] theorem State.countRequest_engineFree (s : State) (c : Nat) : (s.countRequest c).engineFree = s.engineFree := rfl
@[simp] theorem State.countRequest_baton (s : State) (c : Nat) : (s.countRequest c).baton = s.baton := rfl
@[simp] theorem State.countRequest_batonQ (s : State) (c : Nat) : (s.countRequest c).batonQ = s.batonQ := rfl
@[simp] theorem State.countRequest_bells (s : State) (c : Nat) : (s.countRequest c).bells = s.bells := rfl
@[simp] theorem State.countRequest_farWrites (s : State) (c : Nat) : (s.countRequest c).farWrites = s.farWrites := rfl
@[simp] theorem State.countRequest_farReads (s : State) (c : Nat) : (s.countRequest c).farReads = s.farReads := rfl
@[simp] theorem State.countRequest_commands (s : State) (c : Nat) : (s.countRequest c).commands = s.commands := rfl
@[simp] theorem State.countRequest_queueOps (s : State) (c : Nat) : (s.countRequest c).queueOps = s.queueOps := rfl
@[simp] theorem State.countRequest_limiters (s : State) (c : Nat) : (s.countRequest c).limiters = s.limiters := rfl
@[simp] theorem State.countRequest_caches (s : State) (c : Nat) : (s.countRequest c).caches = s.caches := rfl
@[simp] theorem State.countRequest_colls (s : State) (c : Nat) : (s.countRequest c).colls = s.colls := rfl
@[simp] theorem State.countRequest_collCounts (s : State) (c : Nat) : (s.countRequest c).collCounts = s.collCounts := rfl
@[simp] theorem State.countRequest_trapped (s : State) (c : Nat) : (s.countRequest c).trapped = s.trapped := rfl
@[simp] theorem State.countRequest_ending (s : State) (c : Nat) : (s.countRequest c).ending = s.ending := rfl

/-! ## `State.count` -/

@[simp] theorem State.count_clk (s : State) (c k : Nat) (j : Fin 8) (n : Nat) : (s.count c k j n).clk = s.clk := rfl
@[simp] theorem State.count_fresh (s : State) (c k : Nat) (j : Fin 8) (n : Nat) : (s.count c k j n).fresh = s.fresh := rfl
@[simp] theorem State.count_ids (s : State) (c k : Nat) (j : Fin 8) (n : Nat) : (s.count c k j n).ids = s.ids := rfl
@[simp] theorem State.count_actor (s : State) (c k : Nat) (j : Fin 8) (n : Nat) : (s.count c k j n).actor = s.actor := rfl
@[simp] theorem State.count_agenda (s : State) (c k : Nat) (j : Fin 8) (n : Nat) : (s.count c k j n).agenda = s.agenda := rfl
@[simp] theorem State.count_dev (s : State) (c k : Nat) (j : Fin 8) (n : Nat) : (s.count c k j n).dev = s.dev := rfl
@[simp] theorem State.count_mem (s : State) (c k : Nat) (j : Fin 8) (n : Nat) : (s.count c k j n).mem = s.mem := rfl
@[simp] theorem State.count_poison (s : State) (c k : Nat) (j : Fin 8) (n : Nat) : (s.count c k j n).poison = s.poison := rfl
@[simp] theorem State.count_scr (s : State) (c k : Nat) (j : Fin 8) (n : Nat) : (s.count c k j n).scr = s.scr := rfl
@[simp] theorem State.count_parts (s : State) (c k : Nat) (j : Fin 8) (n : Nat) : (s.count c k j n).parts = s.parts := rfl
@[simp] theorem State.count_insts (s : State) (c k : Nat) (j : Fin 8) (n : Nat) : (s.count c k j n).insts = s.insts := rfl
@[simp] theorem State.count_segs (s : State) (c k : Nat) (j : Fin 8) (n : Nat) : (s.count c k j n).segs = s.segs := rfl
@[simp] theorem State.count_launches (s : State) (c k : Nat) (j : Fin 8) (n : Nat) : (s.count c k j n).launches = s.launches := rfl
@[simp] theorem State.count_syncOps (s : State) (c k : Nat) (j : Fin 8) (n : Nat) : (s.count c k j n).syncOps = s.syncOps := rfl
@[simp] theorem State.count_engineFree (s : State) (c k : Nat) (j : Fin 8) (n : Nat) : (s.count c k j n).engineFree = s.engineFree := rfl
@[simp] theorem State.count_baton (s : State) (c k : Nat) (j : Fin 8) (n : Nat) : (s.count c k j n).baton = s.baton := rfl
@[simp] theorem State.count_batonQ (s : State) (c k : Nat) (j : Fin 8) (n : Nat) : (s.count c k j n).batonQ = s.batonQ := rfl
@[simp] theorem State.count_bells (s : State) (c k : Nat) (j : Fin 8) (n : Nat) : (s.count c k j n).bells = s.bells := rfl
@[simp] theorem State.count_farWrites (s : State) (c k : Nat) (j : Fin 8) (n : Nat) : (s.count c k j n).farWrites = s.farWrites := rfl
@[simp] theorem State.count_farReads (s : State) (c k : Nat) (j : Fin 8) (n : Nat) : (s.count c k j n).farReads = s.farReads := rfl
@[simp] theorem State.count_commands (s : State) (c k : Nat) (j : Fin 8) (n : Nat) : (s.count c k j n).commands = s.commands := rfl
@[simp] theorem State.count_queueOps (s : State) (c k : Nat) (j : Fin 8) (n : Nat) : (s.count c k j n).queueOps = s.queueOps := rfl
@[simp] theorem State.count_limiters (s : State) (c k : Nat) (j : Fin 8) (n : Nat) : (s.count c k j n).limiters = s.limiters := rfl
@[simp] theorem State.count_caches (s : State) (c k : Nat) (j : Fin 8) (n : Nat) : (s.count c k j n).caches = s.caches := rfl
@[simp] theorem State.count_colls (s : State) (c k : Nat) (j : Fin 8) (n : Nat) : (s.count c k j n).colls = s.colls := rfl
@[simp] theorem State.count_collCounts (s : State) (c k : Nat) (j : Fin 8) (n : Nat) : (s.count c k j n).collCounts = s.collCounts := rfl
@[simp] theorem State.count_trapped (s : State) (c k : Nat) (j : Fin 8) (n : Nat) : (s.count c k j n).trapped = s.trapped := rfl
@[simp] theorem State.count_ending (s : State) (c k : Nat) (j : Fin 8) (n : Nat) : (s.count c k j n).ending = s.ending := rfl

/-! ## `State.schedule` -/

@[simp] theorem State.schedule_clk (s : State) (a : Nat) (e : Instr) : (s.schedule a e).clk = s.clk := rfl
@[simp] theorem State.schedule_fresh (s : State) (a : Nat) (e : Instr) : (s.schedule a e).fresh = s.fresh := rfl
@[simp] theorem State.schedule_ids (s : State) (a : Nat) (e : Instr) : (s.schedule a e).ids = s.ids := rfl
@[simp] theorem State.schedule_actor (s : State) (a : Nat) (e : Instr) : (s.schedule a e).actor = s.actor := rfl
@[simp] theorem State.schedule_dev (s : State) (a : Nat) (e : Instr) : (s.schedule a e).dev = s.dev := rfl
@[simp] theorem State.schedule_mem (s : State) (a : Nat) (e : Instr) : (s.schedule a e).mem = s.mem := rfl
@[simp] theorem State.schedule_poison (s : State) (a : Nat) (e : Instr) : (s.schedule a e).poison = s.poison := rfl
@[simp] theorem State.schedule_scr (s : State) (a : Nat) (e : Instr) : (s.schedule a e).scr = s.scr := rfl
@[simp] theorem State.schedule_ctxs (s : State) (a : Nat) (e : Instr) : (s.schedule a e).ctxs = s.ctxs := rfl
@[simp] theorem State.schedule_parts (s : State) (a : Nat) (e : Instr) : (s.schedule a e).parts = s.parts := rfl
@[simp] theorem State.schedule_insts (s : State) (a : Nat) (e : Instr) : (s.schedule a e).insts = s.insts := rfl
@[simp] theorem State.schedule_segs (s : State) (a : Nat) (e : Instr) : (s.schedule a e).segs = s.segs := rfl
@[simp] theorem State.schedule_launches (s : State) (a : Nat) (e : Instr) : (s.schedule a e).launches = s.launches := rfl
@[simp] theorem State.schedule_syncOps (s : State) (a : Nat) (e : Instr) : (s.schedule a e).syncOps = s.syncOps := rfl
@[simp] theorem State.schedule_engineFree (s : State) (a : Nat) (e : Instr) : (s.schedule a e).engineFree = s.engineFree := rfl
@[simp] theorem State.schedule_baton (s : State) (a : Nat) (e : Instr) : (s.schedule a e).baton = s.baton := rfl
@[simp] theorem State.schedule_batonQ (s : State) (a : Nat) (e : Instr) : (s.schedule a e).batonQ = s.batonQ := rfl
@[simp] theorem State.schedule_bells (s : State) (a : Nat) (e : Instr) : (s.schedule a e).bells = s.bells := rfl
@[simp] theorem State.schedule_farWrites (s : State) (a : Nat) (e : Instr) : (s.schedule a e).farWrites = s.farWrites := rfl
@[simp] theorem State.schedule_farReads (s : State) (a : Nat) (e : Instr) : (s.schedule a e).farReads = s.farReads := rfl
@[simp] theorem State.schedule_commands (s : State) (a : Nat) (e : Instr) : (s.schedule a e).commands = s.commands := rfl
@[simp] theorem State.schedule_queueOps (s : State) (a : Nat) (e : Instr) : (s.schedule a e).queueOps = s.queueOps := rfl
@[simp] theorem State.schedule_limiters (s : State) (a : Nat) (e : Instr) : (s.schedule a e).limiters = s.limiters := rfl
@[simp] theorem State.schedule_caches (s : State) (a : Nat) (e : Instr) : (s.schedule a e).caches = s.caches := rfl
@[simp] theorem State.schedule_colls (s : State) (a : Nat) (e : Instr) : (s.schedule a e).colls = s.colls := rfl
@[simp] theorem State.schedule_collCounts (s : State) (a : Nat) (e : Instr) : (s.schedule a e).collCounts = s.collCounts := rfl
@[simp] theorem State.schedule_trapped (s : State) (a : Nat) (e : Instr) : (s.schedule a e).trapped = s.trapped := rfl
@[simp] theorem State.schedule_ending (s : State) (a : Nat) (e : Instr) : (s.schedule a e).ending = s.ending := rfl

/-! ## `State.scheduleFirst` -/

@[simp] theorem State.scheduleFirst_clk (s : State) (a : Nat) (e : Instr) : (s.scheduleFirst a e).clk = s.clk := rfl
@[simp] theorem State.scheduleFirst_fresh (s : State) (a : Nat) (e : Instr) : (s.scheduleFirst a e).fresh = s.fresh := rfl
@[simp] theorem State.scheduleFirst_ids (s : State) (a : Nat) (e : Instr) : (s.scheduleFirst a e).ids = s.ids := rfl
@[simp] theorem State.scheduleFirst_actor (s : State) (a : Nat) (e : Instr) : (s.scheduleFirst a e).actor = s.actor := rfl
@[simp] theorem State.scheduleFirst_dev (s : State) (a : Nat) (e : Instr) : (s.scheduleFirst a e).dev = s.dev := rfl
@[simp] theorem State.scheduleFirst_mem (s : State) (a : Nat) (e : Instr) : (s.scheduleFirst a e).mem = s.mem := rfl
@[simp] theorem State.scheduleFirst_poison (s : State) (a : Nat) (e : Instr) : (s.scheduleFirst a e).poison = s.poison := rfl
@[simp] theorem State.scheduleFirst_scr (s : State) (a : Nat) (e : Instr) : (s.scheduleFirst a e).scr = s.scr := rfl
@[simp] theorem State.scheduleFirst_ctxs (s : State) (a : Nat) (e : Instr) : (s.scheduleFirst a e).ctxs = s.ctxs := rfl
@[simp] theorem State.scheduleFirst_parts (s : State) (a : Nat) (e : Instr) : (s.scheduleFirst a e).parts = s.parts := rfl
@[simp] theorem State.scheduleFirst_insts (s : State) (a : Nat) (e : Instr) : (s.scheduleFirst a e).insts = s.insts := rfl
@[simp] theorem State.scheduleFirst_segs (s : State) (a : Nat) (e : Instr) : (s.scheduleFirst a e).segs = s.segs := rfl
@[simp] theorem State.scheduleFirst_launches (s : State) (a : Nat) (e : Instr) : (s.scheduleFirst a e).launches = s.launches := rfl
@[simp] theorem State.scheduleFirst_syncOps (s : State) (a : Nat) (e : Instr) : (s.scheduleFirst a e).syncOps = s.syncOps := rfl
@[simp] theorem State.scheduleFirst_engineFree (s : State) (a : Nat) (e : Instr) : (s.scheduleFirst a e).engineFree = s.engineFree := rfl
@[simp] theorem State.scheduleFirst_baton (s : State) (a : Nat) (e : Instr) : (s.scheduleFirst a e).baton = s.baton := rfl
@[simp] theorem State.scheduleFirst_batonQ (s : State) (a : Nat) (e : Instr) : (s.scheduleFirst a e).batonQ = s.batonQ := rfl
@[simp] theorem State.scheduleFirst_bells (s : State) (a : Nat) (e : Instr) : (s.scheduleFirst a e).bells = s.bells := rfl
@[simp] theorem State.scheduleFirst_farWrites (s : State) (a : Nat) (e : Instr) : (s.scheduleFirst a e).farWrites = s.farWrites := rfl
@[simp] theorem State.scheduleFirst_farReads (s : State) (a : Nat) (e : Instr) : (s.scheduleFirst a e).farReads = s.farReads := rfl
@[simp] theorem State.scheduleFirst_commands (s : State) (a : Nat) (e : Instr) : (s.scheduleFirst a e).commands = s.commands := rfl
@[simp] theorem State.scheduleFirst_queueOps (s : State) (a : Nat) (e : Instr) : (s.scheduleFirst a e).queueOps = s.queueOps := rfl
@[simp] theorem State.scheduleFirst_limiters (s : State) (a : Nat) (e : Instr) : (s.scheduleFirst a e).limiters = s.limiters := rfl
@[simp] theorem State.scheduleFirst_caches (s : State) (a : Nat) (e : Instr) : (s.scheduleFirst a e).caches = s.caches := rfl
@[simp] theorem State.scheduleFirst_colls (s : State) (a : Nat) (e : Instr) : (s.scheduleFirst a e).colls = s.colls := rfl
@[simp] theorem State.scheduleFirst_collCounts (s : State) (a : Nat) (e : Instr) : (s.scheduleFirst a e).collCounts = s.collCounts := rfl
@[simp] theorem State.scheduleFirst_trapped (s : State) (a : Nat) (e : Instr) : (s.scheduleFirst a e).trapped = s.trapped := rfl
@[simp] theorem State.scheduleFirst_ending (s : State) (a : Nat) (e : Instr) : (s.scheduleFirst a e).ending = s.ending := rfl

/-! ## `State.scheduleArrival` -/

@[simp] theorem State.scheduleArrival_clk (s : State) (a : Nat) (e : Instr) : (s.scheduleArrival a e).clk = s.clk := rfl
@[simp] theorem State.scheduleArrival_ids (s : State) (a : Nat) (e : Instr) : (s.scheduleArrival a e).ids = s.ids := rfl
@[simp] theorem State.scheduleArrival_actor (s : State) (a : Nat) (e : Instr) : (s.scheduleArrival a e).actor = s.actor := rfl
@[simp] theorem State.scheduleArrival_dev (s : State) (a : Nat) (e : Instr) : (s.scheduleArrival a e).dev = s.dev := rfl
@[simp] theorem State.scheduleArrival_mem (s : State) (a : Nat) (e : Instr) : (s.scheduleArrival a e).mem = s.mem := rfl
@[simp] theorem State.scheduleArrival_poison (s : State) (a : Nat) (e : Instr) : (s.scheduleArrival a e).poison = s.poison := rfl
@[simp] theorem State.scheduleArrival_scr (s : State) (a : Nat) (e : Instr) : (s.scheduleArrival a e).scr = s.scr := rfl
@[simp] theorem State.scheduleArrival_ctxs (s : State) (a : Nat) (e : Instr) : (s.scheduleArrival a e).ctxs = s.ctxs := rfl
@[simp] theorem State.scheduleArrival_parts (s : State) (a : Nat) (e : Instr) : (s.scheduleArrival a e).parts = s.parts := rfl
@[simp] theorem State.scheduleArrival_insts (s : State) (a : Nat) (e : Instr) : (s.scheduleArrival a e).insts = s.insts := rfl
@[simp] theorem State.scheduleArrival_segs (s : State) (a : Nat) (e : Instr) : (s.scheduleArrival a e).segs = s.segs := rfl
@[simp] theorem State.scheduleArrival_launches (s : State) (a : Nat) (e : Instr) : (s.scheduleArrival a e).launches = s.launches := rfl
@[simp] theorem State.scheduleArrival_syncOps (s : State) (a : Nat) (e : Instr) : (s.scheduleArrival a e).syncOps = s.syncOps := rfl
@[simp] theorem State.scheduleArrival_engineFree (s : State) (a : Nat) (e : Instr) : (s.scheduleArrival a e).engineFree = s.engineFree := rfl
@[simp] theorem State.scheduleArrival_baton (s : State) (a : Nat) (e : Instr) : (s.scheduleArrival a e).baton = s.baton := rfl
@[simp] theorem State.scheduleArrival_batonQ (s : State) (a : Nat) (e : Instr) : (s.scheduleArrival a e).batonQ = s.batonQ := rfl
@[simp] theorem State.scheduleArrival_bells (s : State) (a : Nat) (e : Instr) : (s.scheduleArrival a e).bells = s.bells := rfl
@[simp] theorem State.scheduleArrival_farWrites (s : State) (a : Nat) (e : Instr) : (s.scheduleArrival a e).farWrites = s.farWrites := rfl
@[simp] theorem State.scheduleArrival_farReads (s : State) (a : Nat) (e : Instr) : (s.scheduleArrival a e).farReads = s.farReads := rfl
@[simp] theorem State.scheduleArrival_commands (s : State) (a : Nat) (e : Instr) : (s.scheduleArrival a e).commands = s.commands := rfl
@[simp] theorem State.scheduleArrival_queueOps (s : State) (a : Nat) (e : Instr) : (s.scheduleArrival a e).queueOps = s.queueOps := rfl
@[simp] theorem State.scheduleArrival_limiters (s : State) (a : Nat) (e : Instr) : (s.scheduleArrival a e).limiters = s.limiters := rfl
@[simp] theorem State.scheduleArrival_caches (s : State) (a : Nat) (e : Instr) : (s.scheduleArrival a e).caches = s.caches := rfl
@[simp] theorem State.scheduleArrival_colls (s : State) (a : Nat) (e : Instr) : (s.scheduleArrival a e).colls = s.colls := rfl
@[simp] theorem State.scheduleArrival_collCounts (s : State) (a : Nat) (e : Instr) : (s.scheduleArrival a e).collCounts = s.collCounts := rfl
@[simp] theorem State.scheduleArrival_trapped (s : State) (a : Nat) (e : Instr) : (s.scheduleArrival a e).trapped = s.trapped := rfl
@[simp] theorem State.scheduleArrival_ending (s : State) (a : Nat) (e : Instr) : (s.scheduleArrival a e).ending = s.ending := rfl

/-! ## `State.unschedule` -/

@[simp] theorem State.unschedule_clk (s : State) (p : Instr → Bool) : (s.unschedule p).clk = s.clk := rfl
@[simp] theorem State.unschedule_fresh (s : State) (p : Instr → Bool) : (s.unschedule p).fresh = s.fresh := rfl
@[simp] theorem State.unschedule_ids (s : State) (p : Instr → Bool) : (s.unschedule p).ids = s.ids := rfl
@[simp] theorem State.unschedule_actor (s : State) (p : Instr → Bool) : (s.unschedule p).actor = s.actor := rfl
@[simp] theorem State.unschedule_dev (s : State) (p : Instr → Bool) : (s.unschedule p).dev = s.dev := rfl
@[simp] theorem State.unschedule_mem (s : State) (p : Instr → Bool) : (s.unschedule p).mem = s.mem := rfl
@[simp] theorem State.unschedule_poison (s : State) (p : Instr → Bool) : (s.unschedule p).poison = s.poison := rfl
@[simp] theorem State.unschedule_scr (s : State) (p : Instr → Bool) : (s.unschedule p).scr = s.scr := rfl
@[simp] theorem State.unschedule_ctxs (s : State) (p : Instr → Bool) : (s.unschedule p).ctxs = s.ctxs := rfl
@[simp] theorem State.unschedule_parts (s : State) (p : Instr → Bool) : (s.unschedule p).parts = s.parts := rfl
@[simp] theorem State.unschedule_insts (s : State) (p : Instr → Bool) : (s.unschedule p).insts = s.insts := rfl
@[simp] theorem State.unschedule_segs (s : State) (p : Instr → Bool) : (s.unschedule p).segs = s.segs := rfl
@[simp] theorem State.unschedule_launches (s : State) (p : Instr → Bool) : (s.unschedule p).launches = s.launches := rfl
@[simp] theorem State.unschedule_syncOps (s : State) (p : Instr → Bool) : (s.unschedule p).syncOps = s.syncOps := rfl
@[simp] theorem State.unschedule_engineFree (s : State) (p : Instr → Bool) : (s.unschedule p).engineFree = s.engineFree := rfl
@[simp] theorem State.unschedule_baton (s : State) (p : Instr → Bool) : (s.unschedule p).baton = s.baton := rfl
@[simp] theorem State.unschedule_batonQ (s : State) (p : Instr → Bool) : (s.unschedule p).batonQ = s.batonQ := rfl
@[simp] theorem State.unschedule_bells (s : State) (p : Instr → Bool) : (s.unschedule p).bells = s.bells := rfl
@[simp] theorem State.unschedule_farWrites (s : State) (p : Instr → Bool) : (s.unschedule p).farWrites = s.farWrites := rfl
@[simp] theorem State.unschedule_farReads (s : State) (p : Instr → Bool) : (s.unschedule p).farReads = s.farReads := rfl
@[simp] theorem State.unschedule_commands (s : State) (p : Instr → Bool) : (s.unschedule p).commands = s.commands := rfl
@[simp] theorem State.unschedule_queueOps (s : State) (p : Instr → Bool) : (s.unschedule p).queueOps = s.queueOps := rfl
@[simp] theorem State.unschedule_limiters (s : State) (p : Instr → Bool) : (s.unschedule p).limiters = s.limiters := rfl
@[simp] theorem State.unschedule_caches (s : State) (p : Instr → Bool) : (s.unschedule p).caches = s.caches := rfl
@[simp] theorem State.unschedule_colls (s : State) (p : Instr → Bool) : (s.unschedule p).colls = s.colls := rfl
@[simp] theorem State.unschedule_collCounts (s : State) (p : Instr → Bool) : (s.unschedule p).collCounts = s.collCounts := rfl
@[simp] theorem State.unschedule_trapped (s : State) (p : Instr → Bool) : (s.unschedule p).trapped = s.trapped := rfl
@[simp] theorem State.unschedule_ending (s : State) (p : Instr → Bool) : (s.unschedule p).ending = s.ending := rfl

/-! ## `State.pokeSide` -/

@[simp] theorem State.pokeSide_clk (s : State) (c k a : Nat) (bs : List Byte) : (s.pokeSide c k a bs).clk = s.clk := rfl
@[simp] theorem State.pokeSide_fresh (s : State) (c k a : Nat) (bs : List Byte) : (s.pokeSide c k a bs).fresh = s.fresh := rfl
@[simp] theorem State.pokeSide_ids (s : State) (c k a : Nat) (bs : List Byte) : (s.pokeSide c k a bs).ids = s.ids := rfl
@[simp] theorem State.pokeSide_actor (s : State) (c k a : Nat) (bs : List Byte) : (s.pokeSide c k a bs).actor = s.actor := rfl
@[simp] theorem State.pokeSide_agenda (s : State) (c k a : Nat) (bs : List Byte) : (s.pokeSide c k a bs).agenda = s.agenda := rfl
@[simp] theorem State.pokeSide_dev (s : State) (c k a : Nat) (bs : List Byte) : (s.pokeSide c k a bs).dev = s.dev := rfl
@[simp] theorem State.pokeSide_mem (s : State) (c k a : Nat) (bs : List Byte) : (s.pokeSide c k a bs).mem = s.mem := rfl
@[simp] theorem State.pokeSide_ctxs (s : State) (c k a : Nat) (bs : List Byte) : (s.pokeSide c k a bs).ctxs = s.ctxs := rfl
@[simp] theorem State.pokeSide_parts (s : State) (c k a : Nat) (bs : List Byte) : (s.pokeSide c k a bs).parts = s.parts := rfl
@[simp] theorem State.pokeSide_insts (s : State) (c k a : Nat) (bs : List Byte) : (s.pokeSide c k a bs).insts = s.insts := rfl
@[simp] theorem State.pokeSide_segs (s : State) (c k a : Nat) (bs : List Byte) : (s.pokeSide c k a bs).segs = s.segs := rfl
@[simp] theorem State.pokeSide_launches (s : State) (c k a : Nat) (bs : List Byte) : (s.pokeSide c k a bs).launches = s.launches := rfl
@[simp] theorem State.pokeSide_syncOps (s : State) (c k a : Nat) (bs : List Byte) : (s.pokeSide c k a bs).syncOps = s.syncOps := rfl
@[simp] theorem State.pokeSide_engineFree (s : State) (c k a : Nat) (bs : List Byte) : (s.pokeSide c k a bs).engineFree = s.engineFree := rfl
@[simp] theorem State.pokeSide_baton (s : State) (c k a : Nat) (bs : List Byte) : (s.pokeSide c k a bs).baton = s.baton := rfl
@[simp] theorem State.pokeSide_batonQ (s : State) (c k a : Nat) (bs : List Byte) : (s.pokeSide c k a bs).batonQ = s.batonQ := rfl
@[simp] theorem State.pokeSide_bells (s : State) (c k a : Nat) (bs : List Byte) : (s.pokeSide c k a bs).bells = s.bells := rfl
@[simp] theorem State.pokeSide_farWrites (s : State) (c k a : Nat) (bs : List Byte) : (s.pokeSide c k a bs).farWrites = s.farWrites := rfl
@[simp] theorem State.pokeSide_farReads (s : State) (c k a : Nat) (bs : List Byte) : (s.pokeSide c k a bs).farReads = s.farReads := rfl
@[simp] theorem State.pokeSide_commands (s : State) (c k a : Nat) (bs : List Byte) : (s.pokeSide c k a bs).commands = s.commands := rfl
@[simp] theorem State.pokeSide_queueOps (s : State) (c k a : Nat) (bs : List Byte) : (s.pokeSide c k a bs).queueOps = s.queueOps := rfl
@[simp] theorem State.pokeSide_limiters (s : State) (c k a : Nat) (bs : List Byte) : (s.pokeSide c k a bs).limiters = s.limiters := rfl
@[simp] theorem State.pokeSide_caches (s : State) (c k a : Nat) (bs : List Byte) : (s.pokeSide c k a bs).caches = s.caches := rfl
@[simp] theorem State.pokeSide_colls (s : State) (c k a : Nat) (bs : List Byte) : (s.pokeSide c k a bs).colls = s.colls := rfl
@[simp] theorem State.pokeSide_collCounts (s : State) (c k a : Nat) (bs : List Byte) : (s.pokeSide c k a bs).collCounts = s.collCounts := rfl
@[simp] theorem State.pokeSide_trapped (s : State) (c k a : Nat) (bs : List Byte) : (s.pokeSide c k a bs).trapped = s.trapped := rfl
@[simp] theorem State.pokeSide_ending (s : State) (c k a : Nat) (bs : List Byte) : (s.pokeSide c k a bs).ending = s.ending := rfl

/-! ## `State.atTurn` -/

@[simp] theorem State.atTurn_fresh (s : State) (c k : Nat) : (s.atTurn c k).fresh = s.fresh := rfl
@[simp] theorem State.atTurn_ids (s : State) (c k : Nat) : (s.atTurn c k).ids = s.ids := rfl
@[simp] theorem State.atTurn_agenda (s : State) (c k : Nat) : (s.atTurn c k).agenda = s.agenda := rfl
@[simp] theorem State.atTurn_dev (s : State) (c k : Nat) : (s.atTurn c k).dev = s.dev := rfl
@[simp] theorem State.atTurn_mem (s : State) (c k : Nat) : (s.atTurn c k).mem = s.mem := rfl
@[simp] theorem State.atTurn_poison (s : State) (c k : Nat) : (s.atTurn c k).poison = s.poison := rfl
@[simp] theorem State.atTurn_scr (s : State) (c k : Nat) : (s.atTurn c k).scr = s.scr := rfl
@[simp] theorem State.atTurn_ctxs (s : State) (c k : Nat) : (s.atTurn c k).ctxs = s.ctxs := rfl
@[simp] theorem State.atTurn_parts (s : State) (c k : Nat) : (s.atTurn c k).parts = s.parts := rfl
@[simp] theorem State.atTurn_insts (s : State) (c k : Nat) : (s.atTurn c k).insts = s.insts := rfl
@[simp] theorem State.atTurn_segs (s : State) (c k : Nat) : (s.atTurn c k).segs = s.segs := rfl
@[simp] theorem State.atTurn_launches (s : State) (c k : Nat) : (s.atTurn c k).launches = s.launches := rfl
@[simp] theorem State.atTurn_syncOps (s : State) (c k : Nat) : (s.atTurn c k).syncOps = s.syncOps := rfl
@[simp] theorem State.atTurn_engineFree (s : State) (c k : Nat) : (s.atTurn c k).engineFree = s.engineFree := rfl
@[simp] theorem State.atTurn_baton (s : State) (c k : Nat) : (s.atTurn c k).baton = s.baton := rfl
@[simp] theorem State.atTurn_batonQ (s : State) (c k : Nat) : (s.atTurn c k).batonQ = s.batonQ := rfl
@[simp] theorem State.atTurn_bells (s : State) (c k : Nat) : (s.atTurn c k).bells = s.bells := rfl
@[simp] theorem State.atTurn_farWrites (s : State) (c k : Nat) : (s.atTurn c k).farWrites = s.farWrites := rfl
@[simp] theorem State.atTurn_farReads (s : State) (c k : Nat) : (s.atTurn c k).farReads = s.farReads := rfl
@[simp] theorem State.atTurn_commands (s : State) (c k : Nat) : (s.atTurn c k).commands = s.commands := rfl
@[simp] theorem State.atTurn_queueOps (s : State) (c k : Nat) : (s.atTurn c k).queueOps = s.queueOps := rfl
@[simp] theorem State.atTurn_limiters (s : State) (c k : Nat) : (s.atTurn c k).limiters = s.limiters := rfl
@[simp] theorem State.atTurn_caches (s : State) (c k : Nat) : (s.atTurn c k).caches = s.caches := rfl
@[simp] theorem State.atTurn_colls (s : State) (c k : Nat) : (s.atTurn c k).colls = s.colls := rfl
@[simp] theorem State.atTurn_collCounts (s : State) (c k : Nat) : (s.atTurn c k).collCounts = s.collCounts := rfl
@[simp] theorem State.atTurn_trapped (s : State) (c k : Nat) : (s.atTurn c k).trapped = s.trapped := rfl
@[simp] theorem State.atTurn_ending (s : State) (c k : Nat) : (s.atTurn c k).ending = s.ending := rfl

/-! ## `State.atEvent` -/

@[simp] theorem State.atEvent_fresh (s : State) (t : Timed) : (s.atEvent t).fresh = s.fresh := rfl
@[simp] theorem State.atEvent_ids (s : State) (t : Timed) : (s.atEvent t).ids = s.ids := rfl
@[simp] theorem State.atEvent_dev (s : State) (t : Timed) : (s.atEvent t).dev = s.dev := rfl
@[simp] theorem State.atEvent_mem (s : State) (t : Timed) : (s.atEvent t).mem = s.mem := rfl
@[simp] theorem State.atEvent_poison (s : State) (t : Timed) : (s.atEvent t).poison = s.poison := rfl
@[simp] theorem State.atEvent_scr (s : State) (t : Timed) : (s.atEvent t).scr = s.scr := rfl
@[simp] theorem State.atEvent_ctxs (s : State) (t : Timed) : (s.atEvent t).ctxs = s.ctxs := rfl
@[simp] theorem State.atEvent_parts (s : State) (t : Timed) : (s.atEvent t).parts = s.parts := rfl
@[simp] theorem State.atEvent_insts (s : State) (t : Timed) : (s.atEvent t).insts = s.insts := rfl
@[simp] theorem State.atEvent_segs (s : State) (t : Timed) : (s.atEvent t).segs = s.segs := rfl
@[simp] theorem State.atEvent_launches (s : State) (t : Timed) : (s.atEvent t).launches = s.launches := rfl
@[simp] theorem State.atEvent_syncOps (s : State) (t : Timed) : (s.atEvent t).syncOps = s.syncOps := rfl
@[simp] theorem State.atEvent_engineFree (s : State) (t : Timed) : (s.atEvent t).engineFree = s.engineFree := rfl
@[simp] theorem State.atEvent_baton (s : State) (t : Timed) : (s.atEvent t).baton = s.baton := rfl
@[simp] theorem State.atEvent_batonQ (s : State) (t : Timed) : (s.atEvent t).batonQ = s.batonQ := rfl
@[simp] theorem State.atEvent_bells (s : State) (t : Timed) : (s.atEvent t).bells = s.bells := rfl
@[simp] theorem State.atEvent_farWrites (s : State) (t : Timed) : (s.atEvent t).farWrites = s.farWrites := rfl
@[simp] theorem State.atEvent_farReads (s : State) (t : Timed) : (s.atEvent t).farReads = s.farReads := rfl
@[simp] theorem State.atEvent_commands (s : State) (t : Timed) : (s.atEvent t).commands = s.commands := rfl
@[simp] theorem State.atEvent_queueOps (s : State) (t : Timed) : (s.atEvent t).queueOps = s.queueOps := rfl
@[simp] theorem State.atEvent_limiters (s : State) (t : Timed) : (s.atEvent t).limiters = s.limiters := rfl
@[simp] theorem State.atEvent_caches (s : State) (t : Timed) : (s.atEvent t).caches = s.caches := rfl
@[simp] theorem State.atEvent_colls (s : State) (t : Timed) : (s.atEvent t).colls = s.colls := rfl
@[simp] theorem State.atEvent_collCounts (s : State) (t : Timed) : (s.atEvent t).collCounts = s.collCounts := rfl
@[simp] theorem State.atEvent_trapped (s : State) (t : Timed) : (s.atEvent t).trapped = s.trapped := rfl
@[simp] theorem State.atEvent_ending (s : State) (t : Timed) : (s.atEvent t).ending = s.ending := rfl

/-! ## `State.modInst` -/

@[simp] theorem State.modInst_clk (s : State) (i : Nat) (f : Inst → Inst) : (s.modInst i f).clk = s.clk := by unfold State.modInst; split <;> rfl
@[simp] theorem State.modInst_fresh (s : State) (i : Nat) (f : Inst → Inst) : (s.modInst i f).fresh = s.fresh := by unfold State.modInst; split <;> rfl
@[simp] theorem State.modInst_ids (s : State) (i : Nat) (f : Inst → Inst) : (s.modInst i f).ids = s.ids := by unfold State.modInst; split <;> rfl
@[simp] theorem State.modInst_actor (s : State) (i : Nat) (f : Inst → Inst) : (s.modInst i f).actor = s.actor := by unfold State.modInst; split <;> rfl
@[simp] theorem State.modInst_agenda (s : State) (i : Nat) (f : Inst → Inst) : (s.modInst i f).agenda = s.agenda := by unfold State.modInst; split <;> rfl
@[simp] theorem State.modInst_dev (s : State) (i : Nat) (f : Inst → Inst) : (s.modInst i f).dev = s.dev := by unfold State.modInst; split <;> rfl
@[simp] theorem State.modInst_mem (s : State) (i : Nat) (f : Inst → Inst) : (s.modInst i f).mem = s.mem := by unfold State.modInst; split <;> rfl
@[simp] theorem State.modInst_poison (s : State) (i : Nat) (f : Inst → Inst) : (s.modInst i f).poison = s.poison := by unfold State.modInst; split <;> rfl
@[simp] theorem State.modInst_scr (s : State) (i : Nat) (f : Inst → Inst) : (s.modInst i f).scr = s.scr := by unfold State.modInst; split <;> rfl
@[simp] theorem State.modInst_ctxs (s : State) (i : Nat) (f : Inst → Inst) : (s.modInst i f).ctxs = s.ctxs := by unfold State.modInst; split <;> rfl
@[simp] theorem State.modInst_parts (s : State) (i : Nat) (f : Inst → Inst) : (s.modInst i f).parts = s.parts := by unfold State.modInst; split <;> rfl
@[simp] theorem State.modInst_segs (s : State) (i : Nat) (f : Inst → Inst) : (s.modInst i f).segs = s.segs := by unfold State.modInst; split <;> rfl
@[simp] theorem State.modInst_launches (s : State) (i : Nat) (f : Inst → Inst) : (s.modInst i f).launches = s.launches := by unfold State.modInst; split <;> rfl
@[simp] theorem State.modInst_syncOps (s : State) (i : Nat) (f : Inst → Inst) : (s.modInst i f).syncOps = s.syncOps := by unfold State.modInst; split <;> rfl
@[simp] theorem State.modInst_engineFree (s : State) (i : Nat) (f : Inst → Inst) : (s.modInst i f).engineFree = s.engineFree := by unfold State.modInst; split <;> rfl
@[simp] theorem State.modInst_baton (s : State) (i : Nat) (f : Inst → Inst) : (s.modInst i f).baton = s.baton := by unfold State.modInst; split <;> rfl
@[simp] theorem State.modInst_batonQ (s : State) (i : Nat) (f : Inst → Inst) : (s.modInst i f).batonQ = s.batonQ := by unfold State.modInst; split <;> rfl
@[simp] theorem State.modInst_bells (s : State) (i : Nat) (f : Inst → Inst) : (s.modInst i f).bells = s.bells := by unfold State.modInst; split <;> rfl
@[simp] theorem State.modInst_farWrites (s : State) (i : Nat) (f : Inst → Inst) : (s.modInst i f).farWrites = s.farWrites := by unfold State.modInst; split <;> rfl
@[simp] theorem State.modInst_farReads (s : State) (i : Nat) (f : Inst → Inst) : (s.modInst i f).farReads = s.farReads := by unfold State.modInst; split <;> rfl
@[simp] theorem State.modInst_commands (s : State) (i : Nat) (f : Inst → Inst) : (s.modInst i f).commands = s.commands := by unfold State.modInst; split <;> rfl
@[simp] theorem State.modInst_queueOps (s : State) (i : Nat) (f : Inst → Inst) : (s.modInst i f).queueOps = s.queueOps := by unfold State.modInst; split <;> rfl
@[simp] theorem State.modInst_limiters (s : State) (i : Nat) (f : Inst → Inst) : (s.modInst i f).limiters = s.limiters := by unfold State.modInst; split <;> rfl
@[simp] theorem State.modInst_caches (s : State) (i : Nat) (f : Inst → Inst) : (s.modInst i f).caches = s.caches := by unfold State.modInst; split <;> rfl
@[simp] theorem State.modInst_colls (s : State) (i : Nat) (f : Inst → Inst) : (s.modInst i f).colls = s.colls := by unfold State.modInst; split <;> rfl
@[simp] theorem State.modInst_collCounts (s : State) (i : Nat) (f : Inst → Inst) : (s.modInst i f).collCounts = s.collCounts := by unfold State.modInst; split <;> rfl
@[simp] theorem State.modInst_trapped (s : State) (i : Nat) (f : Inst → Inst) : (s.modInst i f).trapped = s.trapped := by unfold State.modInst; split <;> rfl
@[simp] theorem State.modInst_ending (s : State) (i : Nat) (f : Inst → Inst) : (s.modInst i f).ending = s.ending := by unfold State.modInst; split <;> rfl

/-! ## `State.modSeg` -/

@[simp] theorem State.modSeg_clk (s : State) (g : Nat) (f : Segment → Segment) : (s.modSeg g f).clk = s.clk := by unfold State.modSeg; split <;> rfl
@[simp] theorem State.modSeg_fresh (s : State) (g : Nat) (f : Segment → Segment) : (s.modSeg g f).fresh = s.fresh := by unfold State.modSeg; split <;> rfl
@[simp] theorem State.modSeg_ids (s : State) (g : Nat) (f : Segment → Segment) : (s.modSeg g f).ids = s.ids := by unfold State.modSeg; split <;> rfl
@[simp] theorem State.modSeg_actor (s : State) (g : Nat) (f : Segment → Segment) : (s.modSeg g f).actor = s.actor := by unfold State.modSeg; split <;> rfl
@[simp] theorem State.modSeg_agenda (s : State) (g : Nat) (f : Segment → Segment) : (s.modSeg g f).agenda = s.agenda := by unfold State.modSeg; split <;> rfl
@[simp] theorem State.modSeg_dev (s : State) (g : Nat) (f : Segment → Segment) : (s.modSeg g f).dev = s.dev := by unfold State.modSeg; split <;> rfl
@[simp] theorem State.modSeg_mem (s : State) (g : Nat) (f : Segment → Segment) : (s.modSeg g f).mem = s.mem := by unfold State.modSeg; split <;> rfl
@[simp] theorem State.modSeg_poison (s : State) (g : Nat) (f : Segment → Segment) : (s.modSeg g f).poison = s.poison := by unfold State.modSeg; split <;> rfl
@[simp] theorem State.modSeg_scr (s : State) (g : Nat) (f : Segment → Segment) : (s.modSeg g f).scr = s.scr := by unfold State.modSeg; split <;> rfl
@[simp] theorem State.modSeg_ctxs (s : State) (g : Nat) (f : Segment → Segment) : (s.modSeg g f).ctxs = s.ctxs := by unfold State.modSeg; split <;> rfl
@[simp] theorem State.modSeg_parts (s : State) (g : Nat) (f : Segment → Segment) : (s.modSeg g f).parts = s.parts := by unfold State.modSeg; split <;> rfl
@[simp] theorem State.modSeg_insts (s : State) (g : Nat) (f : Segment → Segment) : (s.modSeg g f).insts = s.insts := by unfold State.modSeg; split <;> rfl
@[simp] theorem State.modSeg_launches (s : State) (g : Nat) (f : Segment → Segment) : (s.modSeg g f).launches = s.launches := by unfold State.modSeg; split <;> rfl
@[simp] theorem State.modSeg_syncOps (s : State) (g : Nat) (f : Segment → Segment) : (s.modSeg g f).syncOps = s.syncOps := by unfold State.modSeg; split <;> rfl
@[simp] theorem State.modSeg_engineFree (s : State) (g : Nat) (f : Segment → Segment) : (s.modSeg g f).engineFree = s.engineFree := by unfold State.modSeg; split <;> rfl
@[simp] theorem State.modSeg_baton (s : State) (g : Nat) (f : Segment → Segment) : (s.modSeg g f).baton = s.baton := by unfold State.modSeg; split <;> rfl
@[simp] theorem State.modSeg_batonQ (s : State) (g : Nat) (f : Segment → Segment) : (s.modSeg g f).batonQ = s.batonQ := by unfold State.modSeg; split <;> rfl
@[simp] theorem State.modSeg_bells (s : State) (g : Nat) (f : Segment → Segment) : (s.modSeg g f).bells = s.bells := by unfold State.modSeg; split <;> rfl
@[simp] theorem State.modSeg_farWrites (s : State) (g : Nat) (f : Segment → Segment) : (s.modSeg g f).farWrites = s.farWrites := by unfold State.modSeg; split <;> rfl
@[simp] theorem State.modSeg_farReads (s : State) (g : Nat) (f : Segment → Segment) : (s.modSeg g f).farReads = s.farReads := by unfold State.modSeg; split <;> rfl
@[simp] theorem State.modSeg_commands (s : State) (g : Nat) (f : Segment → Segment) : (s.modSeg g f).commands = s.commands := by unfold State.modSeg; split <;> rfl
@[simp] theorem State.modSeg_queueOps (s : State) (g : Nat) (f : Segment → Segment) : (s.modSeg g f).queueOps = s.queueOps := by unfold State.modSeg; split <;> rfl
@[simp] theorem State.modSeg_limiters (s : State) (g : Nat) (f : Segment → Segment) : (s.modSeg g f).limiters = s.limiters := by unfold State.modSeg; split <;> rfl
@[simp] theorem State.modSeg_caches (s : State) (g : Nat) (f : Segment → Segment) : (s.modSeg g f).caches = s.caches := by unfold State.modSeg; split <;> rfl
@[simp] theorem State.modSeg_colls (s : State) (g : Nat) (f : Segment → Segment) : (s.modSeg g f).colls = s.colls := by unfold State.modSeg; split <;> rfl
@[simp] theorem State.modSeg_collCounts (s : State) (g : Nat) (f : Segment → Segment) : (s.modSeg g f).collCounts = s.collCounts := by unfold State.modSeg; split <;> rfl
@[simp] theorem State.modSeg_trapped (s : State) (g : Nat) (f : Segment → Segment) : (s.modSeg g f).trapped = s.trapped := by unfold State.modSeg; split <;> rfl
@[simp] theorem State.modSeg_ending (s : State) (g : Nat) (f : Segment → Segment) : (s.modSeg g f).ending = s.ending := by unfold State.modSeg; split <;> rfl

/-! ## `State.modLaunch` -/

@[simp] theorem State.modLaunch_clk (s : State) (l : Nat) (f : Launch → Launch) : (s.modLaunch l f).clk = s.clk := by unfold State.modLaunch; split <;> rfl
@[simp] theorem State.modLaunch_fresh (s : State) (l : Nat) (f : Launch → Launch) : (s.modLaunch l f).fresh = s.fresh := by unfold State.modLaunch; split <;> rfl
@[simp] theorem State.modLaunch_ids (s : State) (l : Nat) (f : Launch → Launch) : (s.modLaunch l f).ids = s.ids := by unfold State.modLaunch; split <;> rfl
@[simp] theorem State.modLaunch_actor (s : State) (l : Nat) (f : Launch → Launch) : (s.modLaunch l f).actor = s.actor := by unfold State.modLaunch; split <;> rfl
@[simp] theorem State.modLaunch_agenda (s : State) (l : Nat) (f : Launch → Launch) : (s.modLaunch l f).agenda = s.agenda := by unfold State.modLaunch; split <;> rfl
@[simp] theorem State.modLaunch_dev (s : State) (l : Nat) (f : Launch → Launch) : (s.modLaunch l f).dev = s.dev := by unfold State.modLaunch; split <;> rfl
@[simp] theorem State.modLaunch_mem (s : State) (l : Nat) (f : Launch → Launch) : (s.modLaunch l f).mem = s.mem := by unfold State.modLaunch; split <;> rfl
@[simp] theorem State.modLaunch_poison (s : State) (l : Nat) (f : Launch → Launch) : (s.modLaunch l f).poison = s.poison := by unfold State.modLaunch; split <;> rfl
@[simp] theorem State.modLaunch_scr (s : State) (l : Nat) (f : Launch → Launch) : (s.modLaunch l f).scr = s.scr := by unfold State.modLaunch; split <;> rfl
@[simp] theorem State.modLaunch_ctxs (s : State) (l : Nat) (f : Launch → Launch) : (s.modLaunch l f).ctxs = s.ctxs := by unfold State.modLaunch; split <;> rfl
@[simp] theorem State.modLaunch_parts (s : State) (l : Nat) (f : Launch → Launch) : (s.modLaunch l f).parts = s.parts := by unfold State.modLaunch; split <;> rfl
@[simp] theorem State.modLaunch_insts (s : State) (l : Nat) (f : Launch → Launch) : (s.modLaunch l f).insts = s.insts := by unfold State.modLaunch; split <;> rfl
@[simp] theorem State.modLaunch_segs (s : State) (l : Nat) (f : Launch → Launch) : (s.modLaunch l f).segs = s.segs := by unfold State.modLaunch; split <;> rfl
@[simp] theorem State.modLaunch_syncOps (s : State) (l : Nat) (f : Launch → Launch) : (s.modLaunch l f).syncOps = s.syncOps := by unfold State.modLaunch; split <;> rfl
@[simp] theorem State.modLaunch_engineFree (s : State) (l : Nat) (f : Launch → Launch) : (s.modLaunch l f).engineFree = s.engineFree := by unfold State.modLaunch; split <;> rfl
@[simp] theorem State.modLaunch_baton (s : State) (l : Nat) (f : Launch → Launch) : (s.modLaunch l f).baton = s.baton := by unfold State.modLaunch; split <;> rfl
@[simp] theorem State.modLaunch_batonQ (s : State) (l : Nat) (f : Launch → Launch) : (s.modLaunch l f).batonQ = s.batonQ := by unfold State.modLaunch; split <;> rfl
@[simp] theorem State.modLaunch_bells (s : State) (l : Nat) (f : Launch → Launch) : (s.modLaunch l f).bells = s.bells := by unfold State.modLaunch; split <;> rfl
@[simp] theorem State.modLaunch_farWrites (s : State) (l : Nat) (f : Launch → Launch) : (s.modLaunch l f).farWrites = s.farWrites := by unfold State.modLaunch; split <;> rfl
@[simp] theorem State.modLaunch_farReads (s : State) (l : Nat) (f : Launch → Launch) : (s.modLaunch l f).farReads = s.farReads := by unfold State.modLaunch; split <;> rfl
@[simp] theorem State.modLaunch_commands (s : State) (l : Nat) (f : Launch → Launch) : (s.modLaunch l f).commands = s.commands := by unfold State.modLaunch; split <;> rfl
@[simp] theorem State.modLaunch_queueOps (s : State) (l : Nat) (f : Launch → Launch) : (s.modLaunch l f).queueOps = s.queueOps := by unfold State.modLaunch; split <;> rfl
@[simp] theorem State.modLaunch_limiters (s : State) (l : Nat) (f : Launch → Launch) : (s.modLaunch l f).limiters = s.limiters := by unfold State.modLaunch; split <;> rfl
@[simp] theorem State.modLaunch_caches (s : State) (l : Nat) (f : Launch → Launch) : (s.modLaunch l f).caches = s.caches := by unfold State.modLaunch; split <;> rfl
@[simp] theorem State.modLaunch_colls (s : State) (l : Nat) (f : Launch → Launch) : (s.modLaunch l f).colls = s.colls := by unfold State.modLaunch; split <;> rfl
@[simp] theorem State.modLaunch_collCounts (s : State) (l : Nat) (f : Launch → Launch) : (s.modLaunch l f).collCounts = s.collCounts := by unfold State.modLaunch; split <;> rfl
@[simp] theorem State.modLaunch_trapped (s : State) (l : Nat) (f : Launch → Launch) : (s.modLaunch l f).trapped = s.trapped := by unfold State.modLaunch; split <;> rfl
@[simp] theorem State.modLaunch_ending (s : State) (l : Nat) (f : Launch → Launch) : (s.modLaunch l f).ending = s.ending := by unfold State.modLaunch; split <;> rfl

/-! ## `State.modPart` -/

@[simp] theorem State.modPart_clk (s : State) (p : Nat) (f : Part → Part) : (s.modPart p f).clk = s.clk := by unfold State.modPart; split <;> rfl
@[simp] theorem State.modPart_fresh (s : State) (p : Nat) (f : Part → Part) : (s.modPart p f).fresh = s.fresh := by unfold State.modPart; split <;> rfl
@[simp] theorem State.modPart_ids (s : State) (p : Nat) (f : Part → Part) : (s.modPart p f).ids = s.ids := by unfold State.modPart; split <;> rfl
@[simp] theorem State.modPart_actor (s : State) (p : Nat) (f : Part → Part) : (s.modPart p f).actor = s.actor := by unfold State.modPart; split <;> rfl
@[simp] theorem State.modPart_agenda (s : State) (p : Nat) (f : Part → Part) : (s.modPart p f).agenda = s.agenda := by unfold State.modPart; split <;> rfl
@[simp] theorem State.modPart_dev (s : State) (p : Nat) (f : Part → Part) : (s.modPart p f).dev = s.dev := by unfold State.modPart; split <;> rfl
@[simp] theorem State.modPart_mem (s : State) (p : Nat) (f : Part → Part) : (s.modPart p f).mem = s.mem := by unfold State.modPart; split <;> rfl
@[simp] theorem State.modPart_poison (s : State) (p : Nat) (f : Part → Part) : (s.modPart p f).poison = s.poison := by unfold State.modPart; split <;> rfl
@[simp] theorem State.modPart_scr (s : State) (p : Nat) (f : Part → Part) : (s.modPart p f).scr = s.scr := by unfold State.modPart; split <;> rfl
@[simp] theorem State.modPart_ctxs (s : State) (p : Nat) (f : Part → Part) : (s.modPart p f).ctxs = s.ctxs := by unfold State.modPart; split <;> rfl
@[simp] theorem State.modPart_insts (s : State) (p : Nat) (f : Part → Part) : (s.modPart p f).insts = s.insts := by unfold State.modPart; split <;> rfl
@[simp] theorem State.modPart_segs (s : State) (p : Nat) (f : Part → Part) : (s.modPart p f).segs = s.segs := by unfold State.modPart; split <;> rfl
@[simp] theorem State.modPart_launches (s : State) (p : Nat) (f : Part → Part) : (s.modPart p f).launches = s.launches := by unfold State.modPart; split <;> rfl
@[simp] theorem State.modPart_syncOps (s : State) (p : Nat) (f : Part → Part) : (s.modPart p f).syncOps = s.syncOps := by unfold State.modPart; split <;> rfl
@[simp] theorem State.modPart_engineFree (s : State) (p : Nat) (f : Part → Part) : (s.modPart p f).engineFree = s.engineFree := by unfold State.modPart; split <;> rfl
@[simp] theorem State.modPart_baton (s : State) (p : Nat) (f : Part → Part) : (s.modPart p f).baton = s.baton := by unfold State.modPart; split <;> rfl
@[simp] theorem State.modPart_batonQ (s : State) (p : Nat) (f : Part → Part) : (s.modPart p f).batonQ = s.batonQ := by unfold State.modPart; split <;> rfl
@[simp] theorem State.modPart_bells (s : State) (p : Nat) (f : Part → Part) : (s.modPart p f).bells = s.bells := by unfold State.modPart; split <;> rfl
@[simp] theorem State.modPart_farWrites (s : State) (p : Nat) (f : Part → Part) : (s.modPart p f).farWrites = s.farWrites := by unfold State.modPart; split <;> rfl
@[simp] theorem State.modPart_farReads (s : State) (p : Nat) (f : Part → Part) : (s.modPart p f).farReads = s.farReads := by unfold State.modPart; split <;> rfl
@[simp] theorem State.modPart_commands (s : State) (p : Nat) (f : Part → Part) : (s.modPart p f).commands = s.commands := by unfold State.modPart; split <;> rfl
@[simp] theorem State.modPart_queueOps (s : State) (p : Nat) (f : Part → Part) : (s.modPart p f).queueOps = s.queueOps := by unfold State.modPart; split <;> rfl
@[simp] theorem State.modPart_limiters (s : State) (p : Nat) (f : Part → Part) : (s.modPart p f).limiters = s.limiters := by unfold State.modPart; split <;> rfl
@[simp] theorem State.modPart_caches (s : State) (p : Nat) (f : Part → Part) : (s.modPart p f).caches = s.caches := by unfold State.modPart; split <;> rfl
@[simp] theorem State.modPart_colls (s : State) (p : Nat) (f : Part → Part) : (s.modPart p f).colls = s.colls := by unfold State.modPart; split <;> rfl
@[simp] theorem State.modPart_collCounts (s : State) (p : Nat) (f : Part → Part) : (s.modPart p f).collCounts = s.collCounts := by unfold State.modPart; split <;> rfl
@[simp] theorem State.modPart_trapped (s : State) (p : Nat) (f : Part → Part) : (s.modPart p f).trapped = s.trapped := by unfold State.modPart; split <;> rfl
@[simp] theorem State.modPart_ending (s : State) (p : Nat) (f : Part → Part) : (s.modPart p f).ending = s.ending := by unfold State.modPart; split <;> rfl

/-! ## What was set is read -/

/-- An instance that was set. -/
@[simp] theorem State.setInst_inst? (s : State) (i : Nat) (v : Inst) : (s.setInst i v).inst? i = some v := lookupA_putA_self ..

/-- Another instance than the one set. -/
theorem State.setInst_inst?_of_ne (s : State) (i j : Nat) (v : Inst) (h : j ≠ i) : (s.setInst i v).inst? j = s.inst? j :=
  lookupA_putA_of_ne _ _ _ _ h

/-- Of two settings of an instance the later stands. -/
@[simp] theorem State.setInst_setInst (s : State) (i : Nat) (v w : Inst) : (s.setInst i v).setInst i w = s.setInst i w := by
  simp [State.setInst]

/-- Changing an instance that was set sets the changed one. -/
@[simp] theorem State.modInst_setInst (s : State) (i : Nat) (v : Inst) (f : Inst → Inst) :
    (s.setInst i v).modInst i f = s.setInst i (f v) := by simp [State.modInst]

/-- Changing an instance that lives. -/
theorem State.modInst_of_some {s : State} {i : Nat} {v : Inst} (h : s.inst? i = some v) (f : Inst → Inst) :
    s.modInst i f = s.setInst i (f v) := by simp [State.modInst, h]

/-- Changing another instance. -/
theorem State.modInst_inst?_of_ne (s : State) (i j : Nat) (f : Inst → Inst) (h : j ≠ i) : (s.modInst i f).inst? j = s.inst? j := by
  unfold State.modInst; split
  · exact State.setInst_inst?_of_ne _ _ _ _ h
  · rfl

/-- An instance is not touched by an update of the fields beside it. -/
@[simp] theorem State.modCtx_inst? (s : State) (c i : Nat) (f : Ctx → Ctx) : (s.modCtx c f).inst? i = s.inst? i := rfl
@[simp] theorem State.modCell_inst? (s : State) (c k i : Nat) (f : CellCtx → CellCtx) : (s.modCell c k f).inst? i = s.inst? i := rfl
@[simp] theorem State.schedule_inst? (s : State) (a : Nat) (e : Instr) (i : Nat) : (s.schedule a e).inst? i = s.inst? i := rfl

end Sys2Proof.Machine
end

