-- ==== Sys2Proof/Laws/Ops.lean ====
section
/-!
SUPPORT. Laws/Ops.lean: what the shared operations can do: issuing an instruction, settling its effect, an effect on registers, and
taking a trap.
-/

namespace Sys2Proof.Machine

open Sys2Proof.Claims

/-! ## Issuing -/

/-- What an issue says, taken apart. -/
theorem issues_iff {i : Instr} {s : State} {id : Nat} {v : Inst} : issues i s id v = true ↔
    s.actor = some id ∧ s.inst? id = some v ∧ (v.committed && !tailAllows (primaryOf i) (s.recordMode v)) = false ∧
      (usesOf i).reads.any v.regs.isFreed = false := by
  unfold issues
  cases v.committed <;> simp [and_assoc]

/-- An instruction that issues answers what its effect comes to. -/
theorem issue_eq {i : Instr} {eff : State → Nat → Inst → Done} {s : State} {id : Nat} {v : Inst}
    (h : issues i s id v = true) : issue i eff s = (eff s id v).outcome i id v s := by
  obtain ⟨ha, hl, hc, hr⟩ := issues_iff.mp h
  unfold issue
  simp only [ha, hl, hc, hr]
  rfl

/-- All that an issue can answer: no issuer, a post-commit or freed-register trap, or the effect. -/
theorem issue_cases {i : Instr} {eff : State → Nat → Inst → Done} {s : State} {o : Host.Outcome State Fault Refusal}
    (h : issue i eff s = o) :
    o = .refused .noIssuer ∨ ∃ id v, s.actor = some id ∧ s.inst? id = some v ∧
      (o = .next (s.takeTrap id (trapOf stPostCommit 0)) ∨ o = .next (s.takeTrap id (trapOf stFreed 0)) ∨
        (issues i s id v = true ∧ o = (eff s id v).outcome i id v s)) := by
  unfold issue at h
  split at h
  · exact .inl h.symm
  · next id ha =>
    split at h
    · exact .inl h.symm
    · next v hv =>
      refine .inr ⟨id, v, ha, hv, ?_⟩
      split at h
      · exact .inl h.symm
      · next hc =>
        split at h
        · exact .inr (.inl h.symm)
        · next hr =>
          exact .inr (.inr ⟨issues_iff.mpr ⟨ha, hv, Bool.eq_false_iff.mpr hc, Bool.eq_false_iff.mpr hr⟩, h.symm⟩)

/-- The effect on registers alone. -/
theorem issue_regEffect {i : Instr} {latency : Nat} {f : Inst → Regs} {s : State} {id : Nat} {v : Inst}
    (h : issues i s id v = true) :
    issue i (regEffect latency f) s = .next (retired i s id { v with regs := f v } latency) := by
  rw [issue_eq h]
  simp [regEffect, Done.outcome, settle, retired, completed]

/-- An effect that completes. -/
theorem issue_next {i : Instr} {eff : State → Nat → Inst → Done} {s t : State} {id latency : Nat} {v : Inst}
    (h : issues i s id v = true) (he : eff s id v = .next t latency) :
    issue i eff s = .next (t.modInst id fun w => completed i t.clk w latency) := by
  rw [issue_eq h, he]; rfl

/-- An effect that raises a trap. -/
theorem issue_trap {i : Instr} {eff : State → Nat → Inst → Done} {s t : State} {id : Nat} {v : Inst} {k : TrapInfo}
    (h : issues i s id v = true) (he : eff s id v = .trap t k) : issue i eff s = .next (t.takeTrap id k) := by
  rw [issue_eq h, he]; rfl

/-! ## Completing -/

/-- Away from the end of a loop the next index follows, and the loop counters stand (07 R153). -/
theorem loopEnd_of_ne (r : Regs) (next : Nat) (h : ∀ e ∈ r.loops.head?, next ≠ e.stop) : loopEnd r next r.loops = (r, next) := by
  obtain ⟨x, v, k, lc, loops, a, b, c⟩ := r
  cases loops with
  | nil => rfl
  | cons e es =>
    have := h e (by simp)
    simp [loopEnd, this]

/-- The loop-end test changes loop counters and the loop stack alone. -/
theorem loopEnd_regs (r : Regs) (next : Nat) (ls : List LoopEntry) :
    (loopEnd r next ls).1.x = r.x ∧ (loopEnd r next ls).1.v = r.v ∧ (loopEnd r next ls).1.k = r.k ∧
      (loopEnd r next ls).1.freedX = r.freedX ∧ (loopEnd r next ls).1.freedV = r.freedV ∧ (loopEnd r next ls).1.freedK = r.freedK := by
  induction ls generalizing r with
  | nil => simp [loopEnd]
  | cons e es ih =>
    have set (n : Nat) (w : Lane) : (r.setLc n w).x = r.x ∧ (r.setLc n w).v = r.v ∧ (r.setLc n w).k = r.k ∧
        (r.setLc n w).freedX = r.freedX ∧ (r.setLc n w).freedV = r.freedV ∧ (r.setLc n w).freedK = r.freedK := by
      unfold Regs.setLc; split <;> simp
    unfold loopEnd
    split
    · dsimp only
      split
      · simpa using set e.ctr _
      · have := ih (r.setLc e.ctr (r.getLc e.ctr - 1#32))
        have hs := set e.ctr (r.getLc e.ctr - 1#32)
        refine ⟨?_, ?_, ?_, ?_, ?_, ?_⟩
        · exact this.1.trans hs.1
        · exact this.2.1.trans hs.2.1
        · exact this.2.2.1.trans hs.2.2.1
        · exact this.2.2.2.1.trans hs.2.2.2.1
        · exact this.2.2.2.2.1.trans hs.2.2.2.2.1
        · exact this.2.2.2.2.2.trans hs.2.2.2.2.2
    · simp

/-- Freeing a register changes the freed flags alone (06 R124). -/
theorem Regs.free_values (r : Regs) (q : RegClass × Nat) :
    (r.free q).x = r.x ∧ (r.free q).v = r.v ∧ (r.free q).k = r.k ∧ (r.free q).lc = r.lc ∧ (r.free q).loops = r.loops := by
  unfold Regs.free
  split
  · simp
  · split <;> simp

/-- Freeing registers changes the freed flags alone (06 R124). -/
theorem freeAll_values (r : Regs) (qs : List (RegClass × Nat)) :
    (freeAll r qs).x = r.x ∧ (freeAll r qs).v = r.v ∧ (freeAll r qs).k = r.k ∧ (freeAll r qs).lc = r.lc ∧
      (freeAll r qs).loops = r.loops := by
  induction qs generalizing r with
  | nil => simp [freeAll]
  | cons q qs ih =>
    have h := Regs.free_values r q
    have := ih (r.free q)
    refine ⟨this.1.trans h.1, this.2.1.trans h.2.1, this.2.2.1.trans h.2.2.1, this.2.2.2.1.trans h.2.2.2.1,
      this.2.2.2.2.trans h.2.2.2.2⟩

/-! ## What is left undefined (02 R51; 13 R302) -/

/-- The discarded writes of an instance change scratch, in canonical form, and the count of free values alone. -/
theorem blurWrites_frame (s : State) (v : Inst) : s.blurWrites v = { s with fresh := (s.blurWrites v).fresh, scr := (s.blurWrites v).scr } ∧
    (Memory.wf s.scr = true → Memory.wf (s.blurWrites v).scr = true) := by
  unfold State.blurWrites
  split
  · exact ⟨rfl, id⟩
  · refine ⟨rfl, fun h => ?_⟩
    dsimp only
    generalize v.stage.wrote = rs
    revert h
    generalize s.scr = m
    intro h
    induction rs generalizing m with
    | nil => exact h
    | cons r rs ih => exact ih _ (writeBytes_wf h _ _)

/-- What a standard application leaves in ring 15 changes scratch, in canonical form, its context and the count of free values alone. -/
theorem leaveRing_frame (s : State) (c cell : Nat) : ∃ n m xs, s.leaveRing c cell = { s with fresh := n, scr := m, ctxs := xs } ∧
    (Memory.wf s.scr = true → Memory.wf m = true) := by
  unfold State.leaveRing
  simp only
  split
  · exact ⟨_, s.scr, s.ctxs, rfl, id⟩
  · refine ⟨_, _, _, rfl, fun h => ?_⟩
    exact writeBytes_wf h _ _

end Sys2Proof.Machine
end

