-- ==== Sys2Proof/Laws/PerInstr.lean ====
section
/-!
SUPPORT. Laws/PerInstr.lean: one fact per constructor of `Instr`: the opcode map of 06 R132 in both directions.
-/

namespace Sys2Proof.Laws.Opcode

open Sys2Proof

/-- The format of the fields. -/
def fmt : Form → Fmt
  | .r _ => .r | .i _ => .i | .m _ => .m | .l _ => .l | .q _ => .q | .z _ => .z

/-- The instruction that a primary opcode and the fields of its format stand for. -/
def instruction (p : Nat) : Form → Option Instr
  | .r f => ofPrimaryR p f | .i f => ofPrimaryI p f | .m f => ofPrimaryM p f | .l f => ofPrimaryL p f | .q f => ofPrimaryQ p f
  | .z f => ofPrimaryZ p f

/-- A lesson instruction has a primary opcode of 8 bits, whose format by R132 is that of its fields, and the two stand for it; an
event of the device has neither. -/
def Statement (i : Instr) : Prop :=
  match i.parts with
  | some (p, f) => p < 256 ∧ fmtOf p = some (fmt f) ∧ instruction p f = some i
  | none => True

theorem add (f : RForm) : Statement (.add f) := ⟨by decide, rfl, rfl⟩
theorem sub (f : RForm) : Statement (.sub f) := ⟨by decide, rfl, rfl⟩
theorem mul (f : RForm) : Statement (.mul f) := ⟨by decide, rfl, rfl⟩
theorem mulh (f : RForm) : Statement (.mulh f) := ⟨by decide, rfl, rfl⟩
theorem div (f : RForm) : Statement (.div f) := ⟨by decide, rfl, rfl⟩
theorem rem (f : RForm) : Statement (.rem f) := ⟨by decide, rfl, rfl⟩
theorem and (f : RForm) : Statement (.and f) := ⟨by decide, rfl, rfl⟩
theorem or (f : RForm) : Statement (.or f) := ⟨by decide, rfl, rfl⟩
theorem xor (f : RForm) : Statement (.xor f) := ⟨by decide, rfl, rfl⟩
theorem shl (f : RForm) : Statement (.shl f) := ⟨by decide, rfl, rfl⟩
theorem shr (f : RForm) : Statement (.shr f) := ⟨by decide, rfl, rfl⟩
theorem cmpset (f : RForm) : Statement (.cmpset f) := ⟨by decide, rfl, rfl⟩
theorem sel (f : RForm) : Statement (.sel f) := ⟨by decide, rfl, rfl⟩
theorem min (f : RForm) : Statement (.min f) := ⟨by decide, rfl, rfl⟩
theorem max (f : RForm) : Statement (.max f) := ⟨by decide, rfl, rfl⟩
theorem adda (f : RForm) : Statement (.adda f) := ⟨by decide, rfl, rfl⟩
theorem addi (f : IForm) : Statement (.addi f) := ⟨by decide, rfl, rfl⟩
theorem muli (f : IForm) : Statement (.muli f) := ⟨by decide, rfl, rfl⟩
theorem li (f : IForm) : Statement (.li f) := ⟨by decide, rfl, rfl⟩
theorem lih (f : IForm) : Statement (.lih f) := ⟨by decide, rfl, rfl⟩
theorem andi (f : IForm) : Statement (.andi f) := ⟨by decide, rfl, rfl⟩
theorem ori (f : IForm) : Statement (.ori f) := ⟨by decide, rfl, rfl⟩
theorem xori (f : IForm) : Statement (.xori f) := ⟨by decide, rfl, rfl⟩
theorem shli (f : IForm) : Statement (.shli f) := ⟨by decide, rfl, rfl⟩
theorem shri (f : IForm) : Statement (.shri f) := ⟨by decide, rfl, rfl⟩
theorem cmpseti (f : IForm) : Statement (.cmpseti f) := ⟨by decide, rfl, rfl⟩
theorem rdsr (f : IForm) : Statement (.rdsr f) := ⟨by decide, rfl, rfl⟩
theorem mini (f : IForm) : Statement (.mini f) := ⟨by decide, rfl, rfl⟩
theorem maxi (f : IForm) : Statement (.maxi f) := ⟨by decide, rfl, rfl⟩
theorem addai (f : IForm) : Statement (.addai f) := ⟨by decide, rfl, rfl⟩
theorem b (f : LForm) : Statement (.b f) := ⟨by decide, rfl, rfl⟩
theorem j (f : LForm) : Statement (.j f) := ⟨by decide, rfl, rfl⟩
theorem loop (f : LForm) : Statement (.loop f) := ⟨by decide, rfl, rfl⟩
theorem lexit (f : LForm) : Statement (.lexit f) := ⟨by decide, rfl, rfl⟩
theorem wfill (f : IForm) : Statement (.wfill f) := ⟨by decide, rfl, rfl⟩
theorem wfree (f : IForm) : Statement (.wfree f) := ⟨by decide, rfl, rfl⟩
theorem rdlc (f : RForm) : Statement (.rdlc f) := ⟨by decide, rfl, rfl⟩
theorem kand (f : RForm) : Statement (.kand f) := ⟨by decide, rfl, rfl⟩
theorem kor (f : RForm) : Statement (.kor f) := ⟨by decide, rfl, rfl⟩
theorem kxor (f : RForm) : Statement (.kxor f) := ⟨by decide, rfl, rfl⟩
theorem knot (f : RForm) : Statement (.knot f) := ⟨by decide, rfl, rfl⟩
theorem kmov (f : RForm) : Statement (.kmov f) := ⟨by decide, rfl, rfl⟩
theorem kread (f : RForm) : Statement (.kread f) := ⟨by decide, rfl, rfl⟩
theorem kpop (f : RForm) : Statement (.kpop f) := ⟨by decide, rfl, rfl⟩
theorem kfirst (f : RForm) : Statement (.kfirst f) := ⟨by decide, rfl, rfl⟩
theorem vadd (f : RForm) : Statement (.vadd f) := ⟨by decide, rfl, rfl⟩
theorem vsub (f : RForm) : Statement (.vsub f) := ⟨by decide, rfl, rfl⟩
theorem vmul (f : RForm) : Statement (.vmul f) := ⟨by decide, rfl, rfl⟩
theorem vfma (f : RForm) : Statement (.vfma f) := ⟨by decide, rfl, rfl⟩
theorem vfms (f : RForm) : Statement (.vfms f) := ⟨by decide, rfl, rfl⟩
theorem vfnma (f : RForm) : Statement (.vfnma f) := ⟨by decide, rfl, rfl⟩
theorem vmin (f : RForm) : Statement (.vmin f) := ⟨by decide, rfl, rfl⟩
theorem vmax (f : RForm) : Statement (.vmax f) := ⟨by decide, rfl, rfl⟩
theorem vabs (f : RForm) : Statement (.vabs f) := ⟨by decide, rfl, rfl⟩
theorem vneg (f : RForm) : Statement (.vneg f) := ⟨by decide, rfl, rfl⟩
theorem vand (f : RForm) : Statement (.vand f) := ⟨by decide, rfl, rfl⟩
theorem vor (f : RForm) : Statement (.vor f) := ⟨by decide, rfl, rfl⟩
theorem vxor (f : RForm) : Statement (.vxor f) := ⟨by decide, rfl, rfl⟩
theorem vshl (f : RForm) : Statement (.vshl f) := ⟨by decide, rfl, rfl⟩
theorem vshr (f : RForm) : Statement (.vshr f) := ⟨by decide, rfl, rfl⟩
theorem vclamp (f : RForm) : Statement (.vclamp f) := ⟨by decide, rfl, rfl⟩
theorem vcmp (f : RForm) : Statement (.vcmp f) := ⟨by decide, rfl, rfl⟩
theorem vsel (f : RForm) : Statement (.vsel f) := ⟨by decide, rfl, rfl⟩
theorem vshuf (f : RForm) : Statement (.vshuf f) := ⟨by decide, rfl, rfl⟩
theorem vperm (f : RForm) : Statement (.vperm f) := ⟨by decide, rfl, rfl⟩
theorem vbcast (f : RForm) : Statement (.vbcast f) := ⟨by decide, rfl, rfl⟩
theorem vbcasti (f : IForm) : Statement (.vbcasti f) := ⟨by decide, rfl, rfl⟩
theorem vlane (f : RForm) : Statement (.vlane f) := ⟨by decide, rfl, rfl⟩
theorem vins (f : RForm) : Statement (.vins f) := ⟨by decide, rfl, rfl⟩
theorem vred (f : RForm) : Statement (.vred f) := ⟨by decide, rfl, rfl⟩
theorem vmov (f : RForm) : Statement (.vmov f) := ⟨by decide, rfl, rfl⟩
theorem vsetvalid (f : RForm) : Statement (.vsetvalid f) := ⟨by decide, rfl, rfl⟩
theorem vgetvalid (f : RForm) : Statement (.vgetvalid f) := ⟨by decide, rfl, rfl⟩
theorem vcvt (f : RForm) : Statement (.vcvt f) := ⟨by decide, rfl, rfl⟩
theorem vexp2 (f : RForm) : Statement (.vexp2 f) := ⟨by decide, rfl, rfl⟩
theorem vlog2 (f : RForm) : Statement (.vlog2 f) := ⟨by decide, rfl, rfl⟩
theorem vrcp (f : RForm) : Statement (.vrcp f) := ⟨by decide, rfl, rfl⟩
theorem vrsqrt (f : RForm) : Statement (.vrsqrt f) := ⟨by decide, rfl, rfl⟩
theorem vsigm (f : RForm) : Statement (.vsigm f) := ⟨by decide, rfl, rfl⟩
theorem vtanh (f : RForm) : Statement (.vtanh f) := ⟨by decide, rfl, rfl⟩
theorem vsoftp (f : RForm) : Statement (.vsoftp f) := ⟨by decide, rfl, rfl⟩
theorem vpack (f : RForm) : Statement (.vpack f) := ⟨by decide, rfl, rfl⟩
theorem vunpack (f : RForm) : Statement (.vunpack f) := ⟨by decide, rfl, rfl⟩
theorem wld (f : RForm) : Statement (.wld f) := ⟨by decide, rfl, rfl⟩
theorem wcmp (f : RForm) : Statement (.wcmp f) := ⟨by decide, rfl, rfl⟩
theorem thdr (f : RForm) : Statement (.thdr f) := ⟨by decide, rfl, rfl⟩
theorem mma (f : RForm) : Statement (.mma f) := ⟨by decide, rfl, rfl⟩
theorem mmaAccumulatorReady (inst acc : Nat) : Statement (.mmaAccumulatorReady inst acc) := trivial
theorem gangon (f : RForm) : Statement (.gangon f) := ⟨by decide, rfl, rfl⟩
theorem accrd (f : RForm) : Statement (.accrd f) := ⟨by decide, rfl, rfl⟩
theorem accwr (f : RForm) : Statement (.accwr f) := ⟨by decide, rfl, rfl⟩
theorem acczero (f : RForm) : Statement (.acczero f) := ⟨by decide, rfl, rfl⟩
theorem acccvt (f : RForm) : Statement (.acccvt f) := ⟨by decide, rfl, rfl⟩
theorem quant (f : RForm) : Statement (.quant f) := ⟨by decide, rfl, rfl⟩
theorem quantb (f : RForm) : Statement (.quantb f) := ⟨by decide, rfl, rfl⟩
theorem tew (f : RForm) : Statement (.tew f) := ⟨by decide, rfl, rfl⟩
theorem settle (f : RForm) : Statement (.settle f) := ⟨by decide, rfl, rfl⟩
theorem talloc (f : RForm) : Statement (.talloc f) := ⟨by decide, rfl, rfl⟩
theorem tfree (f : RForm) : Statement (.tfree f) := ⟨by decide, rfl, rfl⟩
theorem sred (f : QForm) : Statement (.sred f) := ⟨by decide, rfl, rfl⟩
theorem sscan (f : QForm) : Statement (.sscan f) := ⟨by decide, rfl, rfl⟩
theorem scav (f : QForm) : Statement (.scav f) := ⟨by decide, rfl, rfl⟩
theorem sbcast (f : QForm) : Statement (.sbcast f) := ⟨by decide, rfl, rfl⟩
theorem srank (f : QForm) : Statement (.srank f) := ⟨by decide, rfl, rfl⟩
theorem sweepResult (seg k : Nat) : Statement (.sweepResult seg k) := trivial
theorem fwd (f : QForm) : Statement (.fwd f) := ⟨by decide, rfl, rfl⟩
theorem rcv (f : QForm) : Statement (.rcv f) := ⟨by decide, rfl, rfl⟩
theorem neighbourArrival (inst : Nat) (fromLeft : Bool) (v : VecVal) : Statement (.neighbourArrival inst fromLeft v) := trivial
theorem need (f : RForm) : Statement (.need f) := ⟨by decide, rfl, rfl⟩
theorem needSweepComplete (seg : Nat) : Statement (.needSweepComplete seg) := trivial
theorem emit (f : RForm) : Statement (.emit f) := ⟨by decide, rfl, rfl⟩
theorem symrd (f : RForm) : Statement (.symrd f) := ⟨by decide, rfl, rfl⟩
theorem symbld (f : RForm) : Statement (.symbld f) := ⟨by decide, rfl, rfl⟩
theorem symget (f : RForm) : Statement (.symget f) := ⟨by decide, rfl, rfl⟩
theorem unfold (f : RForm) : Statement (.unfold f) := ⟨by decide, rfl, rfl⟩
theorem unfoldRequestArrival (inst q a : Nat) : Statement (.unfoldRequestArrival inst q a) := trivial
theorem park (f : RForm) : Statement (.park f) := ⟨by decide, rfl, rfl⟩
theorem fetch (f : RForm) : Statement (.fetch f) := ⟨by decide, rfl, rfl⟩
theorem vld (f : MForm) : Statement (.vld f) := ⟨by decide, rfl, rfl⟩
theorem vst (f : MForm) : Statement (.vst f) := ⟨by decide, rfl, rfl⟩
theorem sld (f : MForm) : Statement (.sld f) := ⟨by decide, rfl, rfl⟩
theorem sst (f : MForm) : Statement (.sst f) := ⟨by decide, rfl, rfl⟩
theorem vgath (f : RForm) : Statement (.vgath f) := ⟨by decide, rfl, rfl⟩
theorem vscat (f : RForm) : Statement (.vscat f) := ⟨by decide, rfl, rfl⟩
theorem rpush (f : IForm) : Statement (.rpush f) := ⟨by decide, rfl, rfl⟩
theorem rpop (f : IForm) : Statement (.rpop f) := ⟨by decide, rfl, rfl⟩
theorem ratom (f : MForm) : Statement (.ratom f) := ⟨by decide, rfl, rfl⟩
theorem tld (f : RForm) : Statement (.tld f) := ⟨by decide, rfl, rfl⟩
theorem rinit (f : IForm) : Statement (.rinit f) := ⟨by decide, rfl, rfl⟩
theorem copy (f : MForm) : Statement (.copy f) := ⟨by decide, rfl, rfl⟩
theorem copyred (f : MForm) : Statement (.copyred f) := ⟨by decide, rfl, rfl⟩
theorem pref (f : MForm) : Statement (.pref f) := ⟨by decide, rfl, rfl⟩
theorem tsend (f : MForm) : Statement (.tsend f) := ⟨by decide, rfl, rfl⟩
theorem ctrset (f : IForm) : Statement (.ctrset f) := ⟨by decide, rfl, rfl⟩
theorem ctradd (f : IForm) : Statement (.ctradd f) := ⟨by decide, rfl, rfl⟩
theorem ctrrd (f : IForm) : Statement (.ctrrd f) := ⟨by decide, rfl, rfl⟩
theorem ctrwait (f : IForm) : Statement (.ctrwait f) := ⟨by decide, rfl, rfl⟩
theorem smark (f : IForm) : Statement (.smark f) := ⟨by decide, rfl, rfl⟩
theorem fence (f : ZForm) : Statement (.fence f) := ⟨by decide, rfl, rfl⟩
theorem fld (f : MForm) : Statement (.fld f) := ⟨by decide, rfl, rfl⟩
theorem farReadReply (req : Nat) : Statement (.farReadReply req) := trivial
theorem fst (f : MForm) : Statement (.fst f) := ⟨by decide, rfl, rfl⟩
theorem aadd (f : MForm) : Statement (.aadd f) := ⟨by decide, rfl, rfl⟩
theorem amin (f : MForm) : Statement (.amin f) := ⟨by decide, rfl, rfl⟩
theorem amax (f : MForm) : Statement (.amax f) := ⟨by decide, rfl, rfl⟩
theorem axchg (f : MForm) : Statement (.axchg f) := ⟨by decide, rfl, rfl⟩
theorem acas (f : MForm) : Statement (.acas f) := ⟨by decide, rfl, rfl⟩
theorem aand (f : MForm) : Statement (.aand f) := ⟨by decide, rfl, rfl⟩
theorem aor (f : MForm) : Statement (.aor f) := ⟨by decide, rfl, rfl⟩
theorem pacq (f : IForm) : Statement (.pacq f) := ⟨by decide, rfl, rfl⟩
theorem prel (f : IForm) : Statement (.prel f) := ⟨by decide, rfl, rfl⟩
theorem bell (f : IForm) : Statement (.bell f) := ⟨by decide, rfl, rfl⟩
theorem scld (f : MForm) : Statement (.scld f) := ⟨by decide, rfl, rfl⟩
theorem scst (f : MForm) : Statement (.scst f) := ⟨by decide, rfl, rfl⟩
theorem scrmw (f : MForm) : Statement (.scrmw f) := ⟨by decide, rfl, rfl⟩
theorem pqry (f : IForm) : Statement (.pqry f) := ⟨by decide, rfl, rfl⟩
theorem syncOpPerformed (op : Nat) : Statement (.syncOpPerformed op) := trivial
theorem syncReply (op : Nat) : Statement (.syncReply op) := trivial
theorem bellComplete (bell : Nat) : Statement (.bellComplete bell) := trivial
theorem passHandoff (ctx pass : Nat) : Statement (.passHandoff ctx pass) := trivial
theorem batonHop (engine : Nat) : Statement (.batonHop engine) := trivial
theorem logmark (f : RForm) : Statement (.logmark f) := ⟨by decide, rfl, rfl⟩
theorem gacc (f : RForm) : Statement (.gacc f) := ⟨by decide, rfl, rfl⟩
theorem opsave (f : RForm) : Statement (.opsave f) := ⟨by decide, rfl, rfl⟩
theorem oprecomp (f : RForm) : Statement (.oprecomp f) := ⟨by decide, rfl, rfl⟩
theorem logrd (f : RForm) : Statement (.logrd f) := ⟨by decide, rfl, rfl⟩
theorem recq (f : RForm) : Statement (.recq f) := ⟨by decide, rfl, rfl⟩
theorem trap (f : ZForm) : Statement (.trap f) := ⟨by decide, rfl, rfl⟩
theorem syscall (f : ZForm) : Statement (.syscall f) := ⟨by decide, rfl, rfl⟩
theorem cfgrd (f : ZForm) : Statement (.cfgrd f) := ⟨by decide, rfl, rfl⟩
theorem cfgwr (f : ZForm) : Statement (.cfgwr f) := ⟨by decide, rfl, rfl⟩
theorem brk (f : ZForm) : Statement (.brk f) := ⟨by decide, rfl, rfl⟩
theorem pcrd (f : ZForm) : Statement (.pcrd f) := ⟨by decide, rfl, rfl⟩
theorem qpush (f : ZForm) : Statement (.qpush f) := ⟨by decide, rfl, rfl⟩
theorem qpop (f : ZForm) : Statement (.qpop f) := ⟨by decide, rfl, rfl⟩
theorem queueOpArrival (op : Nat) : Statement (.queueOpArrival op) := trivial
theorem sleep (f : ZForm) : Statement (.sleep f) := ⟨by decide, rfl, rfl⟩
theorem evsig (f : ZForm) : Statement (.evsig f) := ⟨by decide, rfl, rfl⟩
theorem rdclk (f : ZForm) : Statement (.rdclk f) := ⟨by decide, rfl, rfl⟩
theorem debugResume (inst : Nat) : Statement (.debugResume inst) := trivial
theorem discoverySweep (slot : Nat) : Statement (.discoverySweep slot) := trivial
theorem shiftWave (slot : Nat) : Statement (.shiftWave slot) := trivial
theorem waveComplete (slot : Nat) : Statement (.waveComplete slot) := trivial
theorem expressionPlaced (launch : Nat) : Statement (.expressionPlaced launch) := trivial
theorem parkWriteComplete (slot : Nat) : Statement (.parkWriteComplete slot) := trivial
theorem unparkComplete (slot : Nat) : Statement (.unparkComplete slot) := trivial
theorem tidyCopyComplete (slot : Nat) : Statement (.tidyCopyComplete slot) := trivial
theorem lessonImageReceived (seg seat : Nat) : Statement (.lessonImageReceived seg seat) := trivial
theorem loadReportsCollected (seg : Nat) : Statement (.loadReportsCollected seg) := trivial
theorem switchBeat (seg : Nat) : Statement (.switchBeat seg) := trivial
theorem segmentCommit (seg : Nat) : Statement (.segmentCommit seg) := trivial
theorem commitComplete (seg : Nat) : Statement (.commitComplete seg) := trivial
theorem completionRecordWrite (launch : Nat) : Statement (.completionRecordWrite launch) := trivial
theorem copyStart (quarter engine : Nat) : Statement (.copyStart quarter engine) := trivial
theorem ringFillEntry (cmd : Nat) : Statement (.ringFillEntry cmd) := trivial
theorem farWritePerformed (w : Nat) : Statement (.farWritePerformed w) := trivial
theorem copyComplete (cmd : Nat) : Statement (.copyComplete cmd) := trivial
theorem counterIncrement (ctx counter : Nat) : Statement (.counterIncrement ctx counter) := trivial
theorem counterUpdateApplied (ctx counter : Nat) (set : Bool) (value : Lane) : Statement (.counterUpdateApplied ctx counter set value) := trivial
theorem peerWriteArrival (w : PeerWrite) : Statement (.peerWriteArrival w) := trivial
theorem agentAppend (ctx queue : Nat) (rec : List Word) : Statement (.agentAppend ctx queue rec) := trivial
theorem preemptDecision (slot : Nat) : Statement (.preemptDecision slot) := trivial
theorem turnExpiry (slot : Nat) : Statement (.turnExpiry slot) := trivial
theorem preemptionTimeout (slot began : Nat) : Statement (.preemptionTimeout slot began) := trivial
theorem waitTimeout (inst began : Nat) : Statement (.waitTimeout inst began) := trivial
theorem rollCallWave (slot : Nat) : Statement (.rollCallWave slot) := trivial
theorem contextSwitchComplete (slot : Nat) : Statement (.contextSwitchComplete slot) := trivial
theorem limiterStep (quarter : Nat) : Statement (.limiterStep quarter) := trivial
theorem queuePush (slot queue : Nat) (rec : List Word) : Statement (.queuePush slot queue rec) := trivial
theorem virtualQueuePush (slot queue : Nat) (rec : List Word) : Statement (.virtualQueuePush slot queue rec) := trivial
theorem spillBaseWrite (slot queue : Nat) (value : Word) : Statement (.spillBaseWrite slot queue value) := trivial
theorem spillSizeWrite (slot queue : Nat) (value : Word) : Statement (.spillSizeWrite slot queue value) := trivial
theorem recordAtHead (slot queue : Nat) : Statement (.recordAtHead slot queue) := trivial
theorem dependenceEntry (launch : Nat) : Statement (.dependenceEntry launch) := trivial
theorem leaseSetupComplete (launch : Nat) : Statement (.leaseSetupComplete launch) := trivial
theorem pageRewalk (launch : Nat) : Statement (.pageRewalk launch) := trivial
theorem leaseTimeout (launch : Nat) : Statement (.leaseTimeout launch) := trivial
theorem contextBlockAddressWrite (ctx : Nat) (value : Word) : Statement (.contextBlockAddressWrite ctx value) := trivial
theorem create (ctx : Nat) : Statement (.create ctx) := trivial
theorem destroy (ctx : Nat) : Statement (.destroy ctx) := trivial
theorem resetCounters (ctx : Nat) : Statement (.resetCounters ctx) := trivial
theorem cancelSends (ctx : Nat) : Statement (.cancelSends ctx) := trivial
theorem suspend (ctx : Nat) : Statement (.suspend ctx) := trivial
theorem resume (ctx : Nat) : Statement (.resume ctx) := trivial
theorem idleGateEntry (slot : Nat) : Statement (.idleGateEntry slot) := trivial
theorem powerCapWrite (value : Word) : Statement (.powerCapWrite value) := trivial
theorem partitionLayoutWrite (value : Word) : Statement (.partitionLayoutWrite value) := trivial
theorem partitionResetWrite (value : Word) : Statement (.partitionResetWrite value) := trivial
theorem formatChoiceWrite (value : Word) : Statement (.formatChoiceWrite value) := trivial
theorem linkTraining (plane : Nat) : Statement (.linkTraining plane) := trivial
theorem forwardedRecord (plane fabric : Nat) (rec : List Word) : Statement (.forwardedRecord plane fabric rec) := trivial
theorem collectiveStepComplete (coll : Nat) : Statement (.collectiveStepComplete coll) := trivial
theorem collectiveHandshake (coll : Nat) : Statement (.collectiveHandshake coll) := trivial
theorem parkedReply (ctx coll : Nat) : Statement (.parkedReply ctx coll) := trivial
theorem switchSlotLoss (coll : Nat) : Statement (.switchSlotLoss coll) := trivial
theorem memberLostTimeout (coll : Nat) : Statement (.memberLostTimeout coll) := trivial
theorem linkDown (plane : Nat) : Statement (.linkDown plane) := trivial
theorem uncorrectableError (store : ErrorStore) : Statement (.uncorrectableError store) := trivial
theorem cxlMemAccess (addr : Nat) (write : Bool) (bytes : List Byte) : Statement (.cxlMemAccess addr write bytes) := trivial
theorem registerWrite (offset : Nat) (value : Word) : Statement (.registerWrite offset value) := trivial
theorem illegalInstruction (word : Word) : Statement (.illegalInstruction word) := trivial
theorem queueReply (op : Nat) : Statement (.queueReply op) := trivial
theorem copySourceRead (cmd : Nat) : Statement (.copySourceRead cmd) := trivial
theorem correctableError (store : ErrorStore) : Statement (.correctableError store) := trivial
theorem haltedInstanceRegisterWrite (inst : Nat) (cls : RegClass) (reg : Nat) (value : VecVal) : Statement (.haltedInstanceRegisterWrite inst cls reg value) := trivial
theorem done : Statement .done := ⟨by decide, rfl, rfl⟩
theorem gangoff : Statement .gangoff := ⟨by decide, rfl, rfl⟩
theorem commit : Statement .commit := ⟨by decide, rfl, rfl⟩
theorem nop : Statement .nop := ⟨by decide, rfl, rfl⟩
theorem capControl : Statement .capControl := trivial
theorem powerOnBoot : Statement .powerOnBoot := trivial
theorem verifyImage : Statement .verifyImage := trivial
theorem writeFlash : Statement .writeFlash := trivial
theorem presentDebugToken : Statement .presentDebugToken := trivial
theorem rollbackRaise : Statement .rollbackRaise := trivial
theorem getVersion : Statement .getVersion := trivial
theorem getCapabilities : Statement .getCapabilities := trivial
theorem negotiateAlgorithms : Statement .negotiateAlgorithms := trivial
theorem getDigests : Statement .getDigests := trivial
theorem getCertificate : Statement .getCertificate := trivial
theorem challenge : Statement .challenge := trivial
theorem getMeasurements : Statement .getMeasurements := trivial
theorem keyExchange : Statement .keyExchange := trivial
theorem identityKeyCreate : Statement .identityKeyCreate := trivial
theorem deployFuseWrite : Statement .deployFuseWrite := trivial
theorem returnToken : Statement .returnToken := trivial
theorem powerActive : Statement .powerActive := trivial
theorem powerRetention : Statement .powerRetention := trivial
theorem powerOff : Statement .powerOff := trivial
theorem telemetryRefresh : Statement .telemetryRefresh := trivial

/-- The fact holds of every instruction. -/
theorem all (i : Instr) : Statement i := by
  cases i with
  | add f => exact add f
  | sub f => exact sub f
  | mul f => exact mul f
  | mulh f => exact mulh f
  | div f => exact div f
  | rem f => exact rem f
  | and f => exact and f
  | or f => exact or f
  | xor f => exact xor f
  | shl f => exact shl f
  | shr f => exact shr f
  | cmpset f => exact cmpset f
  | sel f => exact sel f
  | min f => exact min f
  | max f => exact max f
  | adda f => exact adda f
  | addi f => exact addi f
  | muli f => exact muli f
  | li f => exact li f
  | lih f => exact lih f
  | andi f => exact andi f
  | ori f => exact ori f
  | xori f => exact xori f
  | shli f => exact shli f
  | shri f => exact shri f
  | cmpseti f => exact cmpseti f
  | rdsr f => exact rdsr f
  | mini f => exact mini f
  | maxi f => exact maxi f
  | addai f => exact addai f
  | b f => exact b f
  | j f => exact j f
  | loop f => exact loop f
  | lexit f => exact lexit f
  | wfill f => exact wfill f
  | wfree f => exact wfree f
  | rdlc f => exact rdlc f
  | kand f => exact kand f
  | kor f => exact kor f
  | kxor f => exact kxor f
  | knot f => exact knot f
  | kmov f => exact kmov f
  | kread f => exact kread f
  | kpop f => exact kpop f
  | kfirst f => exact kfirst f
  | vadd f => exact vadd f
  | vsub f => exact vsub f
  | vmul f => exact vmul f
  | vfma f => exact vfma f
  | vfms f => exact vfms f
  | vfnma f => exact vfnma f
  | vmin f => exact vmin f
  | vmax f => exact vmax f
  | vabs f => exact vabs f
  | vneg f => exact vneg f
  | vand f => exact vand f
  | vor f => exact vor f
  | vxor f => exact vxor f
  | vshl f => exact vshl f
  | vshr f => exact vshr f
  | vclamp f => exact vclamp f
  | vcmp f => exact vcmp f
  | vsel f => exact vsel f
  | vshuf f => exact vshuf f
  | vperm f => exact vperm f
  | vbcast f => exact vbcast f
  | vbcasti f => exact vbcasti f
  | vlane f => exact vlane f
  | vins f => exact vins f
  | vred f => exact vred f
  | vmov f => exact vmov f
  | vsetvalid f => exact vsetvalid f
  | vgetvalid f => exact vgetvalid f
  | vcvt f => exact vcvt f
  | vexp2 f => exact vexp2 f
  | vlog2 f => exact vlog2 f
  | vrcp f => exact vrcp f
  | vrsqrt f => exact vrsqrt f
  | vsigm f => exact vsigm f
  | vtanh f => exact vtanh f
  | vsoftp f => exact vsoftp f
  | vpack f => exact vpack f
  | vunpack f => exact vunpack f
  | wld f => exact wld f
  | wcmp f => exact wcmp f
  | thdr f => exact thdr f
  | mma f => exact mma f
  | mmaAccumulatorReady inst acc => exact mmaAccumulatorReady inst acc
  | gangon f => exact gangon f
  | accrd f => exact accrd f
  | accwr f => exact accwr f
  | acczero f => exact acczero f
  | acccvt f => exact acccvt f
  | quant f => exact quant f
  | quantb f => exact quantb f
  | tew f => exact tew f
  | settle f => exact settle f
  | talloc f => exact talloc f
  | tfree f => exact tfree f
  | sred f => exact sred f
  | sscan f => exact sscan f
  | scav f => exact scav f
  | sbcast f => exact sbcast f
  | srank f => exact srank f
  | sweepResult seg k => exact sweepResult seg k
  | fwd f => exact fwd f
  | rcv f => exact rcv f
  | neighbourArrival inst fromLeft v => exact neighbourArrival inst fromLeft v
  | need f => exact need f
  | needSweepComplete seg => exact needSweepComplete seg
  | emit f => exact emit f
  | symrd f => exact symrd f
  | symbld f => exact symbld f
  | symget f => exact symget f
  | unfold f => exact unfold f
  | unfoldRequestArrival inst q a => exact unfoldRequestArrival inst q a
  | park f => exact park f
  | fetch f => exact fetch f
  | vld f => exact vld f
  | vst f => exact vst f
  | sld f => exact sld f
  | sst f => exact sst f
  | vgath f => exact vgath f
  | vscat f => exact vscat f
  | rpush f => exact rpush f
  | rpop f => exact rpop f
  | ratom f => exact ratom f
  | tld f => exact tld f
  | rinit f => exact rinit f
  | copy f => exact copy f
  | copyred f => exact copyred f
  | pref f => exact pref f
  | tsend f => exact tsend f
  | ctrset f => exact ctrset f
  | ctradd f => exact ctradd f
  | ctrrd f => exact ctrrd f
  | ctrwait f => exact ctrwait f
  | smark f => exact smark f
  | fence f => exact fence f
  | fld f => exact fld f
  | farReadReply req => exact farReadReply req
  | fst f => exact fst f
  | aadd f => exact aadd f
  | amin f => exact amin f
  | amax f => exact amax f
  | axchg f => exact axchg f
  | acas f => exact acas f
  | aand f => exact aand f
  | aor f => exact aor f
  | pacq f => exact pacq f
  | prel f => exact prel f
  | bell f => exact bell f
  | scld f => exact scld f
  | scst f => exact scst f
  | scrmw f => exact scrmw f
  | pqry f => exact pqry f
  | syncOpPerformed op => exact syncOpPerformed op
  | syncReply op => exact syncReply op
  | bellComplete bell => exact bellComplete bell
  | passHandoff ctx pass => exact passHandoff ctx pass
  | batonHop engine => exact batonHop engine
  | logmark f => exact logmark f
  | gacc f => exact gacc f
  | opsave f => exact opsave f
  | oprecomp f => exact oprecomp f
  | logrd f => exact logrd f
  | recq f => exact recq f
  | trap f => exact trap f
  | syscall f => exact syscall f
  | cfgrd f => exact cfgrd f
  | cfgwr f => exact cfgwr f
  | brk f => exact brk f
  | pcrd f => exact pcrd f
  | qpush f => exact qpush f
  | qpop f => exact qpop f
  | queueOpArrival op => exact queueOpArrival op
  | sleep f => exact sleep f
  | evsig f => exact evsig f
  | rdclk f => exact rdclk f
  | debugResume inst => exact debugResume inst
  | discoverySweep slot => exact discoverySweep slot
  | shiftWave slot => exact shiftWave slot
  | waveComplete slot => exact waveComplete slot
  | expressionPlaced launch => exact expressionPlaced launch
  | parkWriteComplete slot => exact parkWriteComplete slot
  | unparkComplete slot => exact unparkComplete slot
  | tidyCopyComplete slot => exact tidyCopyComplete slot
  | lessonImageReceived seg seat => exact lessonImageReceived seg seat
  | loadReportsCollected seg => exact loadReportsCollected seg
  | switchBeat seg => exact switchBeat seg
  | segmentCommit seg => exact segmentCommit seg
  | commitComplete seg => exact commitComplete seg
  | completionRecordWrite launch => exact completionRecordWrite launch
  | copyStart quarter engine => exact copyStart quarter engine
  | ringFillEntry cmd => exact ringFillEntry cmd
  | farWritePerformed w => exact farWritePerformed w
  | copyComplete cmd => exact copyComplete cmd
  | counterIncrement ctx counter => exact counterIncrement ctx counter
  | counterUpdateApplied ctx counter set value => exact counterUpdateApplied ctx counter set value
  | peerWriteArrival w => exact peerWriteArrival w
  | agentAppend ctx queue rec => exact agentAppend ctx queue rec
  | preemptDecision slot => exact preemptDecision slot
  | turnExpiry slot => exact turnExpiry slot
  | preemptionTimeout slot began => exact preemptionTimeout slot began
  | waitTimeout inst began => exact waitTimeout inst began
  | rollCallWave slot => exact rollCallWave slot
  | contextSwitchComplete slot => exact contextSwitchComplete slot
  | limiterStep quarter => exact limiterStep quarter
  | queuePush slot queue rec => exact queuePush slot queue rec
  | virtualQueuePush slot queue rec => exact virtualQueuePush slot queue rec
  | spillBaseWrite slot queue value => exact spillBaseWrite slot queue value
  | spillSizeWrite slot queue value => exact spillSizeWrite slot queue value
  | recordAtHead slot queue => exact recordAtHead slot queue
  | dependenceEntry launch => exact dependenceEntry launch
  | leaseSetupComplete launch => exact leaseSetupComplete launch
  | pageRewalk launch => exact pageRewalk launch
  | leaseTimeout launch => exact leaseTimeout launch
  | contextBlockAddressWrite ctx value => exact contextBlockAddressWrite ctx value
  | create ctx => exact create ctx
  | destroy ctx => exact destroy ctx
  | resetCounters ctx => exact resetCounters ctx
  | cancelSends ctx => exact cancelSends ctx
  | suspend ctx => exact suspend ctx
  | resume ctx => exact resume ctx
  | idleGateEntry slot => exact idleGateEntry slot
  | powerCapWrite value => exact powerCapWrite value
  | partitionLayoutWrite value => exact partitionLayoutWrite value
  | partitionResetWrite value => exact partitionResetWrite value
  | formatChoiceWrite value => exact formatChoiceWrite value
  | linkTraining plane => exact linkTraining plane
  | forwardedRecord plane fabric rec => exact forwardedRecord plane fabric rec
  | collectiveStepComplete coll => exact collectiveStepComplete coll
  | collectiveHandshake coll => exact collectiveHandshake coll
  | parkedReply ctx coll => exact parkedReply ctx coll
  | switchSlotLoss coll => exact switchSlotLoss coll
  | memberLostTimeout coll => exact memberLostTimeout coll
  | linkDown plane => exact linkDown plane
  | uncorrectableError store => exact uncorrectableError store
  | cxlMemAccess addr write bytes => exact cxlMemAccess addr write bytes
  | registerWrite offset value => exact registerWrite offset value
  | illegalInstruction word => exact illegalInstruction word
  | queueReply op => exact queueReply op
  | copySourceRead cmd => exact copySourceRead cmd
  | correctableError store => exact correctableError store
  | haltedInstanceRegisterWrite inst cls reg value => exact haltedInstanceRegisterWrite inst cls reg value
  | done => exact done
  | gangoff => exact gangoff
  | commit => exact commit
  | nop => exact nop
  | capControl => exact capControl
  | powerOnBoot => exact powerOnBoot
  | verifyImage => exact verifyImage
  | writeFlash => exact writeFlash
  | presentDebugToken => exact presentDebugToken
  | rollbackRaise => exact rollbackRaise
  | getVersion => exact getVersion
  | getCapabilities => exact getCapabilities
  | negotiateAlgorithms => exact negotiateAlgorithms
  | getDigests => exact getDigests
  | getCertificate => exact getCertificate
  | challenge => exact challenge
  | getMeasurements => exact getMeasurements
  | keyExchange => exact keyExchange
  | identityKeyCreate => exact identityKeyCreate
  | deployFuseWrite => exact deployFuseWrite
  | returnToken => exact returnToken
  | powerActive => exact powerActive
  | powerRetention => exact powerRetention
  | powerOff => exact powerOff
  | telemetryRefresh => exact telemetryRefresh

end Sys2Proof.Laws.Opcode
end

