-- ==== Sys2Proof/Laws/Vectors.lean ====
section
/-!
SUPPORT. Laws/Vectors.lean: the lanes and valid bits of a vector that is given lane by lane, and of a merge.
-/

namespace Sys2Proof.Machine

/-- The bits that a fold sets. -/
theorem foldl_bits (ok : Nat → Bool) (j n : Nat) (h : j < 16) (w : BitVec 16) :
    ((List.range n).foldl (fun w k => if ok k then w ||| (1#16 <<< k) else w) w).getLsbD j =
      (w.getLsbD j || (decide (j < n) && ok j)) := by
  induction n with
  | zero => simp
  | succ n ih =>
    rw [List.range_succ, List.foldl_append]
    simp only [List.foldl_cons, List.foldl_nil]
    have e : (1#16 <<< n).getLsbD j = decide (j = n) := by
      simp only [BitVec.getLsbD_shiftLeft, BitVec.getLsbD_one]
      by_cases hj : j = n
      · subst hj; simp [h]
      · by_cases hl : j < n
        · simp [h, hl, hj]
        · simp [h, hj]; omega
    split
    · next hk =>
      rw [BitVec.getLsbD_or, ih, e]
      by_cases hj : j = n
      · subst hj; simp [hk]
      · simp [hj, show (j < n + 1) = (j < n) from propext (by omega)]
    · next hk =>
      rw [ih]
      by_cases hj : j = n
      · subst hj; simp [hk]
      · simp [show (j < n + 1) = (j < n) from propext (by omega)]

/-- A lane of a vector that is given lane by lane. -/
@[simp] theorem ofFn_lane (f : Nat → Lane) (ok : Nat → Bool) (j : Nat) (h : j < 16) : (VecVal.ofFn f ok).lane j = f j := by
  simp [VecVal.ofFn, VecVal.lane, h]

/-- A valid bit of a vector that is given lane by lane. -/
@[simp] theorem ofFn_ok (f : Nat → Lane) (ok : Nat → Bool) (j : Nat) (h : j < 16) : (VecVal.ofFn f ok).ok j = ok j := by
  rw [VecVal.ofFn, VecVal.ok, foldl_bits ok j 16 h]; simp [h]

/-- A bit of a mask that is given bit by bit. -/
@[simp] theorem maskOf_getLsbD (b : Nat → Bool) (j : Nat) (h : j < 16) : (maskOf b).getLsbD j = b j := by
  rw [maskOf, foldl_bits b j 16 h]; simp [h]

end Sys2Proof.Machine
end

