-- ==== Sys2Proof/Tests/Slice0.lean ====
section
/-!
SUPPORT. Tests/Slice0.lean: our own tests. Words written out from the spec's encodings decode as they should; small steps have the
results that the spec's worked examples give; ill-formed terms are refused; and for every statement with hypotheses a concrete state and
operands that meet them all (`test_wit_…`), clause by clause.
-/

namespace Sys2Proof.Tests

open Sys2Proof Sys2Proof.Machine Sys2Proof.Claims

/-! ## Small states -/

/-- R fields without mask and last uses. -/
def fr (ty : Ty) (d a b : Nat) (c : Nat := 0) (fn : Nat := 0) : RForm :=
  { mask := 0, neg := false, la := false, lb := false, lc := false, ty, d := fin 64 d, a := fin 64 a, b := fin 64 b, c := fin 64 c,
    fn := fin 1048576 fn }
/-- I fields. -/
def fi (ty : Ty) (d a imm : Nat) : IForm :=
  { mask := 0, neg := false, la := false, ty, d := fin 64 d, a := fin 64 a, imm := fin 4294967296 imm }
/-- M fields. -/
def fm (ty : Ty) (d a off : Nat) : MForm :=
  { mask := 0, neg := false, la := false, lb := false, ty, d := fin 64 d, a := fin 64 a, off := fin 4294967296 off }
/-- L fields. -/
def fl (ty : Ty) (a b cond ctr off : Nat) : LForm :=
  { la := false, lb := false, ty, a := fin 64 a, b := fin 64 b, cond := fin 8 cond, ctr := fin 4 ctr, off := fin 1048576 off }
/-- Q fields. -/
def fq (ty : Ty) (d a b : Nat) (comb : Nat := 0) (dir : Bool := false) (ord : Bool := false) (fn : Nat := 0) : QForm :=
  { mask := 0, neg := false, la := false, lb := false, ty, d := fin 64 d, a := fin 64 a, b := fin 64 b, comb := fin 16 comb, dir, ord,
    fn := fin 1048576 fn }
/-- Z fields. -/
def fz (d a code : Nat) : ZForm := { la := false, d := fin 64 d, a := fin 64 a, code := fin 65536 code }

/-- A lesson of one word, at its issue in clk 5. -/
def runningWord (w : Nat) : State := (State.reset.withLesson [w]).atTurn 5 1
/-- A lesson of one instruction, at its issue in clk 5. -/
def running (i : Instr) : State := runningWord ((encode i).getD 0)
/-- Its instance. -/
def the (s : State) : Inst := (s.inst? 1).getD
  (Inst.fresh ⟨0, 0, 0, 0, 0, 0, 0, 0, 0, 0, 0#64, 0⟩ probeHeader 0 0 [])
/-- Some scalar registers set. -/
def xs (s : State) (l : List (Nat × Nat)) : State :=
  s.modInst 1 fun v => { v with regs := l.foldl (fun r p => r.setX p.1 (BitVec.ofNat 64 p.2)) v.regs }
/-- A vector of sixteen equal lanes. -/
def same (n : Nat) : VecVal := VecVal.ofFn (fun _ => BitVec.ofNat 32 n) fun _ => true
/-- A vector register set. -/
def vs (s : State) (n : Nat) (w : VecVal) : State := s.modInst 1 fun v => { v with regs := v.regs.setV n w }
/-- What a step leaves, as far as a test looks. -/
def seen {α : Type} (o : Host.Outcome State Fault Refusal) (f : State → α) : Option α :=
  match o with | .next t => some (f t) | _ => none
/-- Scalar register n after an instruction. -/
def xAfter (i : Instr) (l : List (Nat × Nat)) (n : Nat) : Option Word := seen (exec i (xs (running i) l)) fun t => (the t).regs.getX n

/-! ## Decoding: words written out in the spec (05, "Encoding"; 06 to 12, "Encodings" and the worked lessons) -/

theorem test_word_scalar : decode 0x0B00018108000002 = .ok (.cmpset (fr .i32 6 1 2 0 2)) ∧
    decode 0x0F0061C720000006 = .ok (.adda (fr .i64 7 7 8 0 6)) ∧ decode 0x1C00004000000000 = .ok (.rdsr (fi .i32 1 0 0)) := by decide
theorem test_word_immediate : decode 0x1B0061815FFFFFFC = .ok (.cmpseti (fi .i64 6 1 0x5FFFFFFC)) ∧
    decode 0x1300108000000003 = .ok (.li (fi .n32 2 0 3)) := by decide
theorem test_word_loops : decode 0x2200100100200002 = .ok (.loop (fl .n32 1 0 0 1 2)) ∧
    decode 0x2300600311800000 = .ok (.lexit (fl .i64 3 4 3 0 0)) ∧ decode 0x2400028B00000003 = .ok (.wfill (fi .i32 10 11 3)) ∧
    decode 0x2600014000000000 = .ok (.rdlc (fr .i32 5 0 0)) := by decide
theorem test_word_mask : decode 0x300000810C000000 = .ok (.kand (fr .i32 2 1 3)) ∧
    decode 0x3400004200000000 = .ok (.kmov (fr .i32 1 2 0)) := by decide
theorem test_word_vector : decode 0x550080403FC00000 = .ok (.vbcasti (fi .f32 1 0 0x3FC00000)) ∧
    decode 0x5A04008104000000 = .ok (.vsetvalid { fr .i32 2 1 1 with lb := true }) ∧
    decode 0x5800810300000000 = .ok (.vred (fr .f32 4 3 0)) := by decide
theorem test_word_convert : decode 0x610880C200000000 = .ok (.vexp2 { fr .f32 3 2 0 with la := true }) ∧
    decode 0x6000914400000008 = .ok (.vcvt (fr .bf16 5 4 0 0 8)) := by decide
theorem test_word_tile : decode 0x7100900400000000 = .ok (.wcmp (fr .bf16 0 4 0)) := by decide

theorem test_word_weights : decode 0x7000900400000001 = .ok (.wld (fr .bf16 0 4 0 0 1)) ∧
    decode 0x7300904300000009 = .ok (.mma (fr .bf16 1 3 0 0 9)) ∧ decode 0x7600008100000000 = .ok (.accrd (fr .i32 2 1 0)) ∧
    decode 0x7700000448000000 = .ok (.accwr (fr .i32 0 4 18)) ∧ decode 0x7800004000000000 = .ok (.acczero (fr .i32 1 0 0)) := by decide
theorem test_word_gang : decode 0x7400000000000002 = .ok (.gangon (fr .i32 0 0 0 0 2)) ∧ decode 0x7500000000000000 = .ok .gangoff ∧
    decode 0x7E00938900000000 = .ok (.talloc (fr .bf16 14 9 0)) ∧ decode 0x7900B01400000000 = .ok (.acccvt (fr .e4m3 0 20 0)) ∧
    decode 0x7F00000E00000000 = .ok (.tfree (fr .i32 0 14 0)) := by decide
theorem test_word_tree : decode 0x820800C200800000 = .ok (.scav { fq .i32 3 2 0 2 with la := true }) ∧
    decode 0x800800C200000000 = .ok (.sred { fq .i32 3 2 0 with la := true }) ∧ decode 0x8500000200000000 = .ok (.fwd (fq .i32 0 2 0)) ∧
    decode 0x860000C000000000 = .ok (.rcv (fq .i32 3 0 0)) := by decide
theorem test_word_symbol : decode 0x9000000700000000 = .ok (.need (fr .i32 0 7 0)) ∧
    decode 0x9400020400000017 = .ok (.symbld (fr .i32 8 4 0 0 0x17)) ∧ decode 0x9100000020000000 = .ok (.emit (fr .i32 0 0 8)) ∧
    decode 0x9300018500000000 = .ok (.symrd (fr .i32 6 5 0)) := by decide
theorem test_word_scratch : decode 0xA000008000000280 = .ok (.vld (fm .i32 2 0 0x280)) ∧ decode 0xA100005500000000 = .ok (.vst (fm .i32 1 21 0)) ∧
    decode 0xA300658000000740 = .ok (.sst (fm .i64 22 0 0x740)) ∧ decode 0xA700018400000000 = .ok (.rpop (fi .i32 6 4 0)) ∧
    decode 0xAA00000300000000 = .ok (.rinit (fi .i32 0 3 0)) := by decide
theorem test_word_copy : decode 0xB000000000000140 = .ok (.copy (fm .i32 0 0 0x140)) ∧
    decode 0xBA0060C100000008 = .ok (.fld (fm .i64 3 1 8)) := by decide
theorem test_word_sync : decode 0xC000004000000010 = .ok (.aadd (fm .i32 1 0 16)) ∧ decode 0xC700000000000000 = .ok (.bell (fi .i32 0 0 0)) ∧
    decode 0xC80011C000000010 = .ok (.scld (fm .n32 7 0 16)) := by decide
theorem test_word_record : decode 0xD000000100000000 = .ok (.logmark (fr .i32 0 1 0)) ∧
    decode 0xD40000C000000002 = .ok (.logrd (fr .i32 3 0 0 0 2)) := by decide
theorem test_word_system : decode 0xE000000000000005 = .ok (.trap (fz 0 0 5)) ∧ decode 0xE500000000000000 = .ok .nop ∧
    decode 0xE900014200000003 = .ok (.sleep (fz 5 2 3)) := by decide
theorem test_bytes : decodeBytes [0, 0, 0, 8, 0xC1, 0x60, 0, 0] = .ok (.add (fr .i64 3 1 2)) ∧
    decodeTableWord 64 0x000060C108000000 = some (.add (fr .i64 3 1 2)) := by decide

/-! ## Ill-formed terms are refused, one for each check of `WellFormed` -/

theorem test_ill_function : WellFormed (.add (fr .i64 3 1 2 0 1)) = false := by decide
theorem test_ill_type : WellFormed (.add (fr .f32 3 1 2)) = false := by decide
theorem test_ill_reserved : WellFormed (.add (fr .i64 3 1 2 5)) = false := by decide
theorem test_ill_class : WellFormed (.add (fr .i64 3 40 2)) = false := by decide
theorem test_ill_last_use : WellFormed (.add { fr .i64 3 1 2 with lc := true }) = false := by decide
theorem test_ill_mask : WellFormed (.add { fr .i64 3 1 2 with mask := 1 }) = false := by decide
theorem test_ill_selector : WellFormed (.rdsr (fi .i32 1 0 8)) = false := by decide
theorem test_ill_slot : WellFormed (.discoverySweep 4) = false ∧ WellFormed (.preemptionTimeout 4 0) = false := by decide
theorem test_ill_queue : WellFormed (.queuePush 0 6 (List.replicate 8 0#64)) = false ∧ WellFormed (.queuePush 0 0 []) = false ∧
    WellFormed (.recordAtHead 0 4) = false ∧ WellFormed (.spillSizeWrite 4 0 0#64) = false := by decide
theorem test_ill_numbers : WellFormed (.create 256) = false ∧ WellFormed (.counterIncrement 0 64) = false ∧ WellFormed (.batonHop 4) = false ∧
    WellFormed (.limiterStep 4) = false ∧ WellFormed (.copyStart 0 16) = false ∧ WellFormed (.linkDown 16) = false ∧
    WellFormed (.passHandoff 0 256) = false ∧ WellFormed (.forwardedRecord 16 0 (List.replicate 8 0#64)) = false ∧
    WellFormed (.agentAppend 0 6 (List.replicate 8 0#64)) = false ∧
    WellFormed (.peerWriteArrival ⟨0, 0, 8, 0, [], none, none⟩) = false := by decide

/-! ## Worked results: 07, "Worked results" and R149 -/

theorem test_add_wraps : xAfter (.add (fr .i8 3 1 2)) [(1, 0x7F), (2, 1)] 3 = some 0xFFFFFFFFFFFFFF80#64 := by decide
theorem test_add_unsigned : xAfter (.add (fr .n8 3 1 2)) [(1, 0xFF), (2, 1)] 3 = some 0#64 := by decide
theorem test_div : xAfter (.div (fr .i32 3 1 2)) [(1, 0xFFFFFFF9), (2, 2)] 3 = some 0xFFFFFFFFFFFFFFFD#64 := by decide
theorem test_div_by_zero : xAfter (.div (fr .i32 3 1 2)) [(1, 5)] 3 = some 0xFFFFFFFFFFFFFFFF#64 := by decide
theorem test_rem : xAfter (.rem (fr .i32 3 1 2)) [(1, 0xFFFFFFF9), (2, 2)] 3 = some 0xFFFFFFFFFFFFFFFF#64 := by decide
theorem test_rem_by_zero : xAfter (.rem (fr .n32 3 1 2)) [(1, 5)] 3 = some 5#64 := by decide
theorem test_mulh : xAfter (.mulh (fr .n64 3 1 2)) [(1, 2 ^ 63), (2, 4)] 3 = some 2#64 := by decide
theorem test_mulh_signed : xAfter (.mulh (fr .i64 3 1 2)) [(1, 2 ^ 63), (2, 4)] 3 = some 0xFFFFFFFFFFFFFFFE#64 := by decide
theorem test_shr : xAfter (.shr (fr .i16 3 1 2)) [(1, 0x8000), (2, 4)] 3 = some 0xFFFFFFFFFFFFF800#64 := by decide
theorem test_shr_count : xAfter (.shr (fr .n16 3 1 2)) [(1, 0x8000), (2, 20)] 3 = some 0x800#64 := by decide
theorem test_sub_same_register : xAfter (.sub (fr .i64 1 1 1)) [(1, 7)] 1 = some 0#64 := by decide
theorem test_lih : xAfter (.lih (fi .i64 5 5 0x01234567)) [(5, 0x89ABCDEF)] 5 = some 0x0123456789ABCDEF#64 := by decide
theorem test_cmpseti : xAfter (.cmpseti (fi .i64 6 1 0x5FFFFFFC)) [(1, 2 ^ 64 - 5)] 6 = some 1#64 := by decide
theorem test_adda : xAfter (.adda (fr .i64 7 7 8 0 6)) [(7, 5), (8, 3)] 7 = some 197#64 := by decide
theorem test_x0 : xAfter (.addi (fi .i64 0 1 3)) [(1, 2)] 0 = some 0#64 := by decide
theorem test_last_use : seen (exec (.add { fr .i64 3 1 2 with la := true }) (xs (running (.add { fr .i64 3 1 2 with la := true })) [(1, 4)]))
    (fun t => ((the t).regs.isFreed (.x, 1), (the t).regs.isFreed (.x, 2), (the t).pc)) = some (true, false, 1) := by decide
theorem test_mask_k0 : seen (exec (.kmov (fr .i32 0 1 0)) (running (.kmov (fr .i32 0 1 0)))) (fun t => (the t).regs.getK 0) =
    some 0xFFFF#16 := by decide
theorem test_kfirst : xAfter (.kfirst (fr .i32 3 1 0)) [] 3 = some 16#64 := by decide
theorem test_branch_back : seen (exec (.b (fl .i64 0 0 1 0 0xFFFFF)) ((running (.b (fl .i64 0 0 1 0 0xFFFFF))).modInst 1 fun v => { v with pc := 2 }))
    (fun t => ((the t).pc, (the t).wake)) = some (1, some 6) := by decide
theorem test_loop_nest : seen (exec (.loop (fl .n32 1 0 0 1 0)) (running (.loop (fl .n32 1 0 0 1 0)))) (fun t => ((the t).status, t.trapped)) =
    some (.trapped, [1]) := by decide
theorem test_jump_out : seen (exec (.j (fl .i32 0 0 0 0 2)) (running (.j (fl .i32 0 0 0 0 2)))) (fun t => (the t).status) = some .trapped := by decide

/-! ## Vectors: 08 R165, R170, R172, R179, and the worked lesson of chapter 08 -/

/-- Lane j of vector register n after an instruction, with its valid bit. -/
def laneAfter (i : Instr) (s : State) (n j : Nat) : Option (Lane × Bool) := seen (exec i s) fun t => laneAt ((the t).regs.getV n) j

theorem test_vadd_f32 : laneAfter (.vadd (fr .f32 3 1 2)) (vs (vs (running .nop) 1 (same 0x3FC00000)) 2 (same 0x3F000000)) 3 15 =
    some (0x40000000#32, true) := by decide
theorem test_vadd_invalid : laneAfter (.vadd (fr .i32 3 1 2)) (vs (vs (running .nop) 1 VecVal.none) 2 (same 7)) 3 0 = some (0#32, false) := by decide
set_option maxRecDepth 100000 in
theorem test_vexp2 : laneAfter (.vexp2 (fr .f32 3 2 0)) (vs (running .nop) 2 (same 0x3FC00000)) 3 7 = some (0x403504F3#32, true) := by decide
theorem test_vcvt_bf16 : laneAfter (.vcvt (fr .bf16 5 4 0 0 8)) (vs (running .nop) 4 (same 0x41B504F3)) 5 0 = some (0x41B5#32, true) := by decide
theorem test_vred : laneAfter (.vred (fr .i32 4 3 0)) (vs (running .nop) 3 (same 3)) 4 9 = some (48#32, true) := by decide
theorem test_vcmp_nan : seen (exec (.vcmp (fr .f32 2 1 1)) (vs (running .nop) 1 (same 0x7FC00000))) (fun t => (the t).regs.getK 2) = some 0#16 := by decide
theorem test_vperm_rotate : laneAfter (.vperm (fr .i32 3 1 0 0 1)) (vs (running .nop) 1 (VecVal.ofFn (fun j => BitVec.ofNat 32 j) fun _ => true)) 3 15 =
    some (0#32, true) := by decide
theorem test_vlane : xAfter (.vlane (fr .i32 3 0 0 0 15)) [] 3 = some 0#64 := by decide
theorem test_masked_lane : laneAfter (.vmov { fr .i32 3 1 0 with mask := 1 }) (vs (vs (running .nop) 1 (same 5)) 3 (same 9)) 3 0 =
    some (9#32, true) := by decide

/-! ## Witnesses: states and operands that meet the hypotheses of the statements -/

/-- Whether instructions are legal and issue in a state. -/
def ready (s : State) (is : List Instr) : Bool := is.all fun i => legal i && issues i s 1 (the s)

/-- Instances of every register form (O1). -/
def registerForms : List Instr :=
  [.add (fr .i64 3 1 2), .sub (fr .n64 31 31 31), .mul (fr .i32 0 1 2), .mulh (fr .n8 3 1 2), .div (fr .i64 3 1 2), .rem (fr .n16 3 1 2),
   .and (fr .i8 3 1 2), .or (fr .i16 3 1 2), .xor (fr .n32 3 1 2), .shl (fr .i64 3 1 2), .shr (fr .i16 3 1 2), .cmpset (fr .i64 3 1 2 0 5),
   .min (fr .i32 3 1 2), .max (fr .n32 3 1 2)]
theorem test_wit_register_forms : (registerForms.all fun i => (registerForm i).isSome) = true ∧ ready (running .nop) registerForms = true := by decide

/-- Instances of every immediate form (O2). -/
def immediateForms : List Instr :=
  [.addi (fi .i64 4 4 0xFFFFFFFF), .muli (fi .n8 3 1 2), .andi (fi .i32 3 1 255), .ori (fi .n16 3 1 1), .xori (fi .i64 3 1 0), .shli (fi .i64 3 1 63),
   .shri (fi .n32 3 1 0), .cmpseti (fi .i64 6 1 0xBFFFFFFC), .mini (fi .i8 3 1 5), .maxi (fi .n64 3 1 5), .li (fi .i64 31 0 0x80000000)]
theorem test_wit_immediate_forms : (immediateForms.all fun i => (immediateForm i).isSome) = true ∧
    ready (running .nop) immediateForms = true := by decide

/-- Instances of every scalar move (O3). -/
def scalarMoves : List Instr :=
  [.sel (fr .i32 3 1 2 4), .adda (fr .n64 7 7 8 0 6), .lih (fi .i64 5 5 1), .addai (fi .i64 5 5 (6 * 2 ^ 29)), .rdsr (fi .i32 1 0 7),
   .rdlc (fr .i32 5 2 0), .kread (fr .i32 5 7 0), .kpop (fr .i32 5 0 0), .kfirst (fr .i32 5 1 0), .vlane (fr .i32 3 31 0 0 15)]
theorem test_wit_scalar_moves : (scalarMoves.all fun i => (scalarMove (the (running .nop)) i).isSome) = true ∧
    ready (running .nop) scalarMoves = true := by decide

/-- Instances of every form that writes a mask (O4). -/
def maskForms : List Instr :=
  [.kand (fr .i32 2 1 3), .kor (fr .i32 0 7 7), .kxor (fr .i32 1 0 7), .knot (fr .i32 7 0 0), .kmov (fr .i32 1 31 0), .vgetvalid (fr .i32 1 31 0),
   .vcmp (fr .f32 1 2 3 0 5)]
theorem test_wit_mask_forms : (maskForms.all fun i => (maskWrite (the (running .nop)) i).isSome) = true ∧
    ready (running .nop) maskForms = true := by decide

/-- The branch, jump and loop forms (O5, O6). -/
def controlForms : List Instr :=
  [.b (fl .i64 1 2 3 0 0xFFFFF), .j (fl .i32 1 0 0 0 1), .loop (fl .n32 1 0 0 2 1), .lexit (fl .i64 3 4 3 2 0)]
theorem test_wit_control : ready (running .nop) controlForms = true := by decide

/-- Instances of every lane-wise form (O8). -/
def laneForms : List Instr :=
  [.vadd (fr .f32 3 1 2), .vsub (fr .i32 3 1 2), .vmul (fr .n8 3 1 2), .vfma (fr .f32 3 1 2 4), .vfms (fr .f32 3 1 2 4), .vfnma (fr .f32 3 1 2 4),
   .vmin (fr .i16 3 1 2), .vmax (fr .f32 3 1 2), .vabs (fr .i8 3 1 0), .vneg (fr .f32 3 1 0), .vand (fr .i32 3 1 2), .vor (fr .i32 3 1 2),
   .vxor (fr .n32 31 31 31), .vshl (fr .i32 3 1 2), .vshr (fr .n16 3 1 2), .vclamp (fr .f32 3 1 2 4), .vcvt (fr .bf16 5 4 0 0 8),
   .vexp2 (fr .f32 3 1 0), .vlog2 (fr .f32 3 1 0), .vrcp (fr .f32 3 1 0), .vrsqrt (fr .f32 3 1 0), .vsigm (fr .f32 3 1 0), .vtanh (fr .f32 3 1 0),
   .vsoftp (fr .f32 3 1 0)]
theorem test_wit_lane_forms : (laneForms.all fun i => (laneForm (the (running .nop)) i).isSome) = true ∧
    ready (running .nop) laneForms = true := by decide

/-- Instances of every form that moves, packs or reduces lanes (O9). -/
def laneMoves : List Instr :=
  [.vmov (fr .i32 3 1 0), .vsel (fr .i32 3 1 2), .vshuf (fr .i32 3 1 2), .vperm (fr .i32 3 1 2 0 0x70), .vbcast (fr .i8 3 1 0),
   .vbcasti (fi .f32 1 0 0x3FC00000), .vins (fr .i32 3 1 0 0 15), .vsetvalid (fr .i32 3 1 7), .vunpack (fr .f32 3 1 0 0 0x6B),
   .vpack (fr .i8 3 1 2 0 1), .vred (fr .f32pair 3 1 0 0 7)]
theorem test_wit_lane_moves : (laneMoves.all fun i => (laneMove (the (running .nop)) i).isSome) = true ∧
    ready (running .nop) laneMoves = true := by decide

/-- A header of a valid dense 16 × 16 tile at a base, in a type and of a count of granules. -/
def tileHeader (ty : Ty) (rows cols base count : Nat) : Word × Word :=
  (newHeader ty rows cols base count 0x3F80#16, 0#64)

/-- A state with tiles in its cell: headers 3 (f32), 4 (bf16) and 5 (bf16), which x3, x4 and x5 name, and a ring in slot 3; x6 is 1. -/
def withTiles : State :=
  xs ((running .nop).modCell 0 0 fun x => { x with
    hdrs := [(3, tileHeader .f32 16 16 10 16), (4, tileHeader .bf16 16 16 30 8), (5, tileHeader .bf16 16 16 40 8), (6, tileHeader .n8 16 18 50 5),
      (7, tileHeader .e2m1 16 16 60 3)]
    rings := [(3, { base := 100, size := 2, entries := 4, head := 0, tail := 2, filled := 2 })]
    weights := [(1, { WEntry.invalid with valid := true, ty := .bf16 })] }) [(3, 3), (4, 4), (5, 5), (6, 1), (7, 6), (8, 7)]

/-- Instances of every form that reads into a scalar register what stands around it (O10). -/
def stateReads : List Instr :=
  [.wfill (fi .i32 10 6 3), .wfree (fi .i32 10 6 3), .symrd (fr .i32 8 0 0), .symbld (fr .i32 8 4 0 0 0x17), .symget (fr .i32 8 0 0 0 3),
   .thdr (fr .i32 8 3 0 0 1), .ctrrd (fi .n32 8 0 63), .ctrwait (fi .n32 8 0 63), .logrd (fr .i32 8 0 0 0 2), .cfgrd (fz 8 0 7),
   .pcrd (fz 8 0 7), .rdclk (fz 8 0 0), .sleep (fz 8 6 3)]
theorem test_wit_state_reads : (stateReads.all fun i => (stateRead withTiles (the withTiles) i).isSome) = true ∧
    ready withTiles stateReads = true := by decide
theorem test_wit_effectless : ([.nop, .pref (fm .i32 0 0 0), .fence (fz 0 0 3), .brk (fz 0 0 0), .logmark (fr .i32 0 1 0), .opsave (fr .i32 0 1 0),
    .oprecomp (fr .i32 0 1 0)].all fun i => effectless withTiles 1 (the withTiles) i) = true ∧
    ready withTiles [.nop, .pref (fm .i32 0 0 0), .fence (fz 0 0 3), .brk (fz 0 0 0), .logmark (fr .i32 0 1 0), .opsave (fr .i32 0 1 0),
      .oprecomp (fr .i32 0 1 0), .smark (fi .i32 3 0 7)] = true := by decide

/-- A state whose launch has one range of a lease. -/
def withLease : State := (running .nop).modLaunch 1 fun l =>
  { l with ranges := [{ base := 2 ^ 16, length := 4096, rd := true, wr := true, vbase := 0 }] }
theorem test_wit_staged : ([.fst (fm .i64 1 0 8), .ctrset (fi .n32 0 1 63), .ctradd (fi .n32 0 1 0), .fence (fz 0 0 4), .syscall (fz 0 1 5),
    .cfgwr (fz 0 1 0x27), .evsig (fz 0 0 63)].all fun i => (stagedBy withLease 1 (the withLease) i).isSome) = true ∧
    ready withLease [.fst (fm .i64 1 0 8), .ctrset (fi .n32 0 1 63), .ctradd (fi .n32 0 1 0), .fence (fz 0 0 4), .syscall (fz 0 1 5),
      .cfgwr (fz 0 1 0x27), .evsig (fz 0 0 63)] = true := by decide
theorem test_wit_scratch_loads : ([.vld (fm .i32 2 0 40896), .vgath (fr .i32 3 0 2), .tld (fr .i32 3 4 0)].all fun i =>
    (laneLoad withTiles (the withTiles) i).isSome) = true ∧ ready withTiles [.vld (fm .i32 2 0 40896), .vgath (fr .i32 3 0 2), .tld (fr .i32 3 4 0),
    .sld (fm .i64 3 0 40952)] = true ∧ inSide (scratchAddress (the withTiles) (fm .i64 3 0 40952) 32) 8 8 = true ∧
    poisoned withTiles (the withTiles) 40952 8 = false := by decide
theorem test_wit_scratch_stores : ([.sst (fm .i64 3 0 40952), .vst (fm .i32 2 0 40896), .vscat (fr .i32 0 1 0 2), .ratom (fm .i32 3 0 0xA0000000)].all fun i =>
    (storesOf withTiles (the withTiles) i).isSome) = true ∧ ready withTiles [.sst (fm .i64 3 0 40952), .vst (fm .i32 2 0 40896),
    .vscat (fr .i32 0 1 0 2), .ratom (fm .i32 3 0 0xA0000000)] = true := by decide
theorem test_wit_rings : ((ringMoveOf withTiles (the withTiles) (.rpush (fi .i32 6 6 3))).isSome ∧
    (ringMoveOf withTiles (the withTiles) (.rpop (fi .i32 6 6 3))).isSome ∧
    ready withTiles [.rpush (fi .i32 6 6 3), .rpop (fi .i32 6 6 3), .rinit (fi .i32 0 8 0), .wfill (fi .i32 1 6 15)]) ∧
    (initRing (xs withTiles [(8, 100 + 1 * 4096 + 1 * 2 ^ 20)]) (the (xs withTiles [(8, 100 + 1 * 4096 + 1 * 2 ^ 20)])) (fi .i32 0 8 0)).isSome ∧
    initRing withTiles (the withTiles) (fi .i32 0 8 0) = none ∧ ringTrapOf withTiles (the withTiles) (.wfill (fi .i32 1 6 15)) = some 1 ∧
    ringTrapOf (xs withTiles [(6, 5)]) (the (xs withTiles [(6, 5)])) (.rpush (fi .i32 1 6 3)) = some 3 ∧
    (withTiles.commands.any fun k => k.2.usesRing 0 0 0) = false := by decide
theorem test_wit_endings : let s := running .nop
    ready s [.commit, .done] = true ∧ mayLeave s (the s) = true ∧ s.leavesGangWaiting (the s) = none ∧
    (∀ j ∈ (s.setInst 1 (arrived (the s) true)).segInsts 1, j.2.status ≠ .waiting .sweep) ∧
    ((s.setInst 1 (arrived (the s) true)).segInsts 1).length = 1 ∧
    (∀ j ∈ (s.setInst 1 (arrived (the s) true)).segInsts 1, j.2.finished = true) ∧
    (let t := s.modInst 1 fun v => { v with committed := true }
     ready t [.done] = true ∧ (the t).committed = true) := by decide
theorem test_wit_weight_loads : ([.wld (fr .bf16 3 4 0 0 7), .wld (fr .bf16 0 7 0 0 8), .wcmp (fr .bf16 0 4 0)].all fun i =>
    (weightLoad withTiles (the withTiles) i).isSome) = true ∧
    ready withTiles [.wld (fr .bf16 3 4 0 0 7), .wld (fr .bf16 0 7 0 0 8), .wcmp (fr .bf16 0 4 0)] = true := by decide
theorem test_wit_accumulator_writes : ([.mma (fr .bf16 3 4 0 0 1), .accwr (fr .i32 0 4 0), .acczero (fr .i32 3 0 0)].all fun i =>
    (accWrite withTiles (the withTiles) i).isSome && (match logOf withTiles (the withTiles) i with | .ok _ => true | .error _ => false)) = true ∧
    ready withTiles [.mma (fr .bf16 3 4 0 0 1), .accwr (fr .i32 0 4 0), .acczero (fr .i32 3 0 0)] = true := by decide
theorem test_wit_accumulator_reads : ready withTiles [.accrd (fr .i32 2 3 1)] = true ∧ (withTiles.inst? 1).isSome = true := by decide
theorem test_wit_header_writes : ([.thdr (fr .i32 0 3 6 0 2), .thdr (fr .i32 0 3 0 0 3), .tfree (fr .i32 0 5 0)].all fun i =>
    (headerWrite withTiles (the withTiles) i).isSome) = true ∧
    (headerWrite (xs withTiles [(8, Ty.f32.code * 2 ^ 52 + 15 * 2 ^ 44 + 15 * 2 ^ 36)]) (the (xs withTiles [(8, Ty.f32.code * 2 ^ 52 + 15 * 2 ^ 44 + 15 * 2 ^ 36)]))
      (.thdr (fr .i32 0 3 8 0 4))).isSome = true ∧
    ready withTiles [.thdr (fr .i32 0 3 6 0 2), .thdr (fr .i32 0 3 0 0 3), .thdr (fr .i32 0 3 8 0 4), .tfree (fr .i32 0 5 0), .talloc (fr .bf16 1 6 0)] = true ∧
    (the withTiles).committed = false := by decide
theorem test_wit_tile_writes : ([.acccvt (fr .f32 0 3 1), .quant (fr .bf16 0 4 5), .quantb (fr .e2m1 0 8 5 6), .tew (fr .bf16 0 4 5 5 1),
    .tew (fr .bf16 0 4 5 0 5)].all fun i => match tileWrite withTiles (the withTiles) i with
      | some (d, srcs, _, _) => (match tileLog withTiles (the withTiles) i d srcs with | .ok _ => true | .error _ => false) && d.cell = 0 &&
        !withTiles.tilePending (the withTiles) d && srcs.all (readable withTiles (the withTiles)) && !(the withTiles).protectsTile d.hdr
      | none => false) = true ∧
    ready withTiles [.acccvt (fr .f32 0 3 1), .quant (fr .bf16 0 4 5), .quantb (fr .e2m1 0 8 5 6), .tew (fr .bf16 0 4 5 5 1),
      .tew (fr .bf16 0 4 5 0 5)] = true := by decide

/-- A state with a gradient tile (x3: 2 × 4 of f32) and a tile to add (x4), and a tile in cell 1 that x5 names. -/
def withGradients : State :=
  xs (((running .nop).modCell 0 0 fun x => { x with hdrs := [(3, tileHeader .f32 2 4 10 1), (4, tileHeader .bf16 2 4 20 1)] }).modCell 0 1 fun x =>
    { x with hdrs := [(2, tileHeader .bf16 2 4 7 1)] }) [(3, 3), (4, 4), (5, 128 + 2)]
set_option maxRecDepth 100000 in
theorem test_wit_tile_copies : (let s := withGradients
    (match s.tile (the s) 3#64, s.tile (the s) 4#64 with
      | .ok a, .ok b => isTile a .f32 b.hdr.rows b.hdr.cols && b.hdr.ty = .bf16 && a.cell = 0 && readable s (the s) a && readable s (the s) b &&
          (newGranules (the s).stage.gradGranules a.hdr.base a.hdr.granules).length ≤ 64
      | _, _ => false) = true ∧
    (match s.tile (the s) 130#64 with
      | .ok d => d.cell = 1 && (s.findSpace (the s) d.hdr.granules).isSome && readable s (the s) d &&
          (match s.log (the s) ⟨1, 0x7D, 0, 0, 0, 0, false, false⟩ (some 0) [(130, false)] 0#64 with | .ok _ => true | .error _ => false)
      | _ => false) = true ∧
    ready s [.settle (fr .i32 1 3 0), .settle (fr .i32 1 5 0), .gacc (fr .bf16 0 3 4)] = true) := by decide

/-- Two instances of a segment of two seats. -/
def two : State :=
  let s := (running .nop).modSeg 1 fun g => { g with seglen := 2 }
  let v := the s
  s.setInst 2 { v with place := { v.place with cell := 1, seat := 1 } }
theorem test_wit_gangs : let f : RForm := fr .i32 0 0 0 0 1
    let s := two
    let t := settle (.gangon f) 1 (the s) s (.wait (s.setInst 1 { the s with joining := some 2 }) .gang)
    let s' := two.modInst 2 fun v => { v with joining := some 2 }
    let t' := settle (.gangon f) 1 (the s') s' (.wait (s'.setInst 1 { the s' with joining := some 2 }) .gang)
    ready s [.gangon f] = true ∧ (the s).gang = none ∧ (segment? s (the s)).isSome = true ∧
    (∀ i ∈ s.segInsts 1, i.2.joining = none ∨ i.2.joining = some 2) ∧ (∀ i ∈ groupOf s (the s) 2, i.2.gang = none ∧ i.2.finished = false) ∧
    (∃ i ∈ groupOf t (the s) 2, i.2.joining ≠ some 2) ∧ (groupOf t' (the s') 2).length = 2 ∧
    (∀ i ∈ s'.segInsts 1, i.2.joining = none ∨ i.2.joining = some 2) ∧ (∀ i ∈ groupOf t' (the s') 2, i.2.joining = some 2) ∧
    (let u := two.modInst 1 fun v => { v with gang := some 2 }
     ready u [.gangoff] = true ∧ mayLeave u (the u) = true) := by decide

/-- The tree forms. -/
def treeForms : List (Nat × Instr) :=
  [(0x80, .sred (fq .i32 3 2 0)), (0x81, .sscan (fq .f32 3 2 0 8 true true)), (0x82, .scav (fq .i32 3 2 0 2)), (0x83, .sbcast (fq .i32 3 2 1)),
   (0x84, .srank (fq .i32 3 1 0 0 true false 1))]
theorem test_wit_collectives : (treeForms.all fun i => match brings (the two) i.2 with
      | some (p, f, vec, val) => p = i.1 &&
        let w := BitVec.ofNat 64 ((Form.q f).word p)
        agree (two.setInst 1 (brought i.2 (the two) 5 w vec val)) 1 1 w val
      | none => false) = true ∧ ready two (treeForms.map (·.2)) = true := by decide
set_option maxRecDepth 100000 in
theorem test_wit_sweep_results : (([0x800000C200000000, 0x810080C202300000, 0x820000C200800000, 0x830000C204000000, 0x840000C100200001] : List Nat).zip
      (treeForms.map (·.2))).all (fun i =>
    let s := (runningWord i.1).modInst 1 fun v => { v with colls := 1, status := .waiting .sweep }
    (lookupA s.segs 1).isSome && sortedA s.insts && (the s).inSweep 1 && s.pendingInstr (the s) = some i.2 && (the s).place.seat < 1) = true := by decide
theorem test_wit_need : ready two [.need (fr .i32 0 7 0), .emit (fr .i32 0 0 8)] = true ∧ (lookupA two.segs 1).isSome = true ∧
    (let s := (two.modInst 1 fun v => { v with declared := some 1 }).modSeg 1 fun g => { g with offsets := some [0, 1] }
     ready s [.emit (fr .i32 0 0 8)] = true ∧ ((segment? s (the s)).bind (·.offsets)).isSome = true ∧ (the s).declared.getD 0 = 1) := by decide
theorem test_wit_neighbours : ready two [.fwd (fq .i32 0 2 0), .fwd (fq .i32 0 2 0 0 true), .rcv (fq .i32 3 0 0), .rcv (fq .i32 3 0 0 0 true)] = true ∧
    (neighbour two (the two) true).isSome = true ∧ neighbour two (the two) false = none ∧ (the two).rcvLeft = [] ∧
    pendingVectors ((two.inst? 2).getD (the two)) false < 4 ∧ (the two).waitSince = none := by decide
theorem test_wit_neighbour_finished : let s := two.modInst 2 fun v => { v with finished := true }
    ready s [.fwd (fq .i32 0 2 0), .rcv (fq .i32 3 0 0 0 true)] = true ∧ ((s.inst? 2).getD (the s)).finished = true ∧ (the s).rcvRight = [] ∧
    (the s).comingRight = 0 := by decide
theorem test_wit_unfold : ready two [.unfold (fr .i32 8 1 2)] = true ∧ (segment? two (the two)).isSome = true ∧
    (lookupA two.parts 0).isSome = true := by decide

/-- A context whose park area is 1 MiB at 2^20 and holds a record of two symbols there. -/
def withPark : State :=
  let s := (running .nop).modCtx 0 fun x => { x with block := x.block.set 2 (BitVec.ofNat 64 (2 ^ 48 + 2 ^ 20)) }
  let s : State := { s with mem := writeWords s.mem (2 ^ 20) [BitVec.ofNat 64 (2 * 2 ^ 48), 0x3000000000000000#64, 0x4000000000000000#64] }
  let s := (xs s [(1, 9 * 2 ^ 60 + 2 ^ 20), (2, 1)]).modInst 1 fun v => { v with declared := some 2 }
  s.modSeg 1 fun g => { g with offsets := some [0] }
theorem test_wit_park : ready withPark [.park (fr .i32 8 3 2), .fetch (fr .i32 8 1 0)] = true ∧
    ((contextOf withPark (the withPark)).parkSpace 16).isSome = true ∧ inSide (0 : Int) 8 8 = true ∧ poisoned withPark (the withPark) 0 8 = false ∧
    stageTakes (the withPark) (.park 0 []) = true ∧ (contextOf (running .nop) (the (running .nop))).parkSpace 16 = none ∧
    (fetched withPark (the withPark) (fr .i32 8 1 0)).isSome = true := by decide

/-- The lesson of a far load at its issue, with a lease. -/
def farLoad : State := (running (.fld (fm .i64 3 0 8))).modLaunch 1 fun l =>
  { l with ranges := [{ base := 2 ^ 16, length := 16, rd := true, wr := true, vbase := 0 }] }
/-- The far load in flight, its value known or not. -/
def farFlight (w : Option Word) : State :=
  let r : FarRead := { inst := 1, pc := 0, instr := .fld (fm .i64 3 0 8), entry := 0, off := 8, performAt := 5, arriveAt := 9, stream := 0,
                       after := [], scheduled := true, value := w }
  { farLoad with farReads := [(7, r)] }
/-- A released far write. -/
def farWrite (w : FarWork) : State :=
  let r : FarWrite := { ctx := 0, launch := 1, seg := 1, opnum := 0, openSeat := 0, inst := 1, work := w,
                        ranges := [{ base := 2 ^ 16, length := 16, rd := true, wr := true, vbase := 0 }], time := 0, after := [], scheduled := true }
  { farLoad with farWrites := [(7, r)] }
theorem test_wit_far_words : ready farLoad [.fld (fm .i64 3 0 8)] = true ∧ farRefOf farLoad (the farLoad) (fm .i64 3 0 8) = some (0, 8) ∧
    (lookupA (farFlight none).farReads 7).isSome = true ∧ sortedA (farFlight none).farReads = true ∧
    physical ((farFlight none).rangesOf 1) 0 8 8 false = some (2 ^ 16 + 8) ∧ farExists (2 ^ 16 + 8) 8 = true ∧
    (farFlight none).farPoisoned (2 ^ 16 + 8) 8 = false ∧ ((lookupA (farFlight (some 1#64)).farReads 7).bind (·.value)) = some 1#64 := by decide
theorem test_wit_far_writes : (lookupA (farWrite (.bytes 0 8 [1#8])).farWrites 7).isSome = true ∧
    physical [{ base := 2 ^ 16, length := 16, rd := true, wr := true, vbase := 0 }] 0 8 1 true = some (2 ^ 16 + 8) ∧
    physical [{ base := 2 ^ 16, length := 16, rd := true, wr := true, vbase := 0 }] 0 16 1 true = none ∧
    ((lookupA (farWrite (.bytes 0 16 [1#8])).launches 1).map (·.phase)) = some .running ∧ farExists (2 ^ 16 + 8) 1 = true := by decide

/-- A descriptor at scratch 0: 64 bytes from scratch 0x400 to lease entry 0; or from there to ring 3 of the own cell. -/
def withDescriptor (toRing : Bool) : State :=
  let s := withTiles.modLaunch 1 fun l => { l with ranges := [{ base := 2 ^ 16, length := 4096, rd := true, wr := true, vbase := 0 }] }
  let one : Word := BitVec.ofNat 64 ((if toRing then 128 else 64) * 2 ^ 32 + 1)
  let pad (n : Nat) : List Word := List.replicate n 0#64
  { s with scr := writeWords s.scr (s.scrAddr 0 0 0) (pad 8 ++ [BitVec.ofNat 64 (3 * 2 ^ 61 + 0x400), one] ++ pad 14 ++
    [BitVec.ofNat 64 (if toRing then 2 * 2 ^ 61 + 3 else 0), one] ++ pad 14) }
set_option maxRecDepth 100000 in
theorem test_wit_copies : ([(false, .copy (fm .i32 0 0 0)), (true, .copy (fm .i32 0 0 0))].all fun k =>
    ready (withDescriptor k.1) [k.2] && (match (withDescriptor k.1).descriptor (the (withDescriptor k.1)) (fm .i32 0 0 0) false with
      | .ok d => d.ringDest = k.1 && stageTakes (the (withDescriptor k.1)) (.copy false d 0) &&
          ((withDescriptor k.1).queued 0 0).length < 64
      | .error _ => false)) = true := by decide
set_option maxRecDepth 100000 in
theorem test_wit_copyred : let s := withDescriptor false
    let s := { s with scr := writeNat s.scr (s.scrAddr 0 0 0) 8 0 }
    ready s [.copyred (fm .i32 0 0 0), .tsend (fm .i32 0 0 0)] = true ∧
    (match s.descriptor (the s) (fm .i32 0 0 0) true with | .ok _ => true | .error _ => false) = true ∧
    (match s.descriptor (the s) (fm .i32 0 0 0) false with | .ok d => stageTakes (the s) (.tsend 0 0 d 0) | .error _ => false) = true ∧
    (contextOf s (the s)).reserved < 256 := by decide
theorem test_wit_counters : let s := (running .nop).modCtx 0 fun x => { x with block := x.block.set 10 (BitVec.ofNat 64 (2 ^ 48 + 2 ^ 20)) }
    s.ctxOfTag 0 = some 0 ∧ s.dev.number = 0 ∧ 0 < min [1#8, 2#8].length (((s.ctx 0).blockWord 10) / 2 ^ 48 % 2 ^ 16 * 65536 - 65535) ∧
    farExists (((s.ctx 0).blockWord 10) % 2 ^ 48 + 65535) 1 = true ∧ (s.ctx 0).state = .resident := by decide

/-- A command from scratch 0x400 to lease entry 0, or to ring 3 with its source read. -/
def command (toRing : Bool) : Command :=
  { ctx := 0, launch := 1, seg := 1, opnum := 0, openSeat := 0, inst := 1, cell := 0, quarter := 0, engine := 0, red := false,
    desc := { ctl := BitVec.ofNat 64 (2 ^ 54 + 63 * 2 ^ 48), src := { endpoint := BitVec.ofNat 64 (3 * 2 ^ 61 + 0x400), run := 128, dims := [] },
              dst := { endpoint := BitVec.ofNat 64 (if toRing then 2 * 2 ^ 61 + 3 else 0), run := 128, dims := [] } }
    ranges := [{ base := 2 ^ 16, length := 4096, rd := true, wr := true, vbase := 0 }], stream := 0, after := [], released := true, send := false,
    readyAt := 5, running := false, sourceRead := true, data := List.replicate 128 7#8, poisoned := false, short := false, filled := 0,
    cancelled := false }
/-- A state with that command at engine 0. -/
def withCommand (toRing : Bool) : State := { withTiles with commands := [(9, command toRing)] }
set_option maxRecDepth 100000 in
theorem test_wit_copy_engine : (let s := withCommand false
    s.queued 0 0 = [(9, command false)] ∧ (s.commands.filter fun j => j.2.running).length < 4 ∧ (command false).readyAt ≤ s.clk ∧
    s.allDone (command false).after = true ∧ endKind (command false).desc.src.endpoint = 3 ∧ (command false).desc.dst.endpoint.toNat < 2 ^ 48 ∧
    physical (command false).ranges 0 0 128 true = some (2 ^ 16) ∧ farExists (2 ^ 16) 128 = true) ∧
    (let s := withCommand true
     (match s.ringAt 0 (command true).desc.dst.endpoint with
      | some r => r.filled ≠ r.entries && (command true).desc.dst.run % (64 * r.size) = 0 && 64 * r.size ≤ (command true).data.length
      | none => false) = true ∧ (command true).desc.ringDest = true) := by decide

/-- A state whose context has one pass, and 4,096 bytes of sync words. -/
def withSync : State := (running .nop).modCtx 0 fun x => { x with block := x.block.set 0 (BitVec.ofNat 64 (2 ^ 39)) }
/-- The synchronisation forms that send a request. -/
def syncForms : List Instr :=
  [.aadd (fm .i32 1 0 4092), .amin (fm .f32 1 0 0), .amax (fm .n64 1 0 8), .axchg (fm .i64 1 0 8), .acas (fm .i64 2 0 8), .aand (fm .n32 1 0 4),
   .aor (fm .i32 1 0 4), .scld (fm .i32 1 0 4), .scst (fm .i32 1 0 4), .scrmw (fm .i32 1 0 (6 * 2 ^ 29 + 4)), .pacq (fi .i32 1 0 0),
   .prel (fi .i32 0 0 0), .pqry (fi .i32 1 0 0), .bell (fi .i32 1 2 (2 ^ 9 + 63))]
theorem test_wit_sync_issued : (syncForms.all fun i => (syncRequest withSync (the withSync) i).isSome) = true ∧ ready withSync syncForms = true ∧
    ready withSync [.bell (fi .i32 0 0 0)] = true ∧ bellWaits withSync (the withSync) (fi .i32 0 0 0) = false := by decide

/-- An operation that arrives at its engine. -/
def syncOp (i : Instr) (addr : Nat) : SyncOp :=
  { inst := 1, seg := 1, ctx := 0, engine := 0, travel := 40, instr := i, addr, operand := 1#64, operand2 := 2#64, reply := 0#64, trap := none,
    slot := some 5, performed := false }
/-- A state in which instance 1 waits for that operation. -/
def withOp (i : Instr) (addr : Nat) : State :=
  { withSync.modInst 1 fun v => { v with status := .waiting (.syncOp 9), wake := none } with syncOps := [(9, syncOp i addr)] }
theorem test_wit_sync_performed : ((syncForms.take 10).all fun i =>
    (lookupA (withOp i 4).syncOps 9).isSome && performsNow (withOp i 4) (syncOp i 4) && (atomicResult i 0 1#64 2#64).isSome && legal i &&
      (syncForm i).isSome) = true ∧ performsNow (withOp (.pqry (fi .i32 1 0 0)) 0) (syncOp (.pqry (fi .i32 1 0 0)) 0) = true ∧
    (the (withOp (.pacq (fi .i32 1 0 0)) 0)).status = .waiting (.syncOp 9) ∧ (∀ g ∈ withSync.segs, g.2.standard = false) := by decide
theorem test_wit_passes : (let s := withOp (.pacq (fi .i32 1 0 0)) 0
    performsNow s (syncOp (.pacq (fi .i32 1 0 0)) 0) = true ∧ (lookupA s.parts (s.ctx 0).slot).isSome = true ∧ (passOf s 0 0).holder = none ∧
    (passOf s 0 0).waiters = []) ∧
    (let s := withSync.modPart 0 fun p => { p with passes := [(0, { holder := some 0, pending := some 0, faulted := true, waiters := [] })] }
     (passOf s 0 0).holder = some 0 ∧ (passOf s 0 0).pending.isSome ∧ (passOf s 0 0).faulted = true ∧ (passOf s 0 0).waiters = []) := by decide
set_option maxRecDepth 100000 in
theorem test_wit_bells : (let s := { withOp (.bell (fi .i32 1 2 (2 ^ 9))) 0 with bells := [{ key := 3, count := 1, arrivals := [9] }] }
    (s.bells.find? fun b => b.key = 3) = some { key := 3, count := 1, arrivals := [9] } ∧ ([9] : List Nat).Nodup ∧ (lookupA s.syncOps 9).isSome) ∧
    (let s := (runningWord 0xC700000000000000).modInst 1 fun v => { v with status := .waiting .segBell }
     s.pendingInstr (the s) = some (.bell (fi .i32 0 0 0)) ∧ (the s).status = .waiting .segBell ∧ sortedA s.insts = true) ∧
    (withSync.batonQ.filter fun q => q.1 = 3) = [] := by decide

/-- A state whose segment is in record mode. -/
def recording : State := (running .nop).modSeg 1 fun g => { g with record := true }
theorem test_wit_record : recording.recordMode (the recording) = true ∧
    ready recording [.opsave (fr .i32 0 1 0), .oprecomp (fr .i32 0 1 0), .logmark (fr .i32 0 1 0)] = true ∧
    (let s := recording.modInst 1 fun v => { v with stage := { v.stage with marks := (List.range 8).map fun k => (k + 1, 1) } }
     ready s [.opsave (fr .i32 0 1 0)] = true ∧ (lookupA (the s).stage.marks 0).isNone = true ∧ (the s).committed = false) := by decide

/-- A queue operation at the hub, of a state whose context holds one record in user queue 7. -/
def queueOp (push : Bool) : QueueOp :=
  { inst := 1, ctx := 0, push, queue := 7, record := List.replicate 8 5#64, addr := 64, ok := true }
/-- See `queueOp`. -/
def withQueue (push : Bool) : State :=
  { (running (if push then .qpush (fz 1 0 7) else .qpop (fz 1 0 7))).modCtx 0 fun x => { x with queue7 := [List.replicate 8 1#64] } with
    queueOps := [(9, queueOp push)] }
theorem test_wit_queues : ([true, false].all fun push =>
    let s := withQueue push
    ready s [if push then .qpush (fz 1 0 7) else .qpop (fz 1 0 7)] && inSide 0 64 64 && !poisoned s (the s) 0 64 && (lookupA s.queueOps 9).isSome &&
      s.pendingInstr (the s) = some (if push then .qpush (fz 1 0 7) else .qpop (fz 1 0 7)) && !(the s).isProtected 1) = true ∧
    (((withQueue false).ctx 0).userQueue 7) = [List.replicate 8 1#64] := by decide

/-- A state under intrusive debug with a debugger and a tail that has waited. -/
def debugged : State :=
  ((running .nop).modInst 1 fun v => { v with committed := true, waitSince := some 3 }).modDev fun d => { d with debug := .intrusive, debugger := true }
theorem test_wit_traps : ready debugged [.trap (fz 0 0 5), .brk (fz 0 0 0)] = true ∧ (the debugged).committed = true ∧
    (the debugged).waitSince = some 3 ∧ (the debugged).status = .running ∧
    (let s := debugged.modInst 1 fun v => { v with status := .halted }
     (the s).status = .halted ∧ s.dev.debug = .intrusive) ∧ debugged.actor = some 1 := by decide

/-- A segment of one seat in a phase, in a state without its instance. -/
def phased (p : SegPhase) : State :=
  { (running .nop).modSeg 1 fun g => { g with phase := p, loadAt := [(0, 5)], loads := [0] } with insts := [] }
theorem test_wit_loads : (lookupA (phased .loading).segs 1).any (fun x => x.phase = .loading && !x.clean.contains 0 && lookupA x.loadAt 0 = some 5 &&
    !x.failed && !x.standard) = true ∧ ([0] : List Nat).Nodup ∧
    ((lookupA ((phased .loading).modSeg 1 fun g => { g with failed := true, attempt := 1 }).segs 1).map fun x => (x.failed, x.attempt)) =
      some (true, 1) := by decide

/-- A row with the application `( 0x1000 )` at seats 0 to 2, a wave planned, and nothing bound; the syllabus table at 2^20 lists 0x1000. -/
def withRow (n : Nat) : State :=
  let seat (w : Nat) : SeatState := { SeatState.free with sym := BitVec.ofNat 64 w, launch := 1 }
  let s := (running .nop).modCtx 0 fun x => { x with
    row := [(0, seat (2 ^ 60)), (1, seat (5 * 2 ^ 60 + n)), (2, seat (2 * 2 ^ 60))] }
  let s := s.modPart 0 fun p => { p with wave := some { moves := [], serves := [], started := false, duration := 0, begins := [], allow := [] } }
  let image := writeWords (writeWords [] 8 [BitVec.ofNat 64 (2 ^ 20)]) (2 ^ 16) [BitVec.ofNat 64 (2 ^ 55 + 7), BitVec.ofNat 64 (0x27 * 2 ^ 56)]
  let table := [BitVec.ofNat 64 (2 ^ 52), 0#64, BitVec.ofNat 64 (0x1000 * 2 ^ 48 + 2 ^ 16), BitVec.ofNat 64 (7 * 2 ^ 32)]
  { s with insts := [], segs := [], mem := writeWords image (2 ^ 20) table }
theorem test_wit_sweep : (let s := withRow 0x1000
    (lookupA s.parts 0).any (fun p => p.running = some 0 && p.preempt = none && p.found = [] && p.wave.isSome) = true ∧ s.dev.power = .active ∧
    (s.ctx 0).dying = false ∧ (s.ctx 0).state = .resident ∧ (s.ctx 0).logWaiters = [] ∧ sortedA (s.ctx 0).row = true ∧ s.bestHead 0 0 = none) ∧
    (((lookupA ((withRow 0).modPart 0 fun p => { p with running := none }).parts 0).map (·.running)) = some none) := by decide
theorem test_wit_binding : (let s := withRow 0x1000
    (lookupA s.launches ((s.ctx 0).seat 0).launch).any (fun v => v.phase = .running && v.status = none) = true ∧ kind ((s.ctx 0).seat 0).sym = 1 ∧
    ((s.ctx 0).seat 0).busy = none ∧ ((s.ctx 0).seat 1).sym.toNat % 2 ^ 16 = 0x1000 ∧
    (match s.lessonImage 0 0 0x1000 0 with | .ok _ => true | .error _ => false) = true) ∧
    ((((withRow 0).ctx 0).seat 1).sym.toNat % 2 ^ 16 = 0 ∧ isStandard 0 = false) ∧
    ((syllabusEntry (withRow 0x1000) (2 ^ 20) 0).1 / 2 ^ 48 = 0x1000) := by decide

theorem test_wit_commits : (let s := (running .nop).modInst 1 fun v => { v with finished := true, declared := some 0 }
    (lookupA s.segs 1).any (fun x => x.phase = .running && !x.standard && !x.granted && !x.record) = true ∧
    (s.bySeat 1 1).find? (fun i => short i.2) = none ∧ wellFormed 0 [] = true) ∧
    (let s := (running .nop).modInst 1 fun v => { v with declared := some 1 }
     ((s.bySeat 1 1).find? fun i => short i.2).isSome = true) ∧
    (wellFormed 0 [0x1000000000000000#64] = false) ∧
    ((lookupA (phased .committing).segs 1).any (fun x => x.phase = .committing && x.result.isNone) = true ∧
      sortedA ((phased .committing).ctx 0).row = true ∧ sortedA (phased .committing).insts = true) := by decide
theorem test_wit_frozen : let s := (running .nop).modInst 1 fun v => { v with finished := true, declared := some 0 }
    ((lookupA s.segs 1).map s.frozenSegment) = some false := by decide

/-- A launch at the head of its queue that has finished, or that a status has ended. -/
def finished (status : Option Nat) : State :=
  let s := (running .nop).modLaunch 1 fun l => { l with
    phase := if status.isSome then .running else .finishing, status, startClk := some 2
    record := [0#64, 0#64, 0#64, 0#64, 0#64, BitVec.ofNat 64 (2 ^ 63 + 2 ^ 16), 9#64, 0#64] }
  let s := s.modQueue 0 0 fun q => { q with pending := [(0, some 1)] }
  { s with insts := [], segs := [] }
theorem test_wit_completion : ([none, some 0x10].all fun st => (lookupA (finished st).launches 1).any fun v =>
    ((v.status = none && v.phase = .finishing) || (v.status.isSome && v.phase ≠ .retired)) && v.outstanding = 0 &&
      (((finished st).part v.slot).queue v.queue).pending = [(0, some 1)]) = true ∧ (∀ g ∈ (finished none).segs, g.2.launch ≠ 1) ∧
    farExists (2 ^ 16) 64 = true := by decide

/-- A partition with a wave. -/
def waving (w : Wave) (n : Nat) : State := (runningWord n).modPart 0 fun p => { p with wave := some w }
/-- A wave of two moves, or of none with an allowance. -/
def wave (moves : List (Nat × Nat)) (started : Bool) (allow : List (Nat × Nat)) : Wave :=
  { moves, serves := [], started, duration := 7, begins := [], allow }
set_option maxRecDepth 100000 in
theorem test_wit_waves : (lookupA (waving (wave [(0, 1), (4, 9)] false []) 0).parts 0).any (fun p => p.running = some 0 &&
    p.wave = some (wave [(0, 1), (4, 9)] false [])) = true ∧
    (let s := (waving (wave [] false [(1, 3)]) 0x9600020108000000)
     s.pendingInstr (the s) = some (.unfold (fr .i32 8 1 2))) ∧
    (([(0, 1), (4, 9)] : List (Nat × Nat)).map (·.1)).Nodup ∧ (([(0, 1), (4, 9)] : List (Nat × Nat)).map (·.2)).Nodup ∧
    (∀ g ∈ (running .nop).segs, g.2.ctx = 0 → g.2.phase ≠ .waitingWave) := by decide

/-- A launch that is placed in seats 0 and 1, with an expression of two symbols at 2^16. -/
def placed : State :=
  let s := (running .nop).modLaunch 1 fun l => { l with
    phase := .placed
    record := [0#64, BitVec.ofNat 64 (2 ^ 16), 2#64, 0#64, 0#64, 0#64, 0#64, 0#64] }
  let s := s.modCtx 0 fun x => { x with row := [(0, { SeatState.free with launch := 1 }), (1, { SeatState.free with launch := 1 })] }
  { s with mem := writeWords s.mem (2 ^ 16) [BitVec.ofNat 64 (3 * 2 ^ 60), BitVec.ofNat 64 (4 * 2 ^ 60)] }
theorem test_wit_placed : (lookupA placed.launches 1).any (fun v => v.phase = .placed && v.status = none) = true ∧ farExists (2 ^ 16) 16 = true ∧
    placed.farPoisoned (2 ^ 16) 16 = false ∧ sortedA (placed.ctx 0).row = true ∧ (((placed.ctx 0).row.filter fun p => p.2.launch = 1).map (·.1)).length = 2 ∧
    termsOk 0 [] false [BitVec.ofNat 64 (3 * 2 ^ 60), BitVec.ofNat 64 (4 * 2 ^ 60)] = true := by decide

/-- A partition with one storage move under way, in a row of an open, a tile of cell 5 at seat 1, and a close. -/
def moving (m : Move) : State :=
  let seat (w : Nat) : SeatState := { SeatState.free with sym := BitVec.ofNat 64 w, launch := 1 }
  let s := ((runningWord 0).modPart 0 fun p => { p with moves := [m] }).modCtx 0 fun x => { x with
    row := [(0, seat (2 ^ 60)), (1, seat (6 * 2 ^ 60 + 5 * 128 + 3)), (2, seat (2 * 2 ^ 60)), (3, seat (9 * 2 ^ 60 + 2 ^ 48 + 2 ^ 16))] }
  let s := s.modCell 0 5 fun x => { x with hdrs := [(3, tileHeader .bf16 2 4 7 1)] }
  { s with insts := [], segs := [], mem := writeWords [] (2 ^ 16) [BitVec.ofNat 64 (2 * 2 ^ 48), BitVec.ofNat 64 (3 * 2 ^ 60), BitVec.ofNat 64 (4 * 2 ^ 60)] }
theorem test_wit_moves : (let s := moving (.park 0 2 (2 ^ 20) 0)
    (lookupA s.parts 0).any (fun p => p.running = some 0 && p.moves = [.park 0 2 (2 ^ 20) 0]) = true ∧ kind ((s.ctx 0).seat 0).sym = 1 ∧
    farExists (2 ^ 20) 32 = true) ∧
    (let s := moving (.unpark 3 2)
     kind ((s.ctx 0).seat 3).sym = 9 ∧ ((s.ctx 0).seat 3).sym.toNat / 2 ^ 48 % 2 = 1 ∧ farExists (2 ^ 16) 24 = true ∧ s.farPoisoned (2 ^ 16) 24 = false ∧
     readNat s.mem (2 ^ 16) 8 / 2 % 2 ^ 39 = 0 ∧ symbolOk 8 (BitVec.ofNat 64 (3 * 2 ^ 60)) = true ∧ sortedA (s.ctx 0).row = true) := by decide
set_option maxRecDepth 100000 in
theorem test_wit_tidy : let s := moving (.tidy 1 643)
    (match s.committedTile 0 643 with
      | some (cell, _, h) => cell = 5 && !s.poisonedAt 0 cell h.base (h.base + h.count - 1) && (freePlace (s.cellHeld 0 1) h.granules).isSome
      | none => false) = true ∧ kind ((s.ctx 0).seat 1).sym = 6 ∧ ((s.ctx 0).seat 1).sym.toNat % 2 ^ 20 = 643 := by decide

/-- A record at the head of queue 0, with its launch or without. -/
def atHead (r : List Word) (taken : Bool) : State :=
  let s := (runningWord 0).modQueue 0 0 fun q => { q with die := [(4, r)] }
  { s with insts := [], segs := [], launches := if taken then [(1, { Launch.ofRecord 0 0 4 r with phase := .setup })] else [] }
/-- A fence and an expression record. -/
def fenceRecord : List Word := (List.replicate 8 0#64).set 0 (BitVec.ofNat 64 (2 ^ 44))
theorem test_wit_head : (((runningWord 0).part 0).queue 0).die = [] ∧
    (let r := List.replicate 8 0#64
     ((atHead r true).launchAt 0 0 4).isSome = true ∧ (atHead r true).badRecord 0 0 r = false ∧
     (lookupA (atHead r true).launches 1).any (fun v => v.status = none && v.phase = .setup) = true) ∧
    (let r := (List.replicate 8 0#64).set 1 1#64
     ((atHead r true).launchAt 0 0 4).isSome = true ∧ (atHead r true).badRecord 0 0 r = true) ∧
    ((atHead fenceRecord false).launchAt 0 0 4 = none ∧ (atHead fenceRecord false).badRecord 0 0 fenceRecord = false ∧
      (((atHead fenceRecord false).part 0).queue 0).pending = [] ∧ ((fenceRecord.getD 5 0#64).toNat / 2 ^ 63 = 0)) := by decide
theorem test_wit_dependence : ([0, 1].all fun n =>
    let r := (List.replicate 8 0#64).set 3 (BitVec.ofNat 64 (n * 2 ^ 48))
    let s : State := { runningWord 0 with launches := [(1, Launch.ofRecord 0 0 4 r)] }
    (lookupA s.launches 1).any (fun v => v.phase = .queued && v.record = r) && (lookupA s.parts 0).isSome && (s.part 0).depUnit.length < 64 &&
      (s.depRanges r).isSome) = true := by decide
theorem test_wit_lease : (let r := (List.replicate 8 0#64).set 3 (BitVec.ofNat 64 (2 ^ 48 + 1))
    let s : State := { runningWord 0 with launches := [(1, { Launch.ofRecord 0 0 4 r with phase := .setup, pendingPages := [4096] })] }
    (lookupA s.launches 1).any (fun v => v.phase = .setup && v.status = none && v.pendingPages ≠ []) = true ∧ (s.readLease r).bad = true) ∧
    ((runningWord 0).readLease (List.replicate 8 0#64)).absent = [] := by decide

/-- A booted device that may create contexts, with a context block at 0. -/
def creating : State :=
  let s := (runningWord 0).modDev fun d => { d with boot := .firmware, lifecycle := .deployed, choice := true }
  { s with mem := writeNat [] 16 8 (2 ^ 48) }
theorem test_wit_create : farExists 0 192 = true ∧ (creating.ctx 5).state = .absent ∧ creating.dev.boot = .firmware ∧ creating.dev.choice = true ∧
    creating.blockOk ((List.range 24).map fun k => BitVec.ofNat 64 (readNat creating.mem (8 * k) 8)) = true ∧
    (commandOfCode 5 (creating.ctx 5)).length = 5 := by decide

/-- Context 0 runs and context 1 waits in another side; a suspend asks for the switch. -/
def switching : State :=
  let s := (runningWord 0).modCtx 0 fun x => { x with suspended := true }
  s.setCtx 1 { Ctx.absentCtx with state := .resident, holds := true, side := 1, block := List.replicate 24 0#64 }
theorem test_wit_switch : (lookupA switching.parts 0).any (fun p => p.running = some 0 && p.preempt = none && p.leaving = none) = true ∧
    switching.dev.power = .active ∧ (switching.switchWanted 0).isSome = true ∧ sortedA switching.segs = true ∧
    (let s := (runningWord 0).modPart 0 fun p => { p with running := none }
     s.switchWanted 0 = some (some 0) ∧ (s.ctx 0).holds = true ∧ s.victim 0 = none) ∧ State.reset.switchWanted 0 = none := by decide
theorem test_wit_preempted : (let s := switching.modPart 0 fun p => { p with preempt := some (3, 5) }
    (lookupA s.parts 0).any (fun p => p.preempt = some (3, 5) && p.running = some 0) = true ∧ (∃ g ∈ s.segs, g.2.ctx = 0 ∧ ∀ k ∈ s.colls, k.2.seg ≠ g.1)) ∧
    (let s := ((runningWord 0).modPart 0 fun p => { p with rollCall := some 5 }).modCtx 0 fun x => { x with resetting := true }
     s.callers 0 = [0] ∧ (s.ctx 0).resetting = true ∧ (s.ctx 0).dying = false) ∧
    (let s := switching.modPart 0 fun p => { p with preempt := some (7, 2), incoming := some 1 }
     (s.ctx 1).state = .resident ∧ (s.ctx 1).holds = true ∧ (s.ctx 1).suspended = false ∧ (lookupA s.parts 0).any (fun p => p.leaving.isNone) = true) ∧
    (let s := switching.modPart 0 fun p => { p with leaving := some 0 }
     imageFits (s.ctx 0) = true ∧ sortedA s.scr = true ∧ sortedA s.mem = true ∧ (s.ctx 0).slot = 0 ∧ (s.ctx 0).holds = true) ∧
    (((runningWord 0).modPart 0 fun p => { p with idleSince := some 2 }).part 0).idleSince = some 2 := by decide
theorem test_wit_turn : let s := ((runningWord 0).modPart 0 fun p => { p with running := none }).modCtx 0 fun x =>
      { x with state := .evicted, holds := false }
    (s.part 0).running = none ∧ s.victim 0 = none ∧ (s.ctx 0).holds = false ∧ s.switchWanted 0 = some (some 0) := by decide

theorem test_wit_host : (lookupA (runningWord 0).parts 0).isSome = true ∧ (List.replicate 8 0#64 : List Word).length = 8 ∧
    (let s := (runningWord 0).modQueue 0 0 fun q => { q with die := List.replicate 32 (0, []), size := 64, base := BitVec.ofNat 64 (2 ^ 16) }
     let u := (s.part 0).queue 0
     u.ringCount < u.size ∧ farExists (2 ^ 16) 64 = true ∧ u.die.length = 32) ∧
    ((runningWord 0).ctxs.find? (fun x => x.2.state ≠ .absent && x.2.blockWord 0 / 2 ^ 48 % 2 ^ 16 = 1) = none) ∧
    ((runningWord 0).ctxs.find? (fun x => x.2.state ≠ .absent && x.2.blockWord 0 / 2 ^ 48 % 2 ^ 16 = 0)).isSome = true := by decide
theorem test_wit_formats : (let s := (creating.setCtx 0 Ctx.absentCtx).modDev fun d => { d with hif := 0 }
    s.dev.boot = .firmware ∧ (∀ x ∈ s.ctxs, x.2.state = .absent)) ∧ (∃ x ∈ (runningWord 0).ctxs, x.2.state ≠ .absent) := by decide

/-- A collective of one step that instance 1 runs. -/
def collective (steps : List CollStep) (stepping : Bool) : Collective :=
  { inst := 1, seg := 1, ctx := 0, launch := 1, level := 0, entry := 0, dest := 0, base := 0, mesh := [2], coord := [1], comb := 0, ty := .i32, dims := [2],
    data := [1#8, 0#8, 0#8, 0#8, 2#8, 0#8, 0#8, 0#8], steps, number := 0, stepNo := 0, stepping, lastBeat := 0, lost := [] }
/-- A state with that collective. -/
def withCollective (steps : List CollStep) (stepping : Bool) : State := { farLoad with colls := [(9, collective steps stepping)] }
theorem test_wit_cross_device : (let s := withCollective [⟨0, .reduceScatter 0⟩] true
    (lookupA s.colls 9).isSome = true ∧ s.mayStep 0 = true ∧ (collective [⟨0, .reduceScatter 0⟩] true).remote ⟨0, .reduceScatter 0⟩ = true) ∧
    (physical ((withCollective [] true).rangesOf 1) 0 0 8 true = some (2 ^ 16) ∧ farExists (2 ^ 16) 8 = true) ∧
    (((withCollective [] true).part ((withCollective [] true).ctx 0).slot).running = some 0) ∧ ((runningWord 0).part ((runningWord 0).ctx 1).slot).running ≠ some 1 := by
  decide

theorem test_wit_boot : State.reset.dev.boot = .rom ∧
    (let s := State.reset.modDev fun d => { d with boot := .waitingImage }
     s.dev.boot = .waitingImage) ∧ State.reset.dev.boot ≠ .waitingImage := by decide
theorem test_wit_power : (let s := State.reset.modDev fun d => { d with lifecycle := .provisioned }
    s.dev.power = .active ∧ (∀ x ∈ s.ctxs, x.2.holds = true → s.rollClean x.2.slot x.1 = true) ∧ s.dev.debug ≠ .intrusive ∧ s.dev.lifecycle ≠ .blank) ∧
    State.reset.dev.lifecycle = .blank ∧ State.reset.dev.power ≠ .off := by decide
theorem test_wit_errors : (let s := runningWord 0
    (s.ctx 0).state ≠ .absent ∧ (segment? s (the s)).any loose = true ∧ sortedA (s.ctx 0).row = true) ∧
    (let s := (runningWord 0).modSeg 1 fun g => { g with engaged := true }
     (segment? s (the s)).any (fun g => !loose g) = true) := by decide

theorem test_wit_trap_taken : let s := runningWord 0
    (s.inst? 1).isSome = true ∧ (the s).status ≠ .trapped ∧ (lookupA s.segs 1).isSome = true ∧ sortedA s.insts = true ∧ sortedA s.segs = true ∧
    (let t := s.modInst 1 fun v => { v with regs := v.regs.free (.x, 1) }
     (usesOf (.add (fr .i64 3 1 2))).reads.any (the t).regs.isFreed = true ∧ legal (.add (fr .i64 3 1 2)) = true) ∧
    (let t := s.modInst 1 fun v => { v with committed := true }
     (the t).committed = true ∧ tailMay 0x90 (t.recordMode (the t)) = false ∧ legal (.need (fr .i32 0 7 0)) = true) := by decide
theorem test_wit_encoding : WellFormed (.add (fr .i64 31 31 31)) = true ∧ WellFormed (.addi (fi .n8 0 0 0xFFFFFFFF)) = true ∧
    WellFormed (.vadd { fr .f32 31 31 31 with mask := 7, neg := true, la := true, lb := true }) = true ∧
    staticCauses 0xFFFFFFFFFFFFFFFF = [.primary] ∧ staticCauses 0x0022E0C108000001 ≠ [] ∧
    decode 0x2700000000000000 = .ok .done := by decide
theorem test_wit_step_issue : let s := State.reset.withLesson [0x000060C108000000]
    s.turn = .issue 0 1 ∧ s.fetch (the s) = some 0x000060C108000000 ∧ lessonCauses (the s).hdr (the s).pc 0x000060C108000000 = [] ∧
    decode 0x000060C108000000 = .ok (.add (fr .i64 3 1 2)) := by decide
theorem test_wit_step_other : (let s := State.reset.withLesson [0xF000000000000000]
    s.turn = .issue 0 1 ∧ s.fetch (the s) = some 0xF000000000000000 ∧ staticCauses 0xF000000000000000 ≠ []) ∧
    (let s := State.reset.withLesson []
     s.turn = .issue 0 1 ∧ s.fetch (the s) = none) ∧ State.reset.turn = .event ⟨0, 0, .powerOnBoot⟩ ∧
    (let s := { State.reset.withLesson [] with insts := [], trapped := [1] }
     s.turn = .ends) ∧
    (let s := { State.reset with agenda := [] }
     s.turn = .idle) := by decide
theorem test_wit_tidy_kept : Memory.wf State.reset.mem = true ∧ sortedA State.reset.insts = true := by decide

/-! ## More small steps -/

/-- 10 R211, 14: `sred` with add over two seats, one lane each. -/
theorem test_sred : let s := ((runningWord 0x800000C200000000).modSeg 1 fun g => { g with seglen := 2 }).modInst 1 fun v =>
      { v with colls := 1, status := .waiting .sweep, collVec := same 3 }
    seen (exec (.sweepResult 1 1) ((s.setInst 2 { the s with place := { (the s).place with seat := 1, cell := 1 }, collVec := same 4 }).modInst 2 fun v =>
      { v with colls := 1 })) (fun t => ((t.inst? 1).map fun v => (v.regs.getV 3).lane 0)) = some (some 7#32) := by decide
/-- 09 R193 and the worked lesson of chapter 09: one product, 3.0 × 1.0, in a row of accumulator 0. -/
theorem test_accwr : seen (exec (.accwr (fr .i32 0 4 0)) (vs (runningWord 0) 4 (same 0x40400000))) (fun t => t.accElem (the t) 0 0 15) =
    some 0x40400000#32 := by decide
set_option maxRecDepth 100000 in
theorem test_talloc : seen (exec (.talloc (fr .bf16 1 6 0)) (xs (runningWord 0) [(6, 0x0F0F)])) (fun t => ((the t).regs.getX 1, (t.ownHeader (the t) 0).1)) =
    some (0#64, tileHeader .bf16 16 16 0 8 |>.1) := by decide
set_option maxRecDepth 100000 in
theorem test_sst_vld : (seen (exec (.sst (fm .i64 1 0 0x740)) (xs (runningWord 0) [(1, 0x0102030405060708)])) fun t =>
    (readBytes t.scr (t.scrAddr 0 0 0x740) 8)) = some [8#8, 7#8, 6#8, 5#8, 4#8, 3#8, 2#8, 1#8] := by decide
theorem test_scratch_range : seen (exec (.sld (fm .i64 1 0 40960)) (runningWord 0)) (fun t => (the t).status) = some .trapped := by decide
theorem test_emit_range : seen (exec (.emit (fr .i32 0 0 8)) (runningWord 0)) (fun t => (the t).status) = some .trapped := by decide
theorem test_symbld : xAfter (.symbld (fr .i32 8 4 0 0 0x17)) [(4, 9)] 8 = some 0x7010000000000009#64 := by decide
theorem test_rpush : seen (exec (.rpush (fi .i32 6 6 3)) withTiles) (fun t => ((the t).regs.getX 6, (lookupA (t.cell 0 0).rings 3).map (·.filled))) =
    some (2#64, some 3) := by decide
theorem test_ctradd_staged : seen (exec (.ctradd (fi .n32 0 1 5)) (xs (runningWord 0) [(1, 7)])) (fun t => (the t).stage.far) =
    some [.ctradd 5 7#32 0] := by decide
theorem test_counter : seen (exec (.counterIncrement 0 5) (runningWord 0)) (fun t => (t.ctx 0).counter 5) = some 1#32 := by decide
theorem test_aadd : seen (exec (.syncOpPerformed 9) (withOp (.aadd (fm .i32 1 0 4)) 4)) (fun t => readNat (t.ctx 0).sync 4 4) = some 1 := by decide
theorem test_post_commit : seen (exec (.need (fr .i32 0 7 0)) ((runningWord 0).modInst 1 fun v => { v with committed := true })) (fun t => (the t).status) =
    some .trapped := by decide
theorem test_illegal : seen (exec (.illegalInstruction 0xF000000000000000#64) (runningWord 0)) (fun t => ((the t).status, t.trapped)) =
    some (.trapped, [1]) := by decide
theorem test_partition_layout : seen (exec (.partitionLayoutWrite 1#64) State.reset) (fun t => (t.parts.map (·.1), (t.part 0).cellcount)) =
    some ([0, 2], 4096) := by decide
theorem test_lifecycle : seen (exec .identityKeyCreate State.reset) (fun t => t.dev.lifecycle) = some .provisioned := by decide
theorem test_power_cap : seen (exec (.powerCapWrite 999#64) State.reset) (fun t => t.dev.cap) = some 2800#64 := by decide
theorem test_cap_code : seen (exec (.powerCapWrite 0x203E8#64) State.reset) (fun t => t.dev.cap) = some 0x203E8#64 := by decide
theorem test_queue_push : seen (exec (.queuePush 0 1 (List.replicate 8 3#64)) (runningWord 0)) (fun t => ((t.part 0).queue 1).die) =
    some [(0, List.replicate 8 3#64)] := by decide
theorem test_baton : seen (exec (.batonHop 3) (runningWord 0)) (fun t => t.baton) = some (0, 29) := by decide
/-- 06 R142; 03 R69, "Two results grow in one wave": the seats that a wave of the worked row leaves. -/
theorem test_wave : let x := (([7, 8, 9, 10, 11] : List Nat).foldl (fun x p => x.setSeat p { SeatState.free with sym := BitVec.ofNat 64 p }) Ctx.absentCtx)
    ([7, 8, 9, 10, 11, 12, 15].map fun p => (seatAfter x [(7, 9), (8, 10), (9, 11), (10, 12), (11, 15)] p).sym.toNat) = [0, 0, 7, 8, 9, 10, 11] := by decide
theorem test_step_fetches : seen (step (State.reset.withFetchWord 64 0x000060C108000000)) (fun t => (the t).pc) = some 1 := by decide

end Sys2Proof.Tests
end

section
/-!
Steps: what an instance does at its turn, what a step does at each kind of turn, and the statement on steps (O58).
-/

namespace Sys2Proof

/-! ## Words that show a cause -/

/-- Only a word without causes has no lowest cause. -/
theorem lowestCause_eq_none_iff (cs : List IllegalCause) : lowestCause cs = none ↔ cs = [] := by
  cases cs with
  | nil => simp [lowestCause]
  | cons c cs =>
    unfold lowestCause
    split
    · simp
    · split <;> simp

/-- 06 R133: a word that shows a cause by itself is no instruction. -/
theorem decode_error_of_staticCauses {w : Nat} (h : staticCauses w ≠ []) : ∃ c, decode w = .error c := by
  obtain ⟨c, hc⟩ := Option.ne_none_iff_exists'.mp (mt (lowestCause_eq_none_iff _).mp h)
  exact ⟨c, by simp [decode, hc]⟩

end Sys2Proof

namespace Sys2Proof.Machine

/-! ## What an instance does at its turn -/

/-- 01 R14: when a newer instance's instruction waits for the older instance of its cell. -/
theorem State.waitsForTail_iff (s : State) (v : Inst) (i : Instr) :
    (!v.committed && groupWaits (primaryOf i) && s.tailIn v.place.ctx v.place.cell) = true ↔
      v.committed = false ∧ primaryOf i / 16 ∈ [7, 8, 9, 13] ∧
        ∃ o ∈ s.insts, o.2.committed = true ∧ o.2.place.ctx = v.place.ctx ∧ o.2.place.cell = v.place.cell := by
  simp only [groupWaits, State.tailIn, Bool.and_eq_true, Bool.or_eq_true, Bool.not_eq_true', List.any_eq_true, decide_eq_true_eq,
    List.mem_cons, List.not_mem_nil, or_false, and_assoc, or_assoc]

variable {s : State} {v : Inst} {w : Nat} {i : Instr}

/-- 06 R131: an index past the last word acts as `done`. -/
theorem State.act_of_fetch_none (hf : s.fetch v = none) : s.act v = .run .done := by
  simp only [State.act, hf]

/-- 06 R133: an illegal word, by its lesson or by itself, takes its trap. -/
theorem State.act_of_illegal (hf : s.fetch v = some w) (h : lessonCauses v.hdr v.pc w ≠ [] ∨ staticCauses w ≠ []) :
    s.act v = .run (.illegalInstruction (BitVec.ofNat 64 w)) := by
  by_cases hl : lessonCauses v.hdr v.pc w = []
  · obtain ⟨c, hc⟩ := decode_error_of_staticCauses (h.resolve_left (absurd hl))
    simp [State.act, hf, hl, hc]
  · simp [State.act, hf, hl]

/-- What an instance does with a legal word: it waits for the older instance of its cell, then for its registers, then it issues. -/
theorem State.act_of_decode (hf : s.fetch v = some w) (hl : lessonCauses v.hdr v.pc w = []) (hd : decode w = .ok i) :
    s.act v =
      if !v.committed && groupWaits (primaryOf i) && s.tailIn v.place.ctx v.place.cell then .wait (s.clk + 1)
      else if s.clk < v.readyAt i then .wait (if unknownClk ≤ v.readyAt i then s.clk + 1 else v.readyAt i)
      else .run i := by
  simp [State.act, hf, hl, hd]

/-! ## A step at each kind of turn -/

variable {clk id : Nat}

/-- An instance that issues runs its instruction. -/
theorem step_of_run (ht : s.turn = .issue clk id) (hv : s.inst? id = some v) (ha : (s.atTurn clk id).act v = .run i) :
    step s = exec i (s.atTurn clk id) := by
  simp only [step, ht, hv, ha]

/-- An instance that waits looks again later, and nothing else happens. -/
theorem step_of_wait {c : Nat} (ht : s.turn = .issue clk id) (hv : s.inst? id = some v) (ha : (s.atTurn clk id).act v = .wait c) :
    step s = .next ((s.atTurn clk id).setInst id { v with wake := some c }) := by
  have hv' : (s.atTurn clk id).inst? id = some v := hv
  simp only [step, ht, hv, ha, State.sleepUntil, State.modInst_of_some hv']

/-- The event whose turn it is stands first on the agenda. -/
theorem State.agenda_head?_of_turn_event {t : Timed} (ht : s.turn = .event t) : s.agenda.head? = some t := by
  revert ht
  fun_cases State.turn s <;> simp_all

/-- Settles O58: a step by the kind of its turn, and at an issue by what the instance does. Which turn comes next is the model's choice
(log 1), and so is that what a clk ends, ends behind its issues (log 49). -/
theorem stepRunsDecoded : Obligations.StepRunsDecoded := by
  unfold Obligations.StepRunsDecoded
  refine ⟨?legal, ?illegal, ?past, ?event, ?ends, ?idle⟩
  case legal =>
    intro s clk id w v i ht hv hf hl hd
    have hact := State.act_of_decode (s := s.atTurn clk id) hf hl hd
    have htail := State.waitsForTail_iff (s.atTurn clk id) v i
    split
    next h => exact step_of_wait ht hv (hact.trans (if_pos (htail.mpr h)))
    next h =>
      replace hact := hact.trans (if_neg (mt htail.mp h))
      split
      next hr => exact step_of_run ht hv (hact.trans (if_neg (Nat.not_lt.mpr hr)))
      next hr => exact step_of_wait ht hv (hact.trans (if_pos (Nat.lt_of_not_le hr)))
  case illegal => exact fun s clk id w v ht hv hf h => step_of_run ht hv (State.act_of_illegal hf h)
  case past => exact fun s clk id v ht hv hf => step_of_run ht hv (State.act_of_fetch_none hf)
  case event => exact fun s t ht => ⟨by simp only [step, ht], State.agenda_head?_of_turn_event ht⟩
  case ends => exact fun s ht => by simp only [step, ht]
  case idle => exact fun s ht => by simp only [step, ht]

end Sys2Proof.Machine
end

section
/-!
Tidy states: the parts of a tidy state and what each named operation of the state keeps. One proof is elaborated at a time: the threads of hundreds of
proofs at once pass the memory that a check of the whole text may take.
-/

set_option Elab.async false

namespace Sys2Proof.Machine

open Sys2Proof.Claims

/-! ## Rows and contexts -/

/-- A context whose row is in rising order. -/
def rowOk (x : Ctx) : Prop := sortedA x.row = true

/-- Setting a datum that the default does not list keeps the rising order. -/
theorem sortedA_setD {α : Type} [DecidableEq α] {m : Assoc α} (h : sortedA m = true) (d : α) (k : Nat) (v : α) :
    sortedA (setD d m k v) = true := by
  unfold setD
  split
  · exact sortedA_delA h k
  · exact sortedA_putA h k v

/-- Changing the data alone keeps the rising order. -/
theorem sortedA_map {α β : Type} {m : Assoc α} (h : sortedA m = true) (f : Nat × α → Nat × β) (hf : ∀ p, (f p).1 = p.1) :
    sortedA (m.map f) = true := by
  induction m with
  | nil => rfl
  | cons a t ih =>
    refine sortedA_cons (ih (sortedA_tail h)) fun p hp => ?_
    obtain ⟨q, hq, rfl⟩ := List.mem_map.mp hp
    rw [hf, hf]
    exact sortedA_above h q hq

/-- A datum that is looked up is listed. -/
theorem mem_of_lookupA {α : Type} {m : Assoc α} {k : Nat} {v : α} (h : lookupA m k = some v) : (k, v) ∈ m := by
  induction m with
  | nil => simp [lookupA] at h
  | cons a t ih =>
    obtain ⟨j, w⟩ := a
    unfold lookupA at h
    split at h
    next hj => cases h; subst hj; exact List.mem_cons_self ..
    next => exact List.mem_cons_of_mem _ (ih h)

/-- Every datum of a list with one set is the one set or one of the list's. -/
theorem forall_mem_putA {α : Type} {m : Assoc α} {P : Nat × α → Prop} (h : ∀ x ∈ m, P x) {k : Nat} {v : α} (hv : P (k, v)) :
    ∀ x ∈ putA m k v, P x := by
  intro x hx
  rcases mem_putA hx with rfl | hx
  · exact hv
  · exact h x hx

/-- Setting a seat keeps the row in order. -/
theorem rowOk.setSeat {x : Ctx} (h : rowOk x) (p : Nat) (v : SeatState) : rowOk (x.setSeat p v) := sortedA_setD h _ p v

/-- Changing seats keeps the row in order. -/
theorem rowOk.mapSeats {x : Ctx} (h : rowOk x) (f : SeatState → SeatState) : rowOk (x.mapSeats f) := by
  have key : ∀ m : Assoc SeatState, sortedA m = true →
      sortedA (m.foldr (fun p m => if f p.2 = SeatState.free then m else (p.1, f p.2) :: m) []) = true ∧
      ∀ q ∈ m.foldr (fun p m => if f p.2 = SeatState.free then m else (p.1, f p.2) :: m) [], ∃ p ∈ m, q.1 = p.1 := by
    intro m
    induction m with
    | nil => exact fun _ => ⟨rfl, nofun⟩
    | cons a t ih =>
      intro ha
      obtain ⟨hs, hm⟩ := ih (sortedA_tail ha)
      have hm' : ∀ q ∈ t.foldr (fun p m => if f p.2 = SeatState.free then m else (p.1, f p.2) :: m) [], ∃ p ∈ a :: t, q.1 = p.1 :=
        fun q hq => (hm q hq).imp fun p hp => ⟨List.mem_cons_of_mem _ hp.1, hp.2⟩
      rw [List.foldr_cons]
      split
      · exact ⟨hs, hm'⟩
      · refine ⟨sortedA_cons hs fun q hq => ?_, fun q hq => ?_⟩
        · obtain ⟨p, hp, he⟩ := hm q hq
          exact he ▸ sortedA_above ha p hp
        · rcases List.mem_cons.mp hq with rfl | hq
          · exact ⟨a, List.mem_cons_self .., rfl⟩
          · exact hm' q hq
  exact (key x.row h).1

/-! ## The parts of a tidy state

The operations keep a little more than `Tidy`, so that an operation on the header of an instance that has not committed may rely on it:
which instances may have committed. -/

/-- An instance stages no header once it has committed, and has committed only where `K` allows it. -/
def instOk (K : Nat → Prop) (i : Nat) (v : Inst) : Prop := v.committed = true → v.stage.hdrs = [] ∧ K i

/-- The data of a tidy state in which no instance outside `K` has committed. -/
structure TidyData (K : Nat → Prop) (far near : Memory) (cs : Assoc Ctx) (is : Assoc Inst) (gs : Assoc Segment) (rs : Assoc FarRead) :
    Prop where
  mem : Memory.wf far = true
  scr : Memory.wf near = true
  ctxs : sortedA cs = true
  insts : sortedA is = true
  segs : sortedA gs = true
  reads : sortedA rs = true
  rows : ∀ x ∈ cs, rowOk x.2
  stages : ∀ x ∈ is, instOk K x.1 x.2

/-- A tidy state in which no instance outside `K` has committed: a fact of six of its fields alone. -/
def TidyIn (K : Nat → Prop) (s : State) : Prop := TidyData K s.mem s.scr s.ctxs s.insts s.segs s.farReads

/-- A state is tidy when it is tidy with no demand on who has committed. -/
theorem tidy_iff {s : State} : Tidy s ↔ TidyIn (fun _ => True) s :=
  ⟨fun ⟨mem, scr, ctxs, insts, segs, reads, rows, stages⟩ =>
    ⟨mem, scr, ctxs, insts, segs, reads, rows, fun x hx hc => ⟨stages x hx hc, trivial⟩⟩,
  fun h => ⟨h.mem, h.scr, h.ctxs, h.insts, h.segs, h.reads, h.rows, fun x hx hc => (h.stages x hx hc).1⟩⟩

variable {K : Nat → Prop} {s t : State}

/-- An instance that has not committed meets every demand. -/
theorem instOk.of_uncommitted {i : Nat} {v : Inst} (h : v.committed = false) : instOk K i v := fun hc => absurd (h ▸ hc) nofun

/-- The demand may be raised to a set that holds those that have committed. -/
theorem TidyIn.restrict (h : TidyIn K s) {L : Nat → Prop} (hL : ∀ x ∈ s.insts, x.2.committed = true → L x.1) : TidyIn L s :=
  { h with stages := fun x hx hc => ⟨(h.stages x hx hc).1, hL x hx hc⟩ }

/-- The row of every context, listed or absent. -/
theorem TidyIn.rowOk_ctx (h : TidyIn K s) (c : Nat) : rowOk (s.ctx c) := by
  unfold State.ctx getD
  cases hc : lookupA s.ctxs c with
  | none => rfl
  | some x => exact h.rows _ (mem_of_lookupA hc)

/-- An instance that lives. -/
theorem TidyIn.inst (h : TidyIn K s) {i : Nat} {v : Inst} (hv : s.inst? i = some v) : instOk K i v :=
  h.stages _ (mem_of_lookupA hv)

/-! ## One rule per field -/

theorem TidyIn.withMem (h : TidyIn K s) {m : Memory} (hm : Memory.wf m = true) : TidyIn K { s with mem := m } :=
  { h with mem := hm }

theorem TidyIn.withScr (h : TidyIn K s) {m : Memory} (hm : Memory.wf m = true) : TidyIn K { s with scr := m } :=
  { h with scr := hm }

theorem TidyIn.withInsts (h : TidyIn K s) {m : Assoc Inst} (hm : sortedA m = true) (hs : ∀ x ∈ m, instOk K x.1 x.2) :
    TidyIn K { s with insts := m } :=
  { h with insts := hm, stages := hs }

theorem TidyIn.withSegs (h : TidyIn K s) {m : Assoc Segment} (hm : sortedA m = true) : TidyIn K { s with segs := m } :=
  { h with segs := hm }

theorem TidyIn.withReads (h : TidyIn K s) {m : Assoc FarRead} (hm : sortedA m = true) : TidyIn K { s with farReads := m } :=
  { h with reads := hm }

theorem TidyIn.setCtx (h : TidyIn K s) {c : Nat} {x : Ctx} (hx : rowOk x) : TidyIn K (s.setCtx c x) := by
  refine { h with ctxs := sortedA_setD h.ctxs _ _ _, rows := ?_ }
  show ∀ y ∈ setD Ctx.absentCtx s.ctxs c x, rowOk y.2
  unfold setD
  split
  · exact fun y hy => h.rows y (mem_delA hy)
  · exact forall_mem_putA h.rows hx

theorem TidyIn.modCtx (h : TidyIn K s) {c : Nat} {f : Ctx → Ctx} (hf : ∀ x, rowOk x → rowOk (f x) := by exact fun _ hx => hx) : TidyIn K (s.modCtx c f) :=
  h.setCtx (hf _ (h.rowOk_ctx c))

theorem TidyIn.modCell (h : TidyIn K s) {c k : Nat} {f : CellCtx → CellCtx} : TidyIn K (s.modCell c k f) := h.modCtx

theorem TidyIn.countRequest (h : TidyIn K s) {c : Nat} : TidyIn K (s.countRequest c) := h.modCtx

theorem TidyIn.setInst (h : TidyIn K s) {i : Nat} {v : Inst} (hv : instOk K i v) : TidyIn K (s.setInst i v) :=
  h.withInsts (sortedA_putA h.insts i v) (forall_mem_putA h.stages hv)

theorem TidyIn.modInst (h : TidyIn K s) {i : Nat} {f : Inst → Inst} (hf : ∀ v, instOk K i v → instOk K i (f v) := by exact fun _ hv => hv) :
    TidyIn K (s.modInst i f) := by
  unfold State.modInst
  split
  next v hv => exact h.setInst (hf v (h.inst hv))
  next => exact h

/-- Changing an instance that is known. -/
theorem TidyIn.modInstAt (h : TidyIn K s) {i : Nat} {v : Inst} (hv : s.inst? i = some v) {f : Inst → Inst} (hf : instOk K i (f v)) :
    TidyIn K (s.modInst i f) := by
  rw [State.modInst_of_some hv]
  exact h.setInst hf

/-- Setting an instance that lives, with its stage as it was. -/
theorem TidyIn.setInstOf (h : TidyIn K s) {i : Nat} {v u : Inst} (hv : s.inst? i = some v)
    (hu : instOk K i v → instOk K i u := by exact fun h => h) : TidyIn K (s.setInst i u) := h.setInst (hu (h.inst hv))

theorem TidyIn.modSeg (h : TidyIn K s) {g : Nat} {f : Segment → Segment} : TidyIn K (s.modSeg g f) := by
  unfold State.modSeg
  split
  · exact h.withSegs (sortedA_putA h.segs _ _)
  · exact h

theorem TidyIn.modLaunch (h : TidyIn K s) {l : Nat} {f : Launch → Launch} : TidyIn K (s.modLaunch l f) := by
  unfold State.modLaunch
  split <;> exact h

theorem TidyIn.modPart (h : TidyIn K s) {p : Nat} {f : Part → Part} : TidyIn K (s.modPart p f) := by
  unfold State.modPart
  split <;> exact h

theorem TidyIn.schedule (h : TidyIn K s) {a : Nat} {e : Instr} : TidyIn K (s.schedule a e) := h
theorem TidyIn.scheduleFirst (h : TidyIn K s) {a : Nat} {e : Instr} : TidyIn K (s.scheduleFirst a e) := h
theorem TidyIn.scheduleArrival (h : TidyIn K s) {a : Nat} {e : Instr} : TidyIn K (s.scheduleArrival a e) := h
theorem TidyIn.unschedule (h : TidyIn K s) {p : Instr → Bool} : TidyIn K (s.unschedule p) := h
theorem TidyIn.newId (h : TidyIn K s) : TidyIn K s.newId.2 := h
theorem TidyIn.newFree (h : TidyIn K s) : TidyIn K s.newFree.2 := h

theorem TidyIn.ungate (h : TidyIn K s) {slot : Nat} : TidyIn K (s.ungate slot) := by
  unfold State.ungate
  split
  · exact h.modPart.schedule
  · exact h

/-! ## Branches and loops -/

theorem TidyIn.ite {c : Prop} [Decidable c] (ha : c → TidyIn K s) (hb : ¬c → TidyIn K t) : TidyIn K (if c then s else t) := by
  split
  next hc => exact ha hc
  next hc => exact hb hc

/-- A step of which both sides are tidy is tidy, whichever way it goes. -/
theorem TidyIn.either {c : Prop} [Decidable c] (ha : TidyIn K s) (hb : TidyIn K t) : TidyIn K (if c then s else t) :=
  TidyIn.ite (fun _ => ha) fun _ => hb

theorem TidyIn.foldl {α : Type} {f : State → α → State} (h : TidyIn K s) {l : List α} (hf : ∀ s a, TidyIn K s → TidyIn K (f s a)) :
    TidyIn K (l.foldl f s) := by
  induction l generalizing s with
  | nil => exact h
  | cons a l ih => exact ih (hf s a h)

/-- A loop whose turns are tidy at the elements of its list. -/
theorem TidyIn.foldl_mem {α : Type} {f : State → α → State} (h : TidyIn K s) {l : List α} (hf : ∀ s, ∀ a ∈ l, TidyIn K s → TidyIn K (f s a)) :
    TidyIn K (l.foldl f s) := by
  induction l generalizing s with
  | nil => exact h
  | cons a l ih => exact ih (hf s a (List.mem_cons_self ..) h) fun s b hb => hf s b (List.mem_cons_of_mem _ hb)

/-- A loop that carries more than the state. -/
theorem TidyIn.foldl_fst {α β : Type} {f : State × β → α → State × β} {p : State × β} (h : TidyIn K p.1) {l : List α}
    (hf : ∀ p a, TidyIn K p.1 → TidyIn K (f p a).1) : TidyIn K (l.foldl f p).1 := by
  induction l generalizing p with
  | nil => exact h
  | cons a l ih => exact ih (hf p a h)

/-! ## The report card, discard and the end of an expression -/

theorem TidyIn.report (h : TidyIn K s) {c : Nat} {k : Card} : TidyIn K (s.report c k) := by
  unfold State.report
  dsimp only
  split
  · exact h
  · split
    · exact h.withMem (writeNat_wf h.mem _ _ _)
    · exact (h.withMem (writeNat_wf (writeNat_wf (writeWords_wf h.mem _ _) _ _ _) _ _ _)).modLaunch

theorem TidyIn.admitSweeps (h : TidyIn K s) {slot : Nat} : TidyIn K (s.admitSweeps slot) := by
  unfold State.admitSweeps
  extract_lets p old again cands used r waited s₁ s₂ s₃
  have h₁ : TidyIn K s₁ := h.foldl fun _ _ h => h.unschedule
  have h₃ : TidyIn K s₃ := (h₁.modPart : TidyIn K s₂).foldl fun _ _ h => h.foldl fun _ _ h => h.modCell
  exact h₃.foldl fun s _ h => by
    split
    · exact h.schedule
    · exact h

theorem TidyIn.nudge (h : TidyIn K s) {slot : Nat} : TidyIn K (s.nudge slot) := by
  unfold State.nudge
  split
  · exact h.schedule
  · exact h

theorem TidyIn.wakeLoads (h : TidyIn K s) {c k : Nat} : TidyIn K (s.wakeLoads c k) := h.foldl fun _ _ h => h.schedule

theorem TidyIn.dropSegment (h : TidyIn K s) {g : Nat} : TidyIn K (s.dropSegment g) := by
  unfold State.dropSegment
  split
  · exact h
  · extract_lets s₁
    have h₁ : TidyIn K s₁ := h.modCtx fun x hx => hx.mapSeats _
    exact (h₁.withSegs (sortedA_delA h₁.segs g)).schedule.nudge

theorem TidyIn.endTail (h : TidyIn K s) {i : Nat} {v : Inst} : TidyIn K (s.endTail i v) := by
  have hd : TidyIn K { s with insts := delA s.insts i } :=
    h.withInsts (sortedA_delA h.insts i) fun x hx => h.stages x (mem_delA hx)
  exact (TidyIn.either hd.dropSegment hd).wakeLoads

theorem TidyIn.blurWrites (h : TidyIn K s) {v : Inst} : TidyIn K (s.blurWrites v) := by
  obtain ⟨he, hw⟩ := blurWrites_frame s v
  rw [he]
  exact h.withScr (hw h.scr)

theorem TidyIn.discard (h : TidyIn K s) {g : Nat} : TidyIn K (s.discard g) := by
  unfold State.discard
  split
  · exact h
  · extract_lets mine ids ops waits parked s₁ sends s₂ s₃ s₄ s₅ s₆
    have h₁ : TidyIn K s₁ := h.foldl fun _ _ h => h.blurWrites
    have h₂ : TidyIn K s₂ := h₁.modCtx fun x hx => by
      extract_lets y
      exact (hx.mapSeats _ : rowOk y)
    have h₄ : TidyIn K s₄ := (h₂.modPart : TidyIn K s₃).foldl fun _ _ h => h.modCell
    have h₅ : TidyIn K s₅ := { h₄ with
      insts := sortedA_filter h₄.insts _, segs := sortedA_delA h₄.segs _, reads := sortedA_filter h₄.reads _
      stages := fun x hx => h₄.stages x (List.mem_filter.mp hx).1 }
    exact (h₅.schedule.nudge.admitSweeps : TidyIn K s₆).foldl fun _ _ h => h.wakeLoads

theorem TidyIn.handReleases (h : TidyIn K s) {c : Nat} {ps : List Nat} : TidyIn K (s.handReleases c ps) :=
  h.foldl fun _ _ h => h.modPart.schedule

theorem TidyIn.endExpression (h : TidyIn K s) {l status seat : Nat} : TidyIn K (s.endExpression l status seat) := by
  unfold State.endExpression
  split
  · exact h
  · split
    · exact h
    · exact h.modLaunch

theorem TidyIn.dropSegments (h : TidyIn K s) {l : Nat} : TidyIn K (s.dropSegments l) :=
  (h.foldl fun _ _ h => h.discard).schedule

theorem TidyIn.trapEnd (h : TidyIn K s) {i : Nat} : TidyIn K (s.trapEnd i) := by
  unfold State.trapEnd
  split
  · exact h
  · split
    · exact h.endTail
    · exact h.handReleases.discard

theorem TidyIn.endOfClk (h : TidyIn K s) : TidyIn K s.endOfClk := by
  have h₁ : TidyIn K { s with trapped := [], ending := [] } := h
  exact (h₁.foldl fun _ _ h => h.trapEnd).foldl fun _ _ h => h.dropSegments

theorem TidyIn.trapReport (h : TidyIn K s) {i : Nat} {k : TrapInfo} : TidyIn K (s.trapReport i k) := by
  unfold State.trapReport
  split
  · exact h
  · exact h.report

theorem TidyIn.takeTrap (h : TidyIn K s) {i : Nat} {k : TrapInfo} : TidyIn K (s.takeTrap i k) := by
  unfold State.takeTrap
  split
  · exact h
  · split
    · exact h
    · extract_lets seat s₁
      have h₁ : TidyIn K s₁ := h.trapReport.modInst
      refine TidyIn.endExpression ?_
      exact h₁

theorem TidyIn.takeTrapAll (h : TidyIn K s) {is : List Nat} {k : TrapInfo} : TidyIn K (s.takeTrapAll is k) :=
  h.foldl fun _ _ h => h.takeTrap

end Sys2Proof.Machine
end

section
/-!
Tidy answers: what an effect and an issue keep, and the operations on scratch, headers, sweeps and far memory. One proof is elaborated at a time: the threads of hundreds of
proofs at once pass the memory that a check of the whole text may take.
-/

set_option Elab.async false

namespace Sys2Proof.Machine

open Sys2Proof.Claims

variable {K : Nat → Prop} {s t : State} {id : Nat} {v : Inst}

/-! ## What an effect and a step answer -/

/-- What an effect comes to is tidy. -/
def Done.Tidies (K : Nat → Prop) : Done → Prop
  | .next s _ | .jump s _ | .goto_ s _ | .stall s | .wait s _ | .trap s _ | .settled s => TidyIn K s
  | .fault _ => True

/-- What a step answers is tidy. -/
def Tidies (K : Nat → Prop) : Host.Outcome State Fault Refusal → Prop
  | .next s => TidyIn K s
  | .fault _ | .refused _ => True

/-- What an operation that may trap answers is tidy. -/
def Allows (K : Nat → Prop) {ε : Type} : Except ε State → Prop
  | .ok s => TidyIn K s
  | .error _ => True

/-- Instance `id` lives as `v` in a tidy state, and the demand tells whether it may have committed. -/
structure Acts (K : Nat → Prop) (s : State) (id : Nat) (v : Inst) : Prop where
  tidy : TidyIn K s
  ok : instOk K id v
  owns : v.committed = false → ¬K id

/-- An effect that answers a tidy state, whoever acts. -/
def EffectTidy (eff : State → Nat → Inst → Done) : Prop := ∀ K s id v, Acts K s id v → (eff s id v).Tidies K

theorem Acts.set (a : Acts K s id v) {u : Inst} (hu : instOk K id v → instOk K id u := by exact fun h => h) : TidyIn K (s.setInst id u) :=
  a.tidy.setInst (hu a.ok)

theorem Acts.withState (a : Acts K s id v) (h : TidyIn K t) : Acts K t id v := { a with tidy := h }

/-! ## Issuing -/

/-- Ending an instruction changes neither the stage of its instance nor whether it has committed. -/
theorem instOk.advance {i : Nat} (h : instOk K i v) {u : Uses} {clk latency : Nat} : instOk K i (v.advance u clk latency) := h

theorem instOk.transfer {i : Nat} (h : instOk K i v) {u : Uses} {clk target : Nat} {pop : Bool} :
    instOk K i (v.transfer u clk target pop) := h

theorem settle_tidy {i : Instr} {s₀ : State} {d : Done} (h : d.Tidies K) (h₀ : TidyIn K s₀) : TidyIn K (settle i id v s₀ d) := by
  cases d with
  | next s n =>
    refine TidyIn.modInst h fun w hw => ?_
    dsimp only
    split
    · exact hw
    · exact hw
  | jump s n => exact TidyIn.modInst h fun w hw => hw.transfer
  | goto_ s n => exact TidyIn.modInst h fun w hw => hw.transfer
  | stall s => exact (TidyIn.either (TidyIn.schedule h) h).modInst
  | wait s w => exact TidyIn.modInst h
  | trap s k => exact TidyIn.takeTrap h
  | settled s => exact h
  | fault f => exact h₀

theorem outcome_tidies {i : Instr} {d : Done} (h : d.Tidies K) : Tidies K (d.outcome i id v s) := by
  cases d with
  | next t n => exact settle_tidy (i := i) (v := v) (s₀ := t) (d := .next t n) h h
  | jump t n => exact settle_tidy (i := i) (v := v) (s₀ := t) (d := .jump t n) h h
  | goto_ t n => exact settle_tidy (i := i) (v := v) (s₀ := t) (d := .goto_ t n) h h
  | stall t => exact settle_tidy (i := i) (v := v) (s₀ := t) (d := .stall t) h h
  | wait t w => exact settle_tidy (i := i) (v := v) (s₀ := t) (d := .wait t w) h h
  | trap t k => exact settle_tidy (i := i) (v := v) (s₀ := t) (d := .trap t k) h h
  | settled t => exact h
  | fault f => trivial

theorem Tidies.either {c : Prop} [Decidable c] {a b : Host.Outcome State Fault Refusal} (ha : Tidies K a) (hb : Tidies K b) :
    Tidies K (if c then a else b) := by
  split
  · exact ha
  · exact hb

theorem Done.Tidies.either {c : Prop} [Decidable c] {a b : Done} (ha : a.Tidies K) (hb : b.Tidies K) :
    (if c then a else b).Tidies K := by
  split
  · exact ha
  · exact hb

/-- A seat's instance is listed. -/
theorem TidyIn.seat (h : TidyIn K s) {g q : Nat} {x : Nat × Inst} (hx : s.seatInst g q = some x) : instOk K x.1 x.2 :=
  h.stages x (List.mem_of_find?_eq_some hx)

/-- A demand may be weakened. -/
theorem TidyIn.mono (h : TidyIn K s) {L : Nat → Prop} (hL : ∀ i, K i → L i) : TidyIn L s :=
  { h with stages := fun x hx hc => (h.stages x hx hc).imp_right (hL x.1) }

/-- A demand on an answer may be weakened. -/
theorem Tidies.mono {o : Host.Outcome State Fault Refusal} (h : Tidies K o) {L : Nat → Prop} (hL : ∀ i, K i → L i) : Tidies L o := by
  cases o with
  | next s => exact TidyIn.mono h hL
  | fault _ => trivial
  | refused _ => trivial

/-- In a sorted table the datum that is listed is the one that is looked up. -/
theorem lookupA_of_mem {α : Type} {m : Assoc α} (h : sortedA m = true) {k : Nat} {x : α} (hx : (k, x) ∈ m) : lookupA m k = some x := by
  induction m with
  | nil => exact absurd hx nofun
  | cons a r ih =>
    rcases List.mem_cons.mp hx with rfl | hr
    · simp [lookupA]
    · have hlt : a.1 < k := sortedA_above h _ hr
      rw [lookupA, if_neg (by omega)]
      exact ih (sortedA_tail h) hr

/-- An instance that lives acts under the demand that it has not committed when it has not. -/
theorem TidyIn.acts (h : TidyIn K s) (hv : s.inst? id = some v) : ∃ L, (∀ i, L i → K i) ∧ Acts L s id v := by
  cases hc : v.committed with
  | true => exact ⟨K, fun _ hi => hi, h, h.inst hv, fun hn => absurd hn (by simp [hc])⟩
  | false =>
    refine ⟨fun i => K i ∧ i ≠ id, fun _ hi => hi.1, ?_, instOk.of_uncommitted hc, fun _ hn => hn.2 rfl⟩
    refine h.restrict fun x hx hxc => ⟨(h.stages x hx hxc).2, fun he => ?_⟩
    have hlook : lookupA s.insts id = some x.2 := lookupA_of_mem h.insts (he ▸ hx)
    have hvx : v = x.2 := Option.some.inj (hv.symm.trans hlook)
    rw [← hvx, hc] at hxc
    exact absurd hxc nofun

/-- Whatever an instruction does whose effect is tidy, its issue is tidy. -/
theorem EffectTidy.issue {i : Instr} {eff : State → Nat → Inst → Done} (he : EffectTidy eff) (h : TidyIn K s) :
    Tidies K (issue i eff s) := by
  unfold Machine.issue
  split
  · trivial
  next id _ =>
    split
    · trivial
    next v hv =>
      split
      · exact h.takeTrap
      · split
        · exact h.takeTrap
        · obtain ⟨L, hL, ha⟩ := h.acts hv
          exact (outcome_tidies (he L s id v ha)).mono hL

/-- An effect on registers alone. -/
theorem regEffect_tidy {latency : Nat} {f : Inst → Regs} : EffectTidy (regEffect latency f) := fun _ _ _ _ a => a.set

theorem TidyIn.complete (h : TidyIn K s) {i : Instr} {f : Regs → Regs} : TidyIn K (s.complete id i f) := h.modInst

/-! ## Scratch and headers -/

theorem TidyIn.takeBank (h : TidyIn K s) {c k a : Nat} : TidyIn K (s.takeBank c k a).1 := h.modCell

theorem TidyIn.noticePoison (h : TidyIn K s) {c k lo hi l : Nat} : TidyIn K (s.noticePoison c k lo hi l) := h.foldl fun _ _ h => h.report

theorem TidyIn.pokeSide (h : TidyIn K s) {c k a : Nat} {bs : List Byte} : TidyIn K (s.pokeSide c k a bs) :=
  h.withScr (writeBytes_wf h.scr _ bs)

theorem TidyIn.noteWrite (h : TidyIn K s) {k a n : Nat} : TidyIn K (s.noteWrite id v k a n) := by
  unfold State.noteWrite
  split
  · exact h
  · exact h.modInst

theorem TidyIn.pokeOwn (h : TidyIn K s) {a : Nat} {bs : List Byte} : TidyIn K (s.pokeOwn id v a bs) :=
  TidyIn.either h.pokeSide.noteWrite (h.pokeSide.noteWrite.modInst)

/-- A header that an instance writes is written at once in a tail, and staged before. -/
theorem TidyIn.writeHeader (h : TidyIn K s) (ho : v.committed = false → ¬K id) {δ : HdrDelta} : TidyIn K (s.writeHeader id v δ) := by
  unfold State.writeHeader
  split
  · exact h.modCell
  next hc => exact h.modInst fun w hw hwc => absurd (hw hwc).2 (ho (Bool.eq_false_iff.mpr hc))

theorem TidyIn.touch (h : TidyIn K s) (ho : v.committed = false → ¬K id) {lo hi : Nat} {p : Producer} : TidyIn K (s.touch id v lo hi p) :=
  h.foldl fun _ _ h => TidyIn.either (h.writeHeader ho) h

theorem TidyIn.touchCell (h : TidyIn K s) {c k lo hi : Nat} {p : Producer} : TidyIn K (s.touchCell c k lo hi p) :=
  h.foldl fun _ _ h => TidyIn.either h.modCell h

theorem TidyIn.count (h : TidyIn K s) {c k : Nat} {i : Fin 8} {n : Nat} : TidyIn K (s.count c k i n) := h.modCell

theorem TidyIn.store (h : TidyIn K s) (ho : v.committed = false → ¬K id) {a : Nat} {bs : List Byte} : Allows K (s.store id v a bs) := by
  unfold State.store
  extract_lets lo hi
  split
  · exact h
  · split
    · trivial
    · exact h.pokeOwn.touch ho

theorem instOk.fresh {i : Nat} {p : Place} {hd : Header} {buf clk : Nat} {prot : List (Nat × Nat)} :
    instOk K i (Inst.fresh p hd buf clk prot) := instOk.of_uncommitted rfl

/-! ## Sweeps, gangs and the arrival at a commit -/

theorem TidyIn.startSweep (h : TidyIn K s) {g : Nat} {need : Bool} : TidyIn K (s.startSweep g need) := by
  unfold State.startSweep
  split
  · exact h.modPart.admitSweeps
  · exact h

theorem TidyIn.releaseSweep (h : TidyIn K s) {g : Nat} {need : Bool} : TidyIn K (s.releaseSweep g need) := by
  unfold State.releaseSweep
  split
  · exact h.modPart.admitSweeps
  · exact h

theorem TidyIn.tryCollective (h : TidyIn K s) {g : Nat} : TidyIn K (s.tryCollective g) := by
  unfold State.tryCollective
  split
  · exact h
  · dsimp only
    split
    · exact h
    · exact TidyIn.either h (TidyIn.either h.startSweep h.takeTrapAll)

theorem TidyIn.tryNeed (h : TidyIn K s) {g : Nat} : TidyIn K (s.tryNeed g) := by
  unfold State.tryNeed
  split
  · exact h
  · exact TidyIn.either h.modSeg.startSweep h

theorem TidyIn.trySegBell (h : TidyIn K s) {g : Nat} : TidyIn K (s.trySegBell g) := by
  unfold State.trySegBell
  split
  · exact h
  · exact TidyIn.either h.schedule h

theorem TidyIn.gangTrap (h : TidyIn K s) {size cause : Nat} : TidyIn K (s.gangTrap v size cause) := h.takeTrapAll

theorem TidyIn.arriveCommit (h : TidyIn K s) (hv : instOk K id v) {ends : Bool} : TidyIn K (s.arriveCommit id v ends) := by
  unfold State.arriveCommit
  extract_lets g s₁ s₂ is
  split
  · exact h.gangTrap
  · have h₁ : TidyIn K s₁ := h.setInst hv
    have h₂ : TidyIn K s₂ := h₁.tryNeed.tryCollective.trySegBell
    split
    · exact h₂
    · exact TidyIn.either h₂.schedule h₂

theorem TidyIn.engage (h : TidyIn K s) {g : Nat} : TidyIn K (s.engage g) := h.modSeg

/-! ## Control flow -/

theorem execB_tidy {f : LForm} (h : TidyIn K s) : Tidies K (execB f s) :=
  EffectTidy.issue (fun _ _ _ _ a => by split <;> exact a.tidy) h

theorem execJ_tidy {f : LForm} (h : TidyIn K s) : Tidies K (execJ f s) :=
  EffectTidy.issue (fun _ _ _ _ a => by dsimp only; split <;> exact a.tidy) h

theorem execLoop_tidy {f : LForm} (h : TidyIn K s) : Tidies K (execLoop f s) :=
  EffectTidy.issue (fun _ _ _ _ a => by
    extract_lets off target ls beyond n r
    split
    · exact a.tidy
    · split
      · exact a.set
      · exact a.set) h

theorem execLexit_tidy {f : LForm} (h : TidyIn K s) : Tidies K (execLexit f s) :=
  EffectTidy.issue (fun _ _ _ _ a => by
    split
    · exact a.tidy
    · split
      · exact a.set
      · exact a.tidy) h

theorem ringWait_tidy {f : IForm} {count : Ring → Nat} : EffectTidy (ringWait f count) := by
  intro K s id v a
  unfold ringWait
  extract_lets n
  split
  · exact a.tidy
  · split
    · exact a.set
    · exact a.tidy

theorem execDone_tidy (h : TidyIn K s) : Tidies K (execDone s) :=
  EffectTidy.issue (fun _ _ _ _ a => by
    split
    · exact a.tidy.endTail
    · split
      · exact a.tidy
      · exact a.tidy.arriveCommit a.ok) h

/-! ## Far memory -/

theorem TidyIn.pokeFar (h : TidyIn K s) {a : Nat} {bs : List Byte} : TidyIn K (s.pokeFar a bs) := h.withMem (writeBytes_wf h.mem a bs)

theorem TidyIn.enqueue (h : TidyIn K s) {k : Command} : TidyIn K (s.enqueue k).2 :=
  (h.newId.modCtx (c := k.ctx) (f := fun x => { x with roll := { x.roll with copies := x.roll.copies + 1 } }) fun _ hx => hx :)

theorem TidyIn.wakeFar (h : TidyIn K s) : TidyIn K s.wakeFar := by
  unfold State.wakeFar
  extract_lets s₁ s₂ s₃
  have h₁ : TidyIn K s₁ := h.foldl fun t w h => by
    split
    · exact h
    · split <;> exact h
  have h₂ : TidyIn K s₂ := h₁.foldl fun t r h => by
    split
    · exact h
    · exact TidyIn.schedule (h.withReads (sortedA_putA h.reads _ _))
  have h₃ : TidyIn K s₃ := h₂.foldl fun t k h => TidyIn.either h h.schedule
  exact h₃.foldl fun t x h => h.foldl fun t p h => by
    split
    · exact h.schedule
    · exact h

theorem TidyIn.retrySetups (h : TidyIn K s) {c : Nat} : TidyIn K (s.retrySetups c) := h.foldl fun _ _ h => h.schedule

theorem TidyIn.finishFar (h : TidyIn K s) {l : Nat} : TidyIn K (s.finishFar l) := h.modLaunch.schedule

theorem TidyIn.fireSends (h : TidyIn K s) {c : Nat} : TidyIn K (s.fireSends c) := by
  unfold State.fireSends
  extract_lets x ready s₁
  split
  · exact h
  · have h₁ : TidyIn K s₁ := h.modCtx
    exact h₁.foldl fun _ _ h => h.enqueue

theorem TidyIn.setCounter (h : TidyIn K s) {c k : Nat} {f : Lane → Lane} : TidyIn K (s.setCounter c k f) :=
  (h.modCtx).ungate.fireSends

theorem TidyIn.stageFar (h : TidyIn K s) {e : StagedFar} : Allows K (s.stageFar id v e) := by
  unfold State.stageFar
  extract_lets n
  split
  · trivial
  · exact h.modInst

theorem TidyIn.sendWrite (h : TidyIn K s) {w : FarWork} {rs : List Range} {after : List Nat} {time : Nat} :
    TidyIn K (s.sendWrite v w rs after time).2 := by
  unfold State.sendWrite
  exact TidyIn.modLaunch (s := { s.newId.2 with farWrites := _ }) h

theorem TidyIn.releaseOne (h : TidyIn K s) {r : Released} {e : StagedFar} : TidyIn K (s.releaseOne v r e).1 := by
  cases e with
  | fst | ctrset | ctradd | park | stored => exact h.sendWrite
  | copy => exact h.enqueue.modLaunch
  | tsend => exact (h.modCtx).fireSends
  | syscall => exact h.schedule
  | evsig | cfgwr => exact h.modCtx
  | barrier => exact h

theorem TidyIn.releaseStage (h : TidyIn K s) : TidyIn K (s.releaseStage v) :=
  TidyIn.wakeFar (TidyIn.foldl_fst (p := (s, _)) h fun _ _ hp => hp.releaseOne)

end Sys2Proof.Machine
end

section
/-!
Tidy answers of the copybook, matrix, tile and scratch instructions. One proof is elaborated at a time: the threads of hundreds of
proofs at once pass the memory that a check of the whole text may take.
-/

set_option Elab.async false

namespace Sys2Proof.Machine

open Sys2Proof.Claims

variable {K : Nat → Prop} {s t : State} {id : Nat} {v : Inst}

/-! ## The copybook lane -/

/-- Appending an entry to the lane changes the lane alone. -/
theorem Stage.putEntry_hdrs {st st' : Stage} {e : EntryInfo} {ops : List CbOperand} {raw : Word} {dest : Option Nat}
    (h : st.putEntry v e ops raw dest = .ok st') : st'.hdrs = st.hdrs := by
  unfold Stage.putEntry at h
  split at h
  · cases h
  · cases h; rfl

/-- Taking an operand's copy stages no header. -/
theorem State.sourceOperand_hdrs {st st' : Stage} {handle : Nat} {w : Bool} {o : CbOperand}
    (h : s.sourceOperand v st handle w = .ok (o, st')) : st'.hdrs = st.hdrs := by
  unfold State.sourceOperand at h
  split at h
  · split at h
    · cases h; rfl
    · cases h
  · dsimp only at h
    split at h
    · cases h; rfl
    · split at h
      · cases h; rfl
      · cases h; rfl
      · split at h
        · cases h
        · cases h; rfl

theorem State.sourceOperands_hdrs {hs : List (Nat × Bool)} : ∀ {st st' : Stage} {os : List CbOperand},
    s.sourceOperands v st hs = .ok (os, st') → st'.hdrs = st.hdrs := by
  induction hs with
  | nil => intro st st' os h; cases h; rfl
  | cons a hs ih =>
    intro st st' os h
    unfold State.sourceOperands at h
    split at h
    · cases h
    next o st₁ ho =>
      split at h
      · cases h
      next os₁ st₂ hs₂ =>
        cases h
        exact (ih hs₂).trans (State.sourceOperand_hdrs ho)

/-- Recording an instruction stages no header. -/
theorem State.log_hdrs {e : EntryInfo} {dest : Option Nat} {srcs : List (Nat × Bool)} {raw : Word} {st : Stage} {p : Producer}
    (h : s.log v e dest srcs raw = .ok (st, p)) : st.hdrs = v.stage.hdrs := by
  unfold State.log at h
  split at h
  · cases h; rfl
  · split at h
    · cases h
    next os st₁ hs =>
      dsimp only at h
      split at h
      · cases h
      next st₂ hp =>
        cases h
        exact (Stage.putEntry_hdrs hp).trans (State.sourceOperands_hdrs hs)

/-- An instance that takes a stage with the headers it had. -/
theorem instOk.withStage {i : Nat} {u : Inst} (hv : instOk K i v) (hc : u.committed = v.committed) (hs : u.stage.hdrs = v.stage.hdrs) :
    instOk K i u := fun h => by
  rw [hs]
  exact hv (hc ▸ h)

/-- An instance that takes the stage in which its instruction is recorded. -/
theorem Acts.setLogged (a : Acts K s id v) {r : State} {e : EntryInfo} {dest : Option Nat} {srcs : List (Nat × Bool)} {raw : Word}
    {st : Stage} {p : Producer} (hl : r.log v e dest srcs raw = .ok (st, p)) : TidyIn K (s.setInst id { v with stage := st }) :=
  a.tidy.setInst (a.ok.withStage rfl (State.log_hdrs hl))

/-! ## Weight entries, accumulators and the matrix unit -/

theorem TidyIn.setWeight (h : TidyIn K s) {i : Nat} {w : WEntry} : TidyIn K (s.setWeight id v i w) := by
  unfold State.setWeight
  extract_lets s₁
  have h₁ : TidyIn K s₁ := h.modCell
  exact TidyIn.either h₁.modCell h₁.modInst

theorem TidyIn.setAcc (h : TidyIn K s) {es : List (Nat × Lane)} : TidyIn K (s.setAcc id v es) :=
  TidyIn.either h.modCell h.modInst

/-- Setting accumulators leaves what the instance stages of headers, and whether it has committed. -/
theorem setAcc_inst? {es : List (Nat × Lane)} (hv : s.inst? id = some v) :
    ∃ u, (s.setAcc id v es).inst? id = some u ∧ u.committed = v.committed ∧ u.stage.hdrs = v.stage.hdrs := by
  unfold State.setAcc
  split
  · exact ⟨v, hv, rfl, rfl⟩
  · rw [State.modInst_of_some hv]
    exact ⟨_, State.setInst_inst? .., rfl, rfl⟩

theorem TidyIn.mxStarted (h : TidyIn K s) {c k first : Nat} {o : MxOp} : TidyIn K (s.mxStarted c k o first) := h.modInst.schedule

theorem TidyIn.modLimiter (h : TidyIn K s) {q : Nat} {f : Limiter → Limiter} : TidyIn K (s.modLimiter q f) := h

theorem TidyIn.requestUnits (h : TidyIn K s) {slot ready : Nat} {us : List (Nat × Nat)} : TidyIn K (s.requestUnits slot us ready) :=
  TidyIn.either h.modLimiter (TidyIn.schedule h.modLimiter)

theorem TidyIn.kickMx (h : TidyIn K s) {c k : Nat} : TidyIn K (s.kickMx c k) := h.modCell.foldl fun _ _ h => h.mxStarted

theorem TidyIn.leaveLimiter (h : TidyIn K s) {slot c k : Nat} : TidyIn K (s.leaveLimiter slot c k) := h

theorem TidyIn.pushMx (h : TidyIn K s) {slot c k : Nat} {o : MxOp} : TidyIn K (s.pushMx slot c k o) := by
  unfold State.pushMx
  extract_lets x live s₁ s₂
  have h₁ : TidyIn K s₁ := h.modCell
  have h₂ : TidyIn K s₂ := h₁.leaveLimiter
  exact TidyIn.either (TidyIn.either h₂ h₂.requestUnits) (TidyIn.either h₁ h₁.kickMx)

theorem TidyIn.startUnit (h : TidyIn K s) {c k first : Nat} : TidyIn K (s.startUnit c k first) := by
  unfold State.startUnit
  split
  · exact h
  · exact h.modCell.mxStarted.kickMx

theorem TidyIn.gangKick (h : TidyIn K s) {size : Nat} : TidyIn K (s.gangKick v size) := by
  unfold State.gangKick
  extract_lets mates pend ops units l
  split
  · exact h
  · split
    · exact h
    · split
      · exact h.gangTrap
      · extract_lets hd x s₁ b
        have h₁ : TidyIn K s₁ := h.foldl fun s m h => by
          extract_lets i
          split
          · exact h
          next u hu =>
            extract_lets w s₂
            have h₂ : TidyIn K s₂ := h.setAcc
            split
            · exact h₂
            · split
              · exact h₂.takeTrap
              next st p hl =>
                have hst : st.hdrs = u.stage.hdrs := State.log_hdrs hl
                obtain ⟨u', hu', hc, hs⟩ := setAcc_inst? (es := mmaElements (s.accElem u m.2.acc) m.2.zero m.2.acc x w.value) hu
                exact h₂.modInstAt hu' ((h.inst hu).withStage hc hst)
        exact TidyIn.either (h₁.foldl fun _ _ h => h.startUnit) h₁.requestUnits

theorem TidyIn.admitRequest (h : TidyIn K s) {us : List (Nat × Nat)} {ready : Nat} : TidyIn K (s.admitRequest us ready) := by
  unfold State.admitRequest
  extract_lets size s₁ s₂ u
  have h₁ : TidyIn K s₁ := h.modLimiter
  have h₂ : TidyIn K s₂ := h₁.foldl fun _ _ h => h.modCell.startUnit
  split
  · exact TidyIn.either h₂.gangKick h₂
  · exact h₂

/-! ## Tiles -/

theorem readTiles_tidies (h : TidyIn K s) {dests srcs : List Tile} {k : State → Done} (hk : ∀ t, TidyIn K t → (k t).Tidies K) :
    (readTiles s v dests srcs k).Tidies K := by
  unfold readTiles
  split
  · exact h
  · split
    · exact h
    · exact hk _ (h.foldl fun _ _ h => TidyIn.either h h.count)

theorem TidyIn.writeTile (h : TidyIn K s) (ho : v.committed = false → ¬K id) {x : Tile} {bs : List Byte} {p : Producer} :
    TidyIn K (s.writeTile id v x bs p) := h.pokeOwn.touch ho

theorem TidyIn.holdTile (h : TidyIn K s) {i n : Nat} : TidyIn K (s.holdTile id i n) := h.modInst

theorem loadWeight_tidies (h : TidyIn K s) {x : Tile} {slot entry base : Nat} {w : WEntry} :
    (loadWeight s id v x slot entry base w).Tidies K := h.setWeight.modInst

theorem execWld_tidy {f : RForm} (h : TidyIn K s) : Tidies K (execWld f s) :=
  EffectTidy.issue (fun _ _ _ _ a => by
    split
    · exact a.tidy
    · extract_lets c cols
      split
      · exact a.tidy
      · exact readTiles_tidies a.tidy fun _ h => loadWeight_tidies h) h

theorem execWcmp_tidy {f : RForm} (h : TidyIn K s) : Tidies K (execWcmp f s) :=
  EffectTidy.issue (fun _ _ _ _ a => by
    split
    · exact a.tidy
    · split
      · exact a.tidy
      · exact readTiles_tidies a.tidy fun _ h => loadWeight_tidies h) h

theorem execThdr_tidy {f : RForm} (h : TidyIn K s) : Tidies K (execThdr f s) :=
  EffectTidy.issue (fun _ _ _ _ a => by
    split
    · exact a.tidy
    · extract_lets fn lat b prod δ w
      split
      · exact a.set
      · split
        · exact a.set
        · split
          · exact a.tidy
          · split
            · exact a.tidy.writeHeader a.owns
            · split
              · exact a.tidy.writeHeader a.owns
              · split
                · exact a.tidy.writeHeader a.owns
                · exact a.tidy) h

theorem execTalloc_tidy {f : RForm} (h : TidyIn K s) : Tidies K (execTalloc f s) :=
  EffectTidy.issue (fun _ _ _ _ a => by
    extract_lets n rows cols count
    split
    · exact a.tidy
    · split
      · exact a.set
      · extract_lets hd u δ
        have hu : TidyIn _ (State.setInst _ _ u) := a.set
        exact hu.writeHeader a.owns) h

theorem execTfree_tidy {f : RForm} (h : TidyIn K s) : Tidies K (execTfree f s) :=
  EffectTidy.issue (fun _ _ _ _ a => by
    split
    · exact a.tidy
    · split
      · exact a.tidy
      · exact a.tidy.writeHeader a.owns) h

theorem execSettle_tidy {f : RForm} (h : TidyIn K s) : Tidies K (execSettle f s) :=
  EffectTidy.issue (fun _ _ _ v a => by
    extract_lets x
    split
    · exact a.tidy
    · split
      · exact a.set
      · extract_lets count
        split
        · exact a.set
        · split
          · exact TidyIn.noticePoison a.set
          · refine readTiles_tidies a.tidy fun r hr => ?_
            extract_lets hd bs
            split
            · exact hr
            next st p hl =>
              extract_lets st' u s₁ s₂ s₃ lat
              have hs : st'.hdrs = v.stage.hdrs := by
                rw [← State.log_hdrs hl]
                exact apply_ite Stage.hdrs .. |>.trans (ite_self _)
              have h₁ : TidyIn _ s₁ := TidyIn.writeHeader (hr.setInst (a.ok.withStage (u := u) rfl hs)) a.owns
              have h₂ : TidyIn _ s₂ := h₁.pokeOwn
              have h₃ : TidyIn _ s₃ := TidyIn.either h₂.modCell h₂
              exact h₃.holdTile) h

theorem execMma_tidy {f : RForm} (h : TidyIn K s) : Tidies K (execMma f s) :=
  EffectTidy.issue (fun K s id v a => by
    extract_lets x i w z member push causes
    have hpush : ∀ {s : State} {n : Nat} {w : Word} {k : Nat} {bs : List Byte}, TidyIn K s → TidyIn K (push s n w k bs) :=
      fun h => h.modInst.pushMx
    split
    · exact a.tidy.gangTrap
    · split
      · split
        · exact a.tidy
        · split
          · exact a.tidy
          · exact TidyIn.gangKick (settle_tidy (d := .next _ 1) (hpush a.tidy) a.tidy)
      · split
        · exact a.tidy
        · split
          · exact a.tidy
          · split
            · exact a.tidy
            · refine readTiles_tidies a.tidy fun r hr => ?_
              split
              · exact hr
              next st p hl =>
                extract_lets bs u s₁ s₂ s₃
                have h₁ : TidyIn K s₁ := hr.setInst (a.ok.withStage rfl (State.log_hdrs hl))
                have h₃ : TidyIn K s₃ := hpush (TidyIn.either h₁ h₁.setAcc)
                split
                · exact TidyIn.gangKick (settle_tidy (d := .next _ 1) h₃ h₃)
                · exact h₃) h

theorem execGangon_tidy {f : RForm} (h : TidyIn K s) : Tidies K (execGangon f s) :=
  EffectTidy.issue (fun K s id v a => by
    extract_lets g base mates other s₁ mates'
    split
    · exact a.tidy
    · have h₁ : TidyIn K s₁ := settle_tidy (d := .wait _ .gang) (a.set : TidyIn K _) a.tidy
      split
      · exact a.tidy.gangTrap
      · split
        · exact a.tidy.gangTrap
        · split
          · exact a.tidy.gangTrap
          · split
            · exact a.tidy.gangTrap
            · split
              · exact h₁.foldl fun _ _ h => h.modInst.complete.modInst
              · exact h₁) h

theorem execGangoff_tidy (h : TidyIn K s) : Tidies K (execGangoff s) :=
  EffectTidy.issue (fun _ _ _ _ a => by
    split
    · exact a.tidy
    · split
      · exact a.tidy
      · exact a.set) h

theorem execAccrd_tidy {f : RForm} (h : TidyIn K s) : Tidies K (execAccrd f s) :=
  EffectTidy.issue (fun _ _ _ _ a => by
    extract_lets row
    split
    · exact a.tidy
    · exact a.set) h

theorem execAccwr_tidy {f : RForm} (h : TidyIn K s) : Tidies K (execAccwr f s) :=
  EffectTidy.issue (fun _ _ _ _ a => by
    extract_lets row src lanes
    split
    · exact a.tidy
    · split
      · exact a.tidy
      next hl => exact (a.setLogged hl).setAcc) h

theorem execAcczero_tidy {f : RForm} (h : TidyIn K s) : Tidies K (execAcczero f s) :=
  EffectTidy.issue (fun _ _ _ _ a => by
    split
    · exact a.tidy
    next hl => exact (a.setLogged hl).setAcc) h

theorem tileResult_tidies (a : Acts K s id v) {x : Tile} {e : EntryInfo} {srcs : List (Nat × Bool)} {bs : List Byte}
    {band : Option (BitVec 16)} {n : Nat} : (tileResult s id v x e srcs bs band n).Tidies K := by
  unfold tileResult
  split
  · exact a.tidy
  · split
    · exact a.tidy
    next st p hl =>
      extract_lets u s₁ δ s₂
      have h₁ : TidyIn K s₁ := TidyIn.writeTile (v := u) (a.setLogged hl) a.owns
      have h₂ : TidyIn K s₂ := by
        cases band with
        | none => exact h₁
        | some b => exact h₁.writeHeader a.owns
      exact h₂.holdTile

theorem execAcccvt_tidy {f : RForm} (h : TidyIn K s) : Tidies K (execAcccvt f s) :=
  EffectTidy.issue (fun _ _ _ _ a => by
    split
    · exact a.tidy
    · split
      · exact a.tidy
      · exact readTiles_tidies a.tidy fun _ h => tileResult_tidies (a.withState h)) h

theorem quantise_tidy {f : RForm} {p : Nat} {given : Regs → Option (BitVec 16)} : EffectTidy (quantise f p given) := by
  intro K s id v a
  unfold quantise
  split
  · exact a.tidy
  · exact a.tidy
  · split
    · exact a.tidy
    · refine readTiles_tidies a.tidy fun r hr => ?_
      have ar := a.withState hr
      dsimp only
      split
      · exact tileResult_tidies ar
      · split
        · exact tileResult_tidies ar
        · exact tileResult_tidies ar

theorem execTew_tidy {f : RForm} (h : TidyIn K s) : Tidies K (execTew f s) :=
  EffectTidy.issue (fun _ _ _ _ a => by
    dsimp only
    split
    · exact a.tidy
    · exact a.tidy
    · exact a.tidy
    · split
      · exact a.tidy
      · refine readTiles_tidies a.tidy fun r hr => ?_
        split
        · exact tileResult_tidies (a.withState hr)
        · exact tileResult_tidies (a.withState hr)) h

/-! ## Scratch access and rings -/

theorem TidyIn.takeBanks (h : TidyIn K s) {a n : Nat} : TidyIn K (s.takeBanks v a n).1 := by
  unfold State.takeBanks
  extract_lets p q
  split
  · exact h.takeBank
  · exact TidyIn.takeBank (h.takeBank : TidyIn K p.1)

theorem withRead_tidies (h : TidyIn K s) {a : Int} {n align : Nat} {k : State → List Byte → Nat → Done}
    (hk : ∀ t bs lat, TidyIn K t → (k t bs lat).Tidies K) : (withRead s v a n align k).Tidies K := by
  unfold withRead
  split
  · exact h
  · split
    · exact h
    · exact hk _ _ _ h.takeBanks

/-- A loop of stores, where one that would trap is passed over. -/
theorem TidyIn.stores (h : TidyIn K s) (ho : v.committed = false → ¬K id) {α : Type} {l : List α} {at_ : α → Nat} {bs : α → List Byte} :
    TidyIn K (l.foldl (fun s x => match s.store id v (at_ x) (bs x) with | .ok s => s | .error _ => s) s) :=
  h.foldl fun s x h => by
    have hs := h.store ho (a := at_ x) (bs := bs x)
    split
    next he => rw [he] at hs; exact hs
    next => exact h

theorem execVld_tidy {f : MForm} (h : TidyIn K s) : Tidies K (execVld f s) :=
  EffectTidy.issue (fun _ _ _ _ a => withRead_tidies a.tidy fun _ _ _ h => (a.withState h).set) h

theorem execVst_tidy {f : MForm} (h : TidyIn K s) : Tidies K (execVst f s) :=
  EffectTidy.issue (fun _ _ _ _ a => by
    split
    · exact a.tidy
    · dsimp only
      split
      · exact a.tidy.takeBanks
      · exact a.tidy.takeBanks.stores a.owns) h

theorem execSld_tidy {f : MForm} (h : TidyIn K s) : Tidies K (execSld f s) :=
  EffectTidy.issue (fun _ _ _ _ a => withRead_tidies a.tidy fun _ _ _ h => (a.withState h).set) h

/-- A store whose trap its instruction raises. -/
theorem TidyIn.store_ok (h : TidyIn K s) (ho : v.committed = false → ¬K id) {a : Nat} {bs : List Byte}
    (hs : s.store id v a bs = .ok t) : TidyIn K t := by
  have := h.store ho (a := a) (bs := bs)
  rwa [hs] at this

theorem execSst_tidy {f : MForm} (h : TidyIn K s) : Tidies K (execSst f s) :=
  EffectTidy.issue (fun _ _ _ _ a => by
    extract_lets n
    split
    · exact a.tidy
    · dsimp only
      split
      · exact a.tidy.takeBanks
      next hs => exact a.tidy.takeBanks.store_ok a.owns hs) h

theorem execVgath_tidy {f : RForm} (h : TidyIn K s) : Tidies K (execVgath f s) :=
  EffectTidy.issue (fun _ _ _ _ a => by
    extract_lets offs sel
    split
    · exact a.tidy
    · split
      · exact a.tidy
      · exact a.set) h

theorem execVscat_tidy {f : RForm} (h : TidyIn K s) : Tidies K (execVscat f s) :=
  EffectTidy.issue (fun _ _ _ _ a => by
    extract_lets src offs sel
    split
    · exact a.tidy
    · split
      · exact a.tidy
      · exact a.tidy.stores a.owns) h

theorem TidyIn.setRing (h : TidyIn K s) {n : Nat} {r : Ring} : TidyIn K (s.setRing v n r) := h.modCell

theorem ringMove_tidy {f : IForm} {avail old : Ring → Nat} {move : Ring → Nat → Ring} : EffectTidy (ringMove f avail old move) := by
  intro K s id v a
  unfold ringMove
  extract_lets n i
  split
  · exact a.tidy
  · split
    · exact TidyIn.setRing a.set
    · exact a.tidy

theorem execRatom_tidy {f : MForm} (h : TidyIn K s) : Tidies K (execRatom f s) :=
  EffectTidy.issue (fun K _ _ _ a => by
    split
    · exact a.tidy
    · split
      · exact a.tidy
      · extract_lets old new p s₁
        have h₁ : TidyIn K s₁ := a.tidy.takeBanks.setInst a.ok
        split
        · exact h₁
        next hs => exact h₁.store_ok a.owns hs) h

theorem execTld_tidy {f : RForm} (h : TidyIn K s) : Tidies K (execTld f s) :=
  EffectTidy.issue (fun _ _ _ _ a => by
    split
    · exact a.tidy
    · extract_lets g bs s₁
      split
      · exact a.tidy
      · split
        · exact a.tidy
        · split
          · exact a.tidy
          · exact (TidyIn.either a.tidy a.tidy.count).setInst a.ok) h

theorem execRinit_tidy {f : IForm} (h : TidyIn K s) : Tidies K (execRinit f s) :=
  EffectTidy.issue (fun _ _ _ _ a => by
    dsimp only
    split
    · exact a.tidy
    · split
      · exact a.tidy
      · exact a.tidy.setRing) h

end Sys2Proof.Machine
end

section
/-!
Tidy answers of the far, copy and counter instructions and their events. One proof is elaborated at a time: the threads of hundreds of
proofs at once pass the memory that a check of the whole text may take.
-/

set_option Elab.async false

namespace Sys2Proof.Machine

open Sys2Proof.Claims

variable {K : Nat → Prop} {s t : State} {id : Nat} {v : Inst}

/-! ## Far words -/

theorem execSmark_tidy {f : IForm} (h : TidyIn K s) : Tidies K (execSmark f s) :=
  EffectTidy.issue (fun _ _ _ _ a => a.set) h

theorem execFld_tidy {f : MForm} (h : TidyIn K s) : Tidies K (execFld f s) :=
  EffectTidy.issue (fun K _ _ v a => by
    split
    · exact a.tidy
    · extract_lets lat earlier n k r s₁
      have h₁ : TidyIn K s₁ := a.tidy.withReads (sortedA_putA a.tidy.reads _ _)
      exact (h₁.setInst (v := v.tickStream) a.ok).countRequest.wakeFar) h

theorem execFarReadReply_tidy {k : Nat} (h : TidyIn K s) : Tidies K (execFarReadReply k s) := by
  have hd : TidyIn K { s with farReads := delA s.farReads k } := h.withReads (sortedA_delA h.reads k)
  unfold execFarReadReply
  split
  · exact h
  · split
    · extract_lets drop n stop
      have hstop : ∀ t, TidyIn K (stop t) := fun _ => hd.modInst.takeTrap
      split
      · exact TidyIn.wakeFar hd.modInst
      · split
        · exact hstop _
        · split
          · trivial
          · split
            · exact hstop _
            · exact TidyIn.wakeFar (h.withReads (sortedA_putA h.reads _ _)).schedule
    · exact hd

/-- An instruction that stages one far effect and then changes nothing of its instance's stage. -/
theorem TidyIn.stageFar_ok (h : TidyIn K s) {e : StagedFar} (hs : s.stageFar id v e = .ok t) : TidyIn K t := by
  have := h.stageFar (id := id) (v := v) (e := e)
  rwa [hs] at this

theorem TidyIn.tickStream (h : TidyIn K s) : TidyIn K (s.modInst id Inst.tickStream) := h.modInst

theorem execFst_tidy {f : MForm} (h : TidyIn K s) : Tidies K (execFst f s) :=
  EffectTidy.issue (fun _ _ _ _ a => by
    extract_lets n
    split
    · exact a.tidy
    · split
      · exact a.tidy
      next hs => exact (a.tidy.stageFar_ok hs).tickStream) h

theorem execPref_tidy {f : MForm} (h : TidyIn K s) : Tidies K (execPref f s) :=
  EffectTidy.issue (fun _ _ _ _ a => a.tidy) h

theorem TidyIn.leaseFault (h : TidyIn K s) {c l op seat ref : Nat} {notice : Bool} : TidyIn K (s.leaseFault c l op seat ref notice) :=
  TidyIn.either h.report h.report.endExpression

theorem execFarWritePerformed_tidy {k : Nat} (h : TidyIn K s) : Tidies K (execFarWritePerformed k s) := by
  unfold execFarWritePerformed
  split
  · exact h
  · extract_lets s₁
    have h₁ : TidyIn K s₁ := h
    split
    · exact h₁
    · split
      · exact h₁.leaseFault.finishFar.wakeFar
      · split
        · exact h₁.pokeFar.finishFar.wakeFar
        · trivial
    · split
      · exact h₁.pokeFar.modCtx.finishFar.wakeFar
      · trivial

/-! ## Copy commands -/

theorem afterDescriptor_tidies (h : TidyIn K s) {i : Instr} : (afterDescriptor i id v s).Tidies K :=
  (settle_tidy (d := .next s 1) h h).modInst

theorem copyEffect_tidy {i : Instr} {red : Bool} {f : MForm} : EffectTidy (copyEffect i red f) := by
  intro K s id v a
  unfold copyEffect
  split
  · exact a.tidy
  · extract_lets counted e earlier p
    have hc : ∀ {t}, TidyIn K t → TidyIn K (counted t) := fun h => h.tickStream.count
    split
    · split
      · exact a.tidy
      · exact afterDescriptor_tidies (hc a.tidy.enqueue)
    · split
      · exact a.tidy
      next hs => exact afterDescriptor_tidies (hc (a.tidy.stageFar_ok hs))

theorem execTsend_tidy {f : MForm} (h : TidyIn K s) : Tidies K (execTsend f s) :=
  EffectTidy.issue (fun _ _ _ _ a => by
    extract_lets n
    split
    · exact a.tidy
    · split
      · exact a.tidy
      · split
        · exact a.tidy
        · split
          · exact a.tidy
          next hs => exact afterDescriptor_tidies (a.tidy.stageFar_ok hs).modCtx.tickStream) h

/-! ## The copy engines -/

theorem TidyIn.dropCommand (h : TidyIn K s) {k : Command} : TidyIn K (s.dropCommand id k) := by
  unfold State.dropCommand
  extract_lets s₁
  have h₁ : TidyIn K s₁ := TidyIn.wakeFar h
  exact (TidyIn.either h₁.retrySetups h₁).nudge

theorem execCopyStart_tidy {q e : Nat} (h : TidyIn K s) : Tidies K (execCopyStart q e s) := by
  unfold execCopyStart
  split
  · exact h
  · extract_lets running s₁ first s₂ s₃
    have h₂ : TidyIn K s₂ := h
    have h₃ : TidyIn K s₃ := TidyIn.either h₂.schedule h₂
    split
    · exact h.dropCommand
    · split
      · exact h
      · exact h₃.schedule

theorem TidyIn.commandFault (h : TidyIn K s) {k : Command} {ref : Nat} : TidyIn K (s.commandFault id k ref) :=
  TidyIn.either h.dropCommand.leaseFault.finishFar h.dropCommand.leaseFault

theorem TidyIn.sourceDone (h : TidyIn K s) {k : Command} : TidyIn K (s.sourceDone id k) := by
  unfold State.sourceDone
  extract_lets s₁ time
  have h₁ : TidyIn K s₁ := h
  exact TidyIn.either h₁ (TidyIn.either h₁.scheduleArrival h₁.schedule)

theorem execCopySourceRead_tidy (h : TidyIn K s) : Tidies K (execCopySourceRead id s) := by
  unfold execCopySourceRead
  split
  · exact h
  · extract_lets e s₁
    have h₁ : TidyIn K s₁ := TidyIn.either h h
    split
    · exact h.dropCommand
    · split
      · split
        · exact h.dropCommand
        · split
          · exact h.schedule
          · extract_lets n a bs bad r' s₂ k'
            have h₂ : TidyIn K s₂ := h.modCell
            split
            · exact h₂.sourceDone.wakeFar
            · exact h₂
      · split
        · trivial
        · exact h₁.sourceDone.wakeFar

theorem TidyIn.ringFault (h : TidyIn K s) {k : Command} : TidyIn K (s.ringFault id k) :=
  TidyIn.either h.dropCommand.report h.dropCommand.report.endExpression

theorem TidyIn.completeCommand (h : TidyIn K s) {k : Command} : TidyIn K (s.completeCommand id k) := by
  unfold State.completeCommand
  extract_lets ctl s₁ s₂ card s₃ s₄
  have h₁ : TidyIn K s₁ := TidyIn.either h.schedule h
  have h₂ : TidyIn K s₂ := h₁.dropCommand
  have h₃ : TidyIn K s₃ := h₂.report
  have h₄ : TidyIn K s₄ := TidyIn.either (TidyIn.either h₃ h₃.endExpression) h₂
  exact TidyIn.either h₄.finishFar h₄

theorem execRingFillEntry_tidy (h : TidyIn K s) : Tidies K (execRingFillEntry id s) := by
  unfold execRingFillEntry
  split
  · exact h
  · extract_lets e cell read
    split
    · exact h.dropCommand
    · split
      · exact h.ringFault
      · extract_lets n a r'
        split
        · exact h.ringFault
        · split
          · exact h.schedule
          · clear_value read
            split
            · trivial
            · extract_lets s₁ s₂ s₃
              have h₁ : TidyIn K s₁ := h.pokeSide.touchCell
              have h₃ : TidyIn K s₃ := (TidyIn.either h₁ h₁ : TidyIn K s₂).modCell
              split
              · exact h.commandFault
              · split
                · exact h.schedule
                · split
                  · exact h₃
                  · exact h₃

theorem TidyIn.storeRuns {k : Command} {os : List Int} : ∀ {s : State} {m : Nat}, TidyIn K s → TidyIn K (s.storeRuns k os m).1 := by
  induction os with
  | nil => exact fun h => h
  | cons o os ih =>
    intro s m h
    unfold State.storeRuns
    extract_lets t e c new ctl bs s₁ lines s₂
    have h₁ : TidyIn K s₁ := TidyIn.either h h.pokeFar
    have h₂ : TidyIn K s₂ := TidyIn.either h₁ h₁
    split
    · exact h₂
    · split
      · exact h₂
      · exact ih h₂

theorem execCopyComplete_tidy (h : TidyIn K s) : Tidies K (execCopyComplete id s) := by
  unfold execCopyComplete
  split
  · exact h
  next k _ =>
    split
    · split
      · trivial
      · have hr := h.storeRuns (k := k) (os := runOffsets k.desc.dst.dims) (m := 0)
        split
        next he => rw [he] at hr; exact TidyIn.completeCommand hr
        next he => rw [he] at hr; exact TidyIn.commandFault hr
    · split
      · exact h.commandFault
      · split
        · extract_lets n
          split
          · exact TidyIn.commandFault h.newFree
          · exact TidyIn.completeCommand h.newFree
        · exact h.completeCommand

/-! ## Counters and fences -/

theorem execCounterIncrement_tidy {c k : Nat} (h : TidyIn K s) : Tidies K (execCounterIncrement c k s) := h.setCounter

theorem execCounterUpdateApplied_tidy {c k : Nat} {set : Bool} {w : Lane} (h : TidyIn K s) :
    Tidies K (execCounterUpdateApplied c k set w s) := by
  unfold execCounterUpdateApplied
  extract_lets s₁
  have h₁ : TidyIn K s₁ := h.setCounter
  split
  · refine TidyIn.wakeFar (TidyIn.finishFar ?_)
    exact h₁
  · exact h₁

/-- An instruction that stages a counter's update. -/
theorem stageCounter_tidies (a : Acts K s id v) {e : StagedFar} :
    Done.Tidies K (match s.stageFar id v e with | .error t => .trap s t | .ok s => .next (s.modInst id Inst.tickStream) 1) := by
  split
  · exact a.tidy
  next hs => exact (a.tidy.stageFar_ok hs).tickStream

theorem execCtrset_tidy {f : IForm} (h : TidyIn K s) : Tidies K (execCtrset f s) :=
  EffectTidy.issue (fun _ _ _ _ a => stageCounter_tidies a) h

theorem execCtradd_tidy {f : IForm} (h : TidyIn K s) : Tidies K (execCtradd f s) :=
  EffectTidy.issue (fun _ _ _ _ a => stageCounter_tidies a) h

theorem execCtrrd_tidy {f : IForm} (h : TidyIn K s) : Tidies K (execCtrrd f s) :=
  EffectTidy.issue (fun _ _ _ _ a => a.set) h

theorem execCtrwait_tidy {f : IForm} (h : TidyIn K s) : Tidies K (execCtrwait f s) :=
  EffectTidy.issue (fun _ _ _ _ a => by
    extract_lets n
    split
    · exact a.set
    · exact a.tidy) h

theorem execFence_tidy {f : ZForm} (h : TidyIn K s) : Tidies K (execFence f s) :=
  EffectTidy.issue (fun _ _ _ _ a => by
    extract_lets c
    split
    · exact a.tidy
    · split
      · split
        · exact a.tidy
        next hs => exact a.tidy.stageFar_ok hs
      · exact a.tidy) h

end Sys2Proof.Machine
end

section
/-!
Tidy answers of lesson loads and the switch beat. One proof is elaborated at a time: the threads of hundreds of
proofs at once pass the memory that a check of the whole text may take.
-/

set_option Elab.async false

namespace Sys2Proof.Machine

open Sys2Proof.Claims

variable {K : Nat → Prop} {s t : State} {id : Nat} {v : Inst}

/-! ## Lesson images and the switch beat -/

theorem TidyIn.passImage (h : TidyIn K s) {slot dc source e f beats : Nat} {k : LessonCopy} :
    TidyIn K (s.passImage slot dc source e f beats k) := h.foldl fun _ _ h => h

theorem TidyIn.loadSeat (h : TidyIn K s) {g i e : Nat} : TidyIn K (s.loadSeat g i e) := by
  unfold State.loadSeat
  split
  · exact h
  · exact TidyIn.either h (TidyIn.either h.modSeg.schedule h.modSeg.schedule)

theorem TidyIn.cacheLoad (h : TidyIn K s) {e g : Nat} : TidyIn K (s.cacheLoad e g) := by
  unfold State.cacheLoad
  split
  · exact h
  · exact h.foldl fun _ _ h => h.passImage

theorem execLessonImageReceived_tidy {g i : Nat} (h : TidyIn K s) : Tidies K (execLessonImageReceived g i s) := by
  unfold execLessonImageReceived
  split
  · exact h
  · split
    · exact h
    · split
      · exact h.loadSeat.cacheLoad
      · split
        · exact h
        · extract_lets bad s₁
          have h₁ : TidyIn K s₁ := h.modSeg
          split
          · exact h₁.schedule
          · exact h₁

theorem TidyIn.raiseMsix (h : TidyIn K s) {n : Nat} : TidyIn K (s.raiseMsix n) := h

theorem TidyIn.faultContext (h : TidyIn K s) {c : Nat} : TidyIn K (s.faultContext c) := by
  unfold State.faultContext
  extract_lets slot s₁ card s₂ held s₃ s₄
  have h₁ : TidyIn K s₁ := h.modCtx
  have h₂ : TidyIn K s₂ := h₁.foldl fun _ _ h => (TidyIn.either h.report h).endExpression
  have h₃ : TidyIn K s₃ := h₂.foldl fun _ _ h => h.modPart
  have h₄ : TidyIn K s₄ := h₃.foldl fun _ _ h => h.schedule
  exact h₄.raiseMsix.schedule

theorem execLoadReportsCollected_tidy {g : Nat} (h : TidyIn K s) : Tidies K (execLoadReportsCollected g s) := by
  unfold execLoadReportsCollected
  split
  · exact h
  · extract_lets s₁ words at_ s₂ card s₃ s₄
    have h₁ : TidyIn K s₁ := h
    have h₂ : TidyIn K s₂ := h₁.modSeg
    have h₃ : TidyIn K s₃ := h.report
    have h₄ : TidyIn K s₄ := h₃.report
    split
    · exact h
    · split
      · exact h.schedule
      · split
        · exact h₂.foldl fun _ _ h => h.modSeg.schedule
        · exact h₄.endExpression.faultContext

theorem TidyIn.leaveRing (h : TidyIn K s) {c k : Nat} : TidyIn K (s.leaveRing c k) := by
  unfold State.leaveRing
  extract_lets k entries filled head r stop x meets taken t a bs t'
  have ht : TidyIn K t := h
  have h' : TidyIn K t' := ht.modCell
  exact TidyIn.either ht (h'.withScr (writeBytes_wf h.scr a bs))

theorem TidyIn.leaveStandard (h : TidyIn K s) {c k : Nat} : TidyIn K (s.leaveStandard c k) := by
  unfold State.leaveStandard
  extract_lets k tys entry s₁ s₂
  have h₁ : TidyIn K s₁ := h
  exact (h₁.modCell : TidyIn K s₂).leaveRing

theorem execSwitchBeat_tidy {g : Nat} (h : TidyIn K s) : Tidies K (execSwitchBeat g s) := by
  unfold execSwitchBeat
  split
  · exact h
  · extract_lets s₁ buf s₂ s₃ cellcount s₄
    have h₂ : TidyIn K s₂ := (h.modSeg : TidyIn K s₁).foldl fun _ _ h => h.modCell
    have h₃ : TidyIn K s₃ := TidyIn.either h₂.schedule h₂
    have h₄ : TidyIn K s₄ := h₃.modCtx
    split
    · exact h
    · refine h₄.foldl fun s i h => ?_
      extract_lets cell x prot sym place s₅ k u
      have h₅ : TidyIn K s₅ := TidyIn.either h.leaveRing h
      refine h₅.newId.setInst ?_
      split
      · exact instOk.of_uncommitted rfl
      · exact instOk.fresh

end Sys2Proof.Machine
end

section
/-!
Tidy answers of the synchronisation and tree instructions and their events. One proof is elaborated at a time: the threads of hundreds of
proofs at once pass the memory that a check of the whole text may take.
-/

set_option Elab.async false

namespace Sys2Proof.Machine

open Sys2Proof.Claims

variable {K : Nat → Prop} {s t : State} {id : Nat} {v : Inst}

/-! ## Synchronisation -/

theorem sendSync_tidies (h : TidyIn K s) {i : Instr} {idx addr : Nat} {x y : Word} : (s.sendSync i id v idx addr x y).Tidies K := by
  unfold State.sendSync
  extract_lets e t k r s₁
  have h₁ : TidyIn K s₁ := h
  exact h₁.countRequest.scheduleArrival

theorem atomic_tidy {i : Instr} {f : MForm} {n : Nat} : EffectTidy (atomic i f n) := by
  intro K s id v a
  unfold atomic
  split
  · exact a.tidy
  · exact sendSync_tidies a.tidy.engage

theorem passOp_tidy {i : Instr} {f : IForm} {engages : Bool} : EffectTidy (passOp i f engages) := by
  intro K s id v a
  unfold passOp
  extract_lets p
  split
  · exact a.tidy
  · exact sendSync_tidies (TidyIn.either a.tidy.engage a.tidy)

theorem execBell_tidy {f : IForm} (h : TidyIn K s) : Tidies K (execBell f s) :=
  EffectTidy.issue (fun K s _ _ a => by
    extract_lets scope mark u s₁ b owner
    have h₁ : TidyIn K s₁ := a.set
    split
    · exact a.set
    · split
      · exact (settle_tidy (d := .wait s₁ .segBell) h₁ h₁).trySegBell
      · exact sendSync_tidies h₁) h

theorem TidyIn.replySync (h : TidyIn K s) {k : Nat} {op : SyncOp} {w : Word} {c : Option Nat} : TidyIn K (s.replySync k op w c) := h

theorem TidyIn.modPass (h : TidyIn K s) {slot n : Nat} {f : Pass → Pass} : TidyIn K (s.modPass slot n f) := h.modPart

theorem TidyIn.grantPass (h : TidyIn K s) {slot n k : Nat} {op : SyncOp} : TidyIn K (s.grantPass slot n k op) :=
  h.modPass.engage.replySync

theorem TidyIn.performSync (h : TidyIn K s) {k : Nat} {op : SyncOp} : TidyIn K (s.performSync k op) := by
  unfold State.performSync
  extract_lets slot live p s₁ s₂ n gen s₃
  split
  · exact TidyIn.either h (TidyIn.either h.replySync (TidyIn.either h.grantPass (TidyIn.either h.replySync h.modPass)))
  · exact TidyIn.either h.replySync h.modPass.modSeg.replySync.schedule
  · exact h.replySync
  · clear_value gen
    split
    · exact h
    · split
      · exact h.replySync
      · split
        · exact TidyIn.either h h
        · exact TidyIn.either h.replySync (TidyIn.either h h)
  · split
    · exact h
    · extract_lets n old s₁
      have h₁ : TidyIn K s₁ := by
        dsimp only [s₁]
        split
        · exact h.modCtx
        · exact h
      exact h₁.replySync

theorem TidyIn.moveBaton (h : TidyIn K s) : TidyIn K s.moveBaton := TidyIn.either h h.schedule

theorem execSyncOpPerformed_tidy {k : Nat} (h : TidyIn K s) : Tidies K (execSyncOpPerformed k s) := by
  unfold execSyncOpPerformed
  split
  · exact h
  · split
    · exact h
    · split
      · exact TidyIn.moveBaton h
      · extract_lets e at_ s₁
        have h₁ : TidyIn K s₁ := TidyIn.either h h
        split
        · exact h
        · exact h₁.performSync

theorem execBatonHop_tidy {e : Nat} (h : TidyIn K s) : Tidies K (execBatonHop e s) := by
  unfold execBatonHop
  extract_lets mine start n s₁ s₂ s₃ leave s₄
  have h₁ : TidyIn K s₁ := h
  have h₂ : TidyIn K s₂ := h₁.foldl fun _ _ h => by
    split
    · exact h
    · exact h
  have h₃ : TidyIn K s₃ := TidyIn.either h₂ h₂
  have h₄ : TidyIn K s₄ := h₃
  exact TidyIn.either h₄ h₄.schedule

theorem execSyncReply_tidy {k : Nat} (h : TidyIn K s) : Tidies K (execSyncReply k s) := by
  unfold execSyncReply
  split
  · exact h
  · extract_lets s₁
    have h₁ : TidyIn K s₁ := h
    split
    · exact h₁
    next hv =>
      split
      · exact h₁
      · split
        · exact h₁.takeTrap
        · exact Tidies.either (TidyIn.schedule (h₁.setInstOf hv)) h₁.complete

theorem execBellComplete_tidy {key : Nat} (h : TidyIn K s) : Tidies K (execBellComplete key s) := by
  unfold execBellComplete
  split
  · exact h.engage.foldl fun _ _ h => by
      split
      · split
        · exact h.complete
        · exact h
      · exact h
  · split
    · exact h
    · split
      · exact h
      · extract_lets s₁
        have h₁ : TidyIn K s₁ := h
        exact h₁.foldl fun _ _ h => by
          split
          · exact h.engage.replySync
          · exact h

theorem TidyIn.handPass (h : TidyIn K s) {c p : Nat} : TidyIn K (s.handPass c p) := by
  unfold State.handPass
  extract_lets slot q
  split
  · split
    · exact h
    · refine TidyIn.either ?_ h
      split
      · exact h.modPass
      · extract_lets s₁
        have h₁ : TidyIn K s₁ := h.modPass
        split
        · exact h₁.grantPass
        · exact h₁.modPass
  · exact h

theorem execPassHandoff_tidy {c p : Nat} (h : TidyIn K s) : Tidies K (execPassHandoff c p s) := h.handPass

/-! ## Tree instructions -/

theorem collective_tidy {i : Instr} {word : Word} {vec : Regs → VecVal} {val : Regs → Word} : EffectTidy (collective i word vec val) := by
  intro K s id v a
  unfold collective
  extract_lets u s₁
  have h₁ : TidyIn K s₁ := settle_tidy (d := .wait _ .sweep) (a.set : TidyIn K (s.setInst id u)) a.tidy
  exact h₁.tryCollective

theorem execSweepResult_tidy {g k : Nat} (h : TidyIn K s) : Tidies K (execSweepResult g k s) := by
  unfold execSweepResult
  split
  · exact h
  · split
    · exact h
    · extract_lets seats s₁
      have h₁ : TidyIn K s₁ := h.foldl fun _ _ h => by
        split
        · split
          · exact h.complete
          · exact h
        · exact h
      exact h₁.modSeg.releaseSweep

theorem execNeedSweepComplete_tidy {g : Nat} (h : TidyIn K s) : Tidies K (execNeedSweepComplete g s) := by
  unfold execNeedSweepComplete
  split
  · exact h
  · exact h.modSeg.releaseSweep

theorem execFwd_tidy {f : QForm} (h : TidyIn K s) : Tidies K (execFwd f s) :=
  EffectTidy.issue (fun K s _ v a => by
    split
    · exact a.tidy
    · split
      · exact a.tidy
      next i u hu =>
        have hok : instOk K i u := a.tidy.seat hu
        extract_lets waiting s₁ t
        have h₁ : TidyIn K s₁ := a.tidy.setInst (by split <;> exact hok)
        split
        · exact a.tidy
        · split
          · exact a.tidy
          · exact h₁.schedule) h

theorem execNeighbourArrival_tidy {fromLeft : Bool} {w : VecVal} (h : TidyIn K s) : Tidies K (execNeighbourArrival id fromLeft w s) :=
  h.modInst fun u hu => by
    split
    · exact hu
    · split <;> exact hu

theorem execRcv_tidy {f : QForm} (h : TidyIn K s) : Tidies K (execRcv f s) :=
  EffectTidy.issue (fun K s id v a => by
    extract_lets fromRight q sender coming gone
    clear_value q
    split
    next w rest =>
      extract_lets u
      have hu : TidyIn K (s.setInst id u) := a.tidy.setInst (by
        show instOk K id (if _ then _ else _)
        split <;> exact a.ok)
      split
      · exact hu.complete
      · exact a.tidy.setInst (by
          show instOk K id { (if _ then _ else _ : Inst) with regs := _ }
          split <;> exact a.ok)
    next => exact Done.Tidies.either a.set a.tidy) h

end Sys2Proof.Machine
end

section
/-!
Tidy answers of the standard operators. One proof is elaborated at a time: the threads of hundreds of
proofs at once pass the memory that a check of the whole text may take.
-/

set_option Elab.async false

namespace Sys2Proof.Machine

open Sys2Proof.Claims

variable {K : Nat → Prop} {s t : State} {id : Nat} {v : Inst}

/-! ## Standard operators -/

/-- What a standard operator comes to is tidy. -/
def StdRun.Tidies (K : Nat → Prop) : StdRun → Prop
  | .done s _ | .wait s | .ended s => TidyIn K s
  | .fault _ => True

@[simp] theorem done_tidies_iff {out : List Word} : (StdRun.done s out).Tidies K ↔ TidyIn K s := Iff.rfl
@[simp] theorem wait_tidies_iff : (StdRun.wait s).Tidies K ↔ TidyIn K s := Iff.rfl
@[simp] theorem fault_tidies {a : Nat} : (StdRun.fault a).Tidies K := trivial

theorem standardTrap_tidies (h : TidyIn K s) {c : Nat} : (s.standardTrap id c).Tidies K := h.takeTrap

theorem stdTrap_tidies (h : TidyIn K s) {k : TrapInfo} : (s.stdTrap id k).Tidies K := h.takeTrap

theorem StdRun.Tidies.either {c : Prop} [Decidable c] {a b : StdRun} (ha : a.Tidies K) (hb : b.Tidies K) :
    (if c then a else b).Tidies K := by
  split
  · exact ha
  · exact hb

/-- What forming a result tile answers is tidy. -/
def TileAllows (K : Nat → Prop) {α : Type} : Except Nat (Except TrapInfo (State × α)) → Prop
  | .ok (.ok p) => TidyIn K p.1
  | .ok (.error _) | .error _ => True

theorem TileAllows.mono {α : Type} {r : Except Nat (Except TrapInfo (State × α))} (h : TileAllows K r) {L : Nat → Prop}
    (hL : ∀ i, K i → L i) : TileAllows L r :=
  match r, h with
  | .ok (.ok _), h => TidyIn.mono h hL
  | .ok (.error _), _ | .error _, _ => trivial

theorem resultTile_allows (h : TidyIn K s) {ty : Ty} {rows cols : Nat} {band : BitVec 16} {bs : List Byte}
    {log : Option (EntryInfo × List (Nat × Bool))} : TileAllows K (s.resultTile id ty rows cols band bs log) := by
  unfold State.resultTile
  split
  · trivial
  next v hv =>
    obtain ⟨L, hL, a⟩ := h.acts hv
    refine TileAllows.mono ?_ hL
    extract_lets count
    split
    · trivial
    · extract_lets hd src δ write
      have hw : ∀ {t : State} {u : Inst} {p : Producer}, TidyIn L t → (u.committed = false → ¬L id) → TidyIn L (write t u p).1 :=
        fun ht hu => ht.pokeSide.noteWrite.writeHeader hu
      split
      · split
        · trivial
        next hl =>
          extract_lets u
          exact hw (u := u) (a.setLogged hl) a.owns
      · exact hw a.tidy a.owns

theorem finishTile_tidies (h : TidyIn K s) {r : Except Nat (Except TrapInfo (State × Nat))} (hr : TileAllows K r) :
    (finishTile s id r).Tidies K := by
  unfold finishTile
  split
  · exact standardTrap_tidies h
  · exact stdTrap_tidies h
  · exact hr

theorem stdTilePair_tidies (h : TidyIn K s) {op ha hb : Nat} : (stdTilePair s id v op ha hb).Tidies K := by
  unfold stdTilePair
  split
  · exact stdTrap_tidies h
  · split
    · split
      · exact standardTrap_tidies h
      · split
        · exact standardTrap_tidies h
        · exact finishTile_tidies h (resultTile_allows h)
    · exact standardTrap_tidies h

theorem stdArith_tidies (h : TidyIn K s) {record : Bool} {op : Nat} {args : List (List Word)} :
    (stdArith s id v record op args).Tidies K := by
  unfold stdArith
  repeat' split
  all_goals simp [h, standardTrap_tidies h, stdTilePair_tidies h]

theorem stdAff_tidies (h : TidyIn K s) {args : List (List Word)} : (stdAff s id args).Tidies K := by
  unfold stdAff
  repeat' split
  all_goals simp [h, standardTrap_tidies h]

theorem resultTiles_allows {ty : Ty} {rows cols : Nat} {cs : List (List Nat)} : ∀ {s : State} {hs : List Nat}, TidyIn K s →
    TileAllows K (s.resultTiles id ty rows cols cs hs) := by
  induction cs with
  | nil => exact fun h => h
  | cons c cs ih =>
    intro s hs h
    have hr := resultTile_allows (id := id) h (ty := ty) (rows := rows) (cols := cols) (band := 0x3F80#16) (bs := packElements ty c)
      (log := none)
    unfold State.resultTiles
    split
    · trivial
    · trivial
    next he =>
      rw [he] at hr
      exact ih hr

theorem stdSweep_tidies (h : TidyIn K s) {mode comb first : Nat} {items : List (List Word)} :
    (stdSweep s id v mode comb first items).Tidies K := by
  unfold stdSweep
  extract_lets wrap ps es vs m scs tls scalars
  clear_value scalars
  split
  · exact h
  · split
    · split
      · exact standardTrap_tidies h
      · split
        · exact standardTrap_tidies h
        · exact h
    · split
      · split
        · exact standardTrap_tidies h
        · split
          · exact standardTrap_tidies h
          · exact h
      · split
        · split
          · exact stdTrap_tidies h
          · split
            · exact standardTrap_tidies h
            next t0 _ _ =>
              split
              · exact standardTrap_tidies h
              · extract_lets codes n cols outs
                have hr := resultTiles_allows (id := id) (ty := t0.hdr.ty) (rows := t0.hdr.rows) (cols := t0.hdr.cols) (cs := outs)
                  (hs := []) h
                split
                · exact standardTrap_tidies h
                · exact stdTrap_tidies h
                next he =>
                  rw [he] at hr
                  exact hr
        · split
          · exact standardTrap_tidies h
          · exact standardTrap_tidies h

theorem stdForm_tidies (h : TidyIn K s) {record : Bool} {op : Nat} {args : List (List Word)} :
    (stdForm s id record op args).Tidies K := by
  unfold stdForm
  repeat' split
  all_goals simp [h, standardTrap_tidies h]

theorem stdSequence_tidies (h : TidyIn K s) {record : Bool} {op : Nat} {args : List (List Word)} :
    (stdSequence s id v record op args).Tidies K := by
  unfold stdSequence
  dsimp only
  repeat' split
  all_goals simp [h, standardTrap_tidies h, stdTrap_tidies h, finishTile_tidies h (resultTile_allows h)]

theorem stdQuoted_tidies (h : TidyIn K s) {a : Nat} {f : Word → Word} {k : List Word → List Word} : (stdQuoted s id v a f k).Tidies K := by
  unfold stdQuoted
  repeat' split
  all_goals simp [h, standardTrap_tidies h, stdTrap_tidies h]

theorem stdFetch_tidies (a : Acts K s id v) {args : List (List Word)} : (stdFetch s id v args).Tidies K := by
  have h := a.tidy
  unfold stdFetch
  split
  · split
    · exact stdQuoted_tidies h
    · exact standardTrap_tidies h
  · split
    · split
      · exact standardTrap_tidies h
      · split
        · exact standardTrap_tidies h
        next ty _ =>
          extract_lets rows cols
          split
          · exact standardTrap_tidies h
          · split
            · trivial
            · exact stdTrap_tidies h
            next bs _ =>
              have hr := resultTile_allows (id := id) h (ty := ty) (rows := rows) (cols := cols) (band := 0x3F80#16) (bs := bs)
                (log := none)
              split
              · exact standardTrap_tidies h
              · exact stdTrap_tidies h
              next he =>
                rw [he] at hr
                exact TidyIn.writeHeader hr a.owns
    · exact standardTrap_tidies h
  · exact standardTrap_tidies h

theorem withPass_tidies (h : TidyIn K s) {k : State → Nat → StdRun} (hk : ∀ t p, TidyIn K t → (k t p).Tidies K) :
    (withPass s id v k).Tidies K := by
  unfold withPass
  split
  · exact standardTrap_tidies h
  next p _ =>
    split
    · exact hk _ _ (TidyIn.modSeg h.modPass)
    · extract_lets f
      have hs := sendSync_tidies (id := id) (v := v) h (i := .pacq f) (idx := p) (addr := p) (x := 0#64) (y := 0#64)
      split
      next he =>
        rw [he] at hs
        exact TidyIn.modInst hs
      · exact h

theorem stdStore_tidies (h : TidyIn K s) {args : List (List Word)} : (stdStore s id v args).Tidies K := by
  unfold stdStore
  split
  · split
    · split
      · refine withPass_tidies h fun t p ht => ?_
        dsimp only
        split
        · exact stdTrap_tidies ht
        · split
          · trivial
          · split
            · exact ht
            · split
              · exact stdTrap_tidies ht
              next hs => exact ht.stageFar_ok hs
      · exact standardTrap_tidies h
      · exact stdTrap_tidies h
    · exact standardTrap_tidies h
  · exact standardTrap_tidies h

theorem stdSeq_tidies (h : TidyIn K s) {record : Bool} {args : List (List Word)} : (stdSeq s id v record args).Tidies K := by
  unfold stdSeq
  split
  · exact h
  · split
    · exact standardTrap_tidies h
    · split
      · exact standardTrap_tidies h
      · exact withPass_tidies h fun _ _ ht => stdQuoted_tidies ht
  · exact standardTrap_tidies h

theorem stdMmTiles_tidies (a : Acts K s id v) {hx hw : Nat} : (stdMmTiles s id v hx hw).Tidies K := by
  have h := a.tidy
  unfold stdMmTiles
  split
  · split
    · exact standardTrap_tidies h
    · split
      · exact standardTrap_tidies h
      · extract_lets cs
        split
        · exact stdTrap_tidies h
        next hl => exact finishTile_tidies (a.setLogged hl) (resultTile_allows (a.setLogged hl))
  · exact standardTrap_tidies h
  · exact stdTrap_tidies h

theorem stdMmFar_tidies (h : TidyIn K s) {record : Bool} {fa fb : List Word} {nums : List (List Word)} :
    (stdMmFar s id v record fa fb nums).Tidies K := by
  unfold stdMmFar
  dsimp only
  repeat' split
  all_goals simp [h, standardTrap_tidies h]

theorem stdMmt_tidies (h : TidyIn K s) {args : List (List Word)} : (stdMmt s id v args).Tidies K := by
  unfold stdMmt
  repeat' split
  all_goals simp [standardTrap_tidies h, stdTrap_tidies h, finishTile_tidies h (resultTile_allows h)]

theorem stdQuant_tidies (h : TidyIn K s) {x fm : List Word} {band : Option (List Word)} : (stdQuant s id v x fm band).Tidies K := by
  unfold stdQuant
  split
  · split
    · exact stdTrap_tidies h
    · split
      · exact standardTrap_tidies h
      · extract_lets ty given
        clear_value given
        split
        · exact standardTrap_tidies h
        · split
          · exact standardTrap_tidies h
          · split
            · exact standardTrap_tidies h
            · exact finishTile_tidies h (resultTile_allows h)
    · exact standardTrap_tidies h
  · exact standardTrap_tidies h

theorem runOperator_tidies (a : Acts K s id v) {op : Nat} {record : Bool} {args : List (List Word)} :
    (s.runOperator id v op record args).Tidies K := by
  have h := a.tidy
  have one : ∀ {c : Nat}, (s.standardTrap id c).Tidies K := standardTrap_tidies h
  unfold State.runOperator
  refine .either (stdAff_tidies h) (.either (stdArith_tidies h) (.either ?mm (.either (stdMmt_tidies h) (.either ?sums (.either ?sweeps
    (.either (stdForm_tidies h) (.either (stdSequence_tidies h) (.either (stdFetch_tidies a) (.either (stdStore_tidies h)
    (.either (stdSeq_tidies h) (.either ?record ?quant)))))))))))
  case mm =>
    split
    · split
      · exact stdMmTiles_tidies a
      · exact one
    · exact stdMmFar_tidies h
    · exact one
  case sums =>
    split
    · split
      · exact .either h (stdSweep_tidies h)
      · exact one
    · exact one
  case sweeps =>
    split
    · split
      · exact stdSweep_tidies h
      · exact one
    · exact one
  case record =>
    split
    · split
      · exact stdQuoted_tidies h
      · exact one
    · exact one
  case quant =>
    split
    · exact stdQuant_tidies h
    · exact stdQuant_tidies h
    · exact one

end Sys2Proof.Machine
end

section
/-!
Tidy answers of collectives across devices. One proof is elaborated at a time: the threads of hundreds of
proofs at once pass the memory that a check of the whole text may take.
-/

set_option Elab.async false

namespace Sys2Proof.Machine

open Sys2Proof.Claims

variable {K : Nat → Prop} {s t : State} {id : Nat} {v : Inst}

/-! ## Collectives across devices -/

theorem TidyIn.fabricEvent (h : TidyIn K s) : TidyIn K s.fabricEvent := h

theorem TidyIn.startStep (h : TidyIn K s) {k : Collective} : TidyIn K (s.startStep id k) := by
  unfold State.startStep
  split
  · exact h
  · split
    · exact h
    · split
      · exact h
      · exact h

theorem runXchg_tidies (h : TidyIn K s) {args : List (List Word)} : (s.runXchg id v args).Tidies K := by
  unfold State.runXchg
  split
  · split
    · exact standardTrap_tidies h
    · split
      · trivial
      · trivial
      · exact stdTrap_tidies h
      · exact stdTrap_tidies h
      · extract_lets steps member
        split
        · exact standardTrap_tidies h
        · split
          · trivial
          · exact stdTrap_tidies h
          · extract_lets k s₁
            have h₁ : TidyIn K s₁ := h
            exact wait_tidies_iff.mpr h₁.engage.schedule
  · exact standardTrap_tidies h

theorem TidyIn.endCollective (h : TidyIn K s) {k : Collective} {status : Nat} : TidyIn K (s.endCollective id k status) := by
  unfold State.endCollective
  extract_lets seg seat card s₁ s₂
  have h₁ : TidyIn K s₁ := h.report
  have h₂ : TidyIn K s₂ := h₁.handReleases.discard
  refine TidyIn.endExpression ?_
  exact h₂

theorem execCollectiveHandshake_tidy (h : TidyIn K s) : Tidies K (execCollectiveHandshake id s) := by
  unfold execCollectiveHandshake
  split
  · exact h
  · extract_lets agree s₁
    have h₁ : TidyIn K s₁ := h
    split
    · exact h₁.startStep
    · exact h₁.endCollective

theorem finishCollective_tidies (h : TidyIn K s) {k : Collective} : Tidies K (s.finishCollective id k) := by
  unfold State.finishCollective
  split
  · exact h.endCollective
  next a _ =>
    extract_lets s₁ card s₂
    have hp := TidyIn.pokeFar (s := { s with colls := delA s.colls id }) h (a := a) (bs := k.data)
    have h₁ : TidyIn K s₁ := hp.modSeg
    have h₂ : TidyIn K s₂ := TidyIn.either h₁ h₁.report.modLaunch
    split
    · trivial
    · exact h₂.schedule

theorem execCollectiveStepComplete_tidy (h : TidyIn K s) : Tidies K (execCollectiveStepComplete id s) := by
  unfold execCollectiveStepComplete
  split
  · exact h
  · split
    · exact h
    · split
      · exact finishCollective_tidies h
      · extract_lets n bad s₁
        have h₁ : TidyIn K s₁ := h
        split
        · exact h₁.endCollective
        · exact h₁.startStep

theorem execParkedReply_tidy {c : Nat} (h : TidyIn K s) : Tidies K (execParkedReply c id s) := by
  unfold execParkedReply
  split
  · exact h
  · split
    · exact h
    · exact Tidies.either h h

theorem execSwitchSlotLoss_tidy (h : TidyIn K s) : Tidies K (execSwitchSlotLoss id s) := by
  unfold execSwitchSlotLoss
  split
  · exact h
  · exact h.unschedule.startStep

theorem TidyIn.memberLost (h : TidyIn K s) {k : Collective} : TidyIn K (s.memberLost id k) := by
  unfold State.memberLost
  split
  · exact h
  · split
    · exact h
    · extract_lets reduces needsLost a m m' s₁
      have h₁ : TidyIn K s₁ := h
      split
      · exact h.endCollective
      · exact h₁.startStep

theorem execMemberLostTimeout_tidy (h : TidyIn K s) : Tidies K (execMemberLostTimeout id s) := by
  unfold execMemberLostTimeout
  split
  · exact h
  · exact Tidies.either h.memberLost h

theorem execLinkDown_tidy {plane : Nat} (h : TidyIn K s) : Tidies K (execLinkDown plane s) := by
  unfold execLinkDown
  extract_lets link d s₁
  have h₁ : TidyIn K s₁ := h
  exact h₁.foldl fun _ _ h => h.memberLost

theorem execPeerWriteArrival_tidy {w : PeerWrite} (h : TidyIn K s) : Tidies K (execPeerWriteArrival w s) := by
  unfold execPeerWriteArrival
  extract_lets d s₁
  have h₁ : TidyIn K s₁ := TidyIn.either h h
  split
  · exact h₁
  · split
    · exact h₁
    · extract_lets win n a new bs s₂
      have h₂ : TidyIn K s₂ := h₁.pokeFar
      split
      · exact h₁
      · split
        · trivial
        · split
          · exact Tidies.either h₂.schedule h₂
          · exact h₂

end Sys2Proof.Machine
end

section
/-!
Tidy answers of the launch queues and of the operator that reverses a copybook. One proof is elaborated at a time: the threads of hundreds of
proofs at once pass the memory that a check of the whole text may take.
-/

set_option Elab.async false

namespace Sys2Proof.Machine

open Sys2Proof.Claims

variable {K : Nat → Prop} {s t : State} {id : Nat} {v : Inst}

/-! ## Launch queues -/

theorem TidyIn.modQueue (h : TidyIn K s) {slot q : Nat} {f : LQueue → LQueue} : TidyIn K (s.modQueue slot q f) := h.modPart

theorem TidyIn.fillUnit (h : TidyIn K s) {slot : Nat} : TidyIn K (s.fillUnit slot) := h.foldl fun _ _ h => h.schedule

theorem TidyIn.wakeSweep (h : TidyIn K s) {slot : Nat} : TidyIn K (s.wakeSweep slot) := TidyIn.either h h.modPart.schedule

theorem TidyIn.takenRecord (h : TidyIn K s) {slot q : Nat} {r : List Word} : TidyIn K (s.takenRecord slot q r) := by
  unfold State.takenRecord
  extract_lets pos s₁ k src s₂
  have h₁ : TidyIn K s₁ := h.modQueue
  have h₂ : TidyIn K s₂ := by
    refine TidyIn.either (TidyIn.fillUnit ?_) h₁
    exact h₁
  exact h₂.schedule.wakeSweep

theorem TidyIn.pushLaunch (h : TidyIn K s) {slot q : Nat} {r : List Word} : TidyIn K (s.pushLaunch slot q r).1 := by
  unfold State.pushLaunch
  extract_lets u a s₁
  have h₁ : TidyIn K s₁ := h.withMem (writeWords_wf h.mem _ _)
  split
  · exact h.modQueue.takenRecord
  · split
    · exact h₁.modQueue.takenRecord
    · exact h.modQueue

theorem TidyIn.popHead (h : TidyIn K s) {slot q : Nat} : TidyIn K (s.popHead slot q) := h.modQueue.schedule

theorem TidyIn.appendVirtual (h : TidyIn K s) {c q : Nat} {r : List Word} : TidyIn K (s.appendVirtual c q r).1 := by
  unfold State.appendVirtual
  dsimp only
  split
  · exact h
  · exact h.withMem (writeNat_wf (writeWords_wf h.mem _ _) _ _ _)

theorem execAgentAppend_tidy {c q : Nat} {r : List Word} (h : TidyIn K s) : Tidies K (execAgentAppend c q r s) := h.appendVirtual

theorem TidyIn.advanceFleet {c : Nat} : ∀ {n : Nat} {s : State}, TidyIn K s → TidyIn K (s.advanceFleet c n)
  | 0, _, h => h
  | n + 1, s, h => by
    unfold State.advanceFleet
    extract_lets x a head s₁
    have h₁ : TidyIn K s₁ := h.withMem (writeNat_wf h.mem _ _ _)
    split
    · exact h₁.modCtx.advanceFleet
    · exact h

theorem TidyIn.commitPops (h : TidyIn K s) {c : Nat} : TidyIn K (s.commitPops c id) := by
  unfold State.commitPops
  split
  · exact h.modCtx.advanceFleet
  · exact h

/-! ## The standard operator that reverses a copybook -/

theorem TidyIn.putLeaf (h : TidyIn K s) {g : RevState} {k : TileKey} {hd : HdrView} : TidyIn K (s.putLeaf id v g k hd).1 := by
  unfold State.putLeaf
  split
  · exact h
  · exact h.pokeSide.noteWrite.modInst

theorem runReverse_tidies (h : TidyIn K s) {args : List (List Word)} : (s.runReverse id v args).Tidies K := by
  unfold State.runReverse
  split
  · split
    next t n seeds _ _ =>
      refine .either (standardTrap_tidies h) (.either (standardTrap_tidies h) (.either (standardTrap_tidies h) ?_))
      extract_lets +onlyGivenNames hdr addrs
      split
      · trivial
      · extract_lets +onlyGivenNames r s₁
        have h₁ : TidyIn K s₁ := h
        clear_value s₁
        refine .either (stdTrap_tidies h₁) ?_
        extract_lets +onlyGivenNames outs
        refine .either (standardTrap_tidies h₁) ?_
        split
        · exact stdTrap_tidies h₁
        · extract_lets +onlyGivenNames fits leaves seeded stop
          have hstop : ∀ x, (stop x).Tidies K := fun x => by
            cases x with
            | cause n => exact standardTrap_tidies h₁
            | trap t => exact stdTrap_tidies h₁
          refine .either (standardTrap_tidies h₁) ?_
          split
          · exact hstop _
          next g _ =>
            extract_lets +onlyGivenNames done
            clear_value done
            split
            · exact hstop _
            next g _ =>
              exact TidyIn.foldl_fst h₁ fun p l hp => by
                split
                · exact hp.putLeaf
                · exact hp
    · exact standardTrap_tidies h
  · exact standardTrap_tidies h

end Sys2Proof.Machine
end

section
/-!
Tidy answers of the commit of a segment and of the limiter. One proof is elaborated at a time: the threads of hundreds of
proofs at once pass the memory that a check of the whole text may take.
-/

set_option Elab.async false

namespace Sys2Proof.Machine

open Sys2Proof.Claims

variable {K : Nat → Prop} {s t : State} {id : Nat} {v : Inst}

/-! ## The commit of a segment -/

theorem writeWordsAll_wf {α : Type} {m : Memory} (h : Memory.wf m = true) {l : List α} {a : α → Nat} {ws : α → List Word} :
    Memory.wf (l.foldl (fun m e => writeWords m (a e) (ws e)) m) = true := by
  induction l generalizing m with
  | nil => exact h
  | cons e l ih => exact ih (writeWords_wf h _ _)

theorem TidyIn.publish (h : TidyIn K s) {c : Nat} {is : List (Nat × Inst)} : TidyIn K (s.publish c is) := by
  unfold State.publish
  extract_lets +onlyGivenNames n
  split
  · exact h
  · extract_lets hd w0 p cur seq next saves offs r m₁ w1 w2 m₂ m₃ m₄ m₅
    have hr : Memory.wf r.1 = true := by
      have key : ∀ (l : List (Nat × Inst)) (a : Memory × Nat × Nat × Bool), Memory.wf a.1 = true →
          Memory.wf (l.foldl (fun (acc : Memory × Nat × Nat × Bool) i =>
            let (m, k, sv, opq) := acc
            let m := i.2.stage.lane.foldl (fun m e =>
              writeWords m (p.1 + p.2 + 64 * (k + e.lane)) (e.words seq (next + k + e.lane) (next + k) cur fun j => offs.getD (sv + j) 0)) m
            (m, k + i.2.stage.lane.length, sv + i.2.stage.saves.length, opq || i.2.stage.lane.any (·.hasOpaque))) a).1 = true := by
        intro l
        induction l with
        | nil => exact fun _ h => h
        | cons e l ih => exact fun a ha => ih _ (writeWordsAll_wf ha)
      exact key _ _ h.mem
    exact h.withMem (writeNat_wf (writeNat_wf (writeNat_wf (writeNat_wf (writeBytes_wf hr _ _) _ _ _) _ _ _) _ _ _) _ _ _)

theorem TidyIn.applyStage (h : TidyIn K s) : TidyIn K (s.applyStage id v) := by
  unfold State.applyStage
  extract_lets +onlyGivenNames c cell st s₁ s₂ s₃ s₄ s₅
  have h₁ : TidyIn K s₁ := h.modCell
  have h₂ : TidyIn K s₂ := h₁.foldl fun _ _ h => h.pokeSide
  have h₃ : TidyIn K s₃ := h₂.foldl fun _ _ h => h.modCell
  have h₄ : TidyIn K s₄ := h₃.foldl fun _ _ h => h.modCell
  have h₅ : TidyIn K s₅ := h₄.modCtx
  exact h₅.commitPops.releaseStage

theorem TidyIn.logFull (h : TidyIn K s) {g : Nat} {seg : Segment} {bytes : Nat} : TidyIn K (s.logFull g seg bytes) := by
  unfold State.logFull
  extract_lets +onlyGivenNames hd w0 s₁
  have h₁ : TidyIn K s₁ := TidyIn.either h (h.withMem (writeNat_wf h.mem _ _ _))
  exact (h₁.modCtx.modSeg).schedule

theorem TidyIn.beginCommit (h : TidyIn K s) {g : Nat} : TidyIn K (s.beginCommit g) := by
  unfold State.beginCommit
  split
  · exact h
  · exact TidyIn.either h.modSeg (TidyIn.either h.modCtx.modSeg (TidyIn.either (TidyIn.either h h.logFull) h.modCtx.modSeg.schedule))

theorem runStandard_tidies (a : Acts K s id v) {op : Nat} {record : Bool} {args : List (List Word)} :
    (s.runStandard id v op record args).Tidies K :=
  .either (runReverse_tidies a.tidy) (.either (runXchg_tidies a.tidy) (runOperator_tidies a))

theorem StdRun.Tidies.mono {r : StdRun} (h : r.Tidies K) {L : Nat → Prop} (hL : ∀ i, K i → L i) : r.Tidies L := by
  cases r with
  | fault a => trivial
  | _ => exact TidyIn.mono h hL

/-- In a tidy state a seat's instance is the one that lives under its number. -/
theorem TidyIn.seat_inst (h : TidyIn K s) {g q : Nat} {x : Nat × Inst} (hx : s.seatInst g q = some x) : s.inst? x.1 = some x.2 :=
  lookupA_of_mem h.insts (List.mem_of_find?_eq_some hx)

theorem mem_bySeat {g n : Nat} {x : Nat × Inst} (hx : x ∈ s.bySeat g n) : ∃ q, s.seatInst g q = some x := by
  obtain ⟨q, _, hq⟩ := List.mem_filterMap.mp hx
  exact ⟨q, hq⟩

theorem execSegmentCommit_tidy {g : Nat} (h : TidyIn K s) : Tidies K (execSegmentCommit g s) := by
  unfold execSegmentCommit
  split
  · exact h
  next seg _ =>
    refine .either h ?_
    extract_lets +onlyGivenNames grow is
    have hgrow : ∀ t n, TidyIn K t → TidyIn K (grow t n) := fun t n ht =>
      TidyIn.either ht.modSeg.beginCommit ht.modSeg.modSeg.wakeSweep
    clear_value grow
    split
    · split
      · exact h
      next id v hi =>
        extract_lets finish
        have hfin : ∀ t out, TidyIn K t → Tidies K (finish t out) := fun t out ht =>
          .either ht.takeTrap (.either ht.takeTrap (hgrow _ _ ht.modSeg))
        clear_value finish
        split
        · exact hfin _ _ h
        · obtain ⟨q, hq⟩ := mem_bySeat (List.mem_of_getElem? hi)
          obtain ⟨L, hL, a⟩ := h.acts (h.seat_inst hq)
          have hr := (runStandard_tidies a (op := seg.opnum) (record := seg.record) (args := argsOf seg.syms)).mono hL
          split
          next he => rw [he] at hr; exact hr
          next he => rw [he] at hr; exact hr
          next he => trivial
          next he => rw [he] at hr; exact hfin _ _ hr
    · split
      · exact h.takeTrap
      · exact .either h.takeTrap (hgrow _ _ h)

theorem rowOk.placeSymbols {launch : Nat} {busy : Option Nat} {ws : List Word} : ∀ {x : Ctx} {at_ : Nat}, rowOk x →
    rowOk (x.placeSymbols launch busy at_ ws) := by
  induction ws with
  | nil => exact fun h => h
  | cons w ws ih => exact fun h => ih (h.setSeat _ _)

theorem rowOk.clearSeats {busy : Option Nat} {n : Nat} : ∀ {x : Ctx} {at_ : Nat}, rowOk x → rowOk (x.clearSeats busy at_ n) := by
  induction n with
  | zero => exact fun h => h
  | succ n ih => exact fun h => ih (h.setSeat _ _)

theorem TidyIn.rewriteRow (h : TidyIn K s) {g : Nat} {seg : Segment} {out : List Word} {tails : Bool} :
    TidyIn K (s.rewriteRow g seg out tails) :=
  h.modCtx fun _ hx => ((hx.mapSeats _).clearSeats).placeSymbols

/-- A tail begins with an empty stage, so it stages no header. -/
theorem TidyIn.startTails (h : TidyIn K s) (hK : ∀ i, K i) {g : Nat} : TidyIn K (s.startTails g) :=
  h.foldl fun s i h => by
    have hok : ∀ u : Inst, u.stage = Stage.empty → instOk K i.1 u := fun u hu _ => ⟨by rw [hu]; rfl, hK _⟩
    split
    · exact h
    · dsimp only
      split
      · exact (h.setInst (hok _ rfl)).endTail
      · exact h.setInst (hok _ rfl)

theorem TidyIn.checkFinished (h : TidyIn K s) {c l : Nat} : TidyIn K (s.checkFinished c l) := by
  unfold State.checkFinished
  split
  · exact h
  · split
    · exact h.modLaunch
    · exact h

theorem execCommitComplete_tidy {g : Nat} (h : TidyIn K s) (hK : ∀ i, K i) : Tidies K (execCommitComplete g s) := by
  unfold execCommitComplete
  split
  · exact h
  next seg _ =>
    refine .either h ?_
    extract_lets +onlyGivenNames is out next tails s₁ s₂ r s₃ s₄ s₅ s₆ s₇
    have h₁ : TidyIn K s₁ := h.rewriteRow
    have h₂ : TidyIn K s₂ := h₁.publish
    have hr : TidyIn K r.1 := TidyIn.foldl_fst h₂ fun _ _ hp => hp.applyStage
    have h₃ : TidyIn K s₃ := TidyIn.either (hr.foldl fun _ _ h => h.leaveStandard) hr
    have h₄ : TidyIn K s₄ := h₃.modSeg
    have h₅ : TidyIn K s₅ := h₄.foldl fun _ _ h => h.schedule
    have h₆ : TidyIn K s₆ := h₅.startTails hK
    have h₇ : TidyIn K s₇ := TidyIn.either h₆.dropSegment h₆
    exact h₇.checkFinished.wakeSweep

/-! ## The limiter of a quarter -/

theorem execMmaAccumulatorReady_tidy {a : Nat} (h : TidyIn K s) : Tidies K (execMmaAccumulatorReady id a s) := by
  unfold execMmaAccumulatorReady
  split
  · exact h
  · exact h.count

theorem execLimiterStep_tidy {q : Nat} (h : TidyIn K s) : Tidies K (execLimiterStep q s) := by
  unfold execLimiterStep
  extract_lets +onlyGivenNames l ends s₁ l₁ ready d c order p s₂ s₃ l₂ busy s₄
  have h₁ : TidyIn K s₁ := h.modLimiter
  have h₂ : TidyIn K s₂ := h₁.modLimiter
  have h₃ : TidyIn K s₃ := h₂.foldl fun _ _ h => h.admitRequest
  have h₄ : TidyIn K s₄ := h₃.modLimiter
  clear_value s₄
  exact .either h₄.modLimiter h₄.schedule

theorem execCapControl_tidy (h : TidyIn K s) : Tidies K (execCapControl s) := by
  unfold execCapControl
  extract_lets +onlyGivenNames cap power cells move s₁ s₂
  have h₁ : TidyIn K s₁ := h
  exact TidyIn.schedule (h₁.foldl fun _ _ h => h.modLimiter)

end Sys2Proof.Machine
end

section
/-!
Tidy answers of launches and their setup. One proof is elaborated at a time: the threads of hundreds of
proofs at once pass the memory that a check of the whole text may take.
-/

set_option Elab.async false

namespace Sys2Proof.Machine

open Sys2Proof.Claims

variable {K : Nat → Prop} {s t : State} {id : Nat} {v : Inst}

/-! ## Launches -/

theorem TidyIn.writeRecord (h : TidyIn K s) {c : Nat} {r ws : List Word} : Allows K (s.writeRecord c r ws) := by
  unfold State.writeRecord
  extract_lets a irq
  have hi : ∀ t, TidyIn K t → TidyIn K (irq t) := fun t ht => TidyIn.either ht.raiseMsix ht
  split
  · exact hi s h
  · split
    · trivial
    · exact hi _ h.pokeFar

theorem Allows.ok {ε : Type} {r : Except ε State} (h : Allows K r) (he : r = .ok t) : TidyIn K t := by
  rw [he] at h
  exact h

theorem TidyIn.writeRecord_ok (h : TidyIn K s) {c : Nat} {r ws : List Word} (he : s.writeRecord c r ws = .ok t) : TidyIn K t :=
  h.writeRecord.ok he

theorem TidyIn.clearExpression (h : TidyIn K s) {l : Nat} {v : Launch} : TidyIn K (s.clearExpression l v) := by
  unfold State.clearExpression
  extract_lets free s₁
  have h₁ : TidyIn K s₁ := h.modCtx fun x hx => by
    extract_lets y
    exact (hx.mapSeats _ : rowOk y)
  exact h₁.modPart

theorem TidyIn.completeFront {slot q : Nat} {n : Nat} : ∀ {s : State}, TidyIn K s → Allows K (State.completeFront slot q n s) := by
  induction n with
  | zero => exact fun h => h
  | succ n ih =>
    intro s h
    unfold State.completeFront
    dsimp only
    split
    · exact h.schedule
    · split
      · exact h.modQueue
      · split
        · trivial
        next he => exact ih (h.writeRecord_ok he).modQueue
    · exact h.schedule

theorem TidyIn.completeFront_ok {slot q n : Nat} (h : TidyIn K s) (he : State.completeFront slot q n s = .ok t) : TidyIn K t :=
  h.completeFront.ok he

theorem TidyIn.retireLaunch (h : TidyIn K s) {l : Nat} {v : Launch} : Allows K (s.retireLaunch l v) := by
  unfold State.retireLaunch
  extract_lets s₁ s₂ s₃ s₄ s₅
  have h₁ : TidyIn K s₁ := h.modLaunch
  have h₂ : TidyIn K s₂ := h₁
  have h₄ : TidyIn K s₄ := (h₂.modPart : TidyIn K s₃).modQueue
  have h₅ : TidyIn K s₅ := h₄.fillUnit.retrySetups.schedule
  cases he : State.completeFront v.slot v.queue (((s₅.part v.slot).queue v.queue).pending.length + 1) s₅ with
  | error a => trivial
  | ok t => exact (h₅.completeFront_ok he).wakeSweep

theorem execCompletionRecordWrite_tidy {l : Nat} (h : TidyIn K s) : Tidies K (execCompletionRecordWrite l s) := by
  unfold execCompletionRecordWrite
  split
  · exact h
  · refine .either h ?_
    extract_lets s₁
    have h₁ : TidyIn K s₁ := TidyIn.either h.clearExpression h.modCtx
    split
    · refine .either h₁ ?_
      split
      · trivial
      next hw =>
        split
        · trivial
        next hr => exact (h₁.writeRecord_ok hw).retireLaunch.ok hr
    · exact h₁

theorem TidyIn.takeHead (h : TidyIn K s) {slot q pos : Nat} {l : Option Nat} : TidyIn K (s.takeHead slot q pos l) := h.modQueue.popHead

theorem TidyIn.endUnstarted (h : TidyIn K s) {l status : Nat} : TidyIn K (s.endUnstarted l status) := h.modLaunch

theorem execRecordAtHead_tidy {slot q : Nat} (h : TidyIn K s) : Tidies K (execRecordAtHead slot q s) := by
  unfold execRecordAtHead
  extract_lets +onlyGivenNames u
  split
  · exact h
  · split
    · extract_lets s₁ s₂
      have h₁ : TidyIn K s₁ := h.modLaunch
      have h₂ : TidyIn K s₂ := TidyIn.either h₁ (TidyIn.either h₁.endUnstarted (TidyIn.either h₁.endUnstarted h₁))
      exact .either h₂.modLaunch.takeHead.schedule (.either h₂.wakeSweep h₂)
    · split
      · extract_lets s₁
        have h₁ : TidyIn K s₁ := h.modQueue.takeHead
        split
        · trivial
        next he => exact h₁.completeFront_ok he
      · refine .either h ?_
        split
        · trivial
        next he =>
          have h₁ := h.writeRecord_ok he
          exact (TidyIn.either h₁.modQueue h₁).popHead

theorem TidyIn.beginSetup (h : TidyIn K s) {l : Nat} {v : Launch} : TidyIn K (s.beginSetup l v) :=
  TidyIn.either h.modLaunch.schedule (TidyIn.either h.modLaunch h.modLaunch.schedule)

theorem execDependenceEntry_tidy {l : Nat} (h : TidyIn K s) : Tidies K (execDependenceEntry l s) := by
  unfold execDependenceEntry
  split
  · exact h
  · refine .either h.beginSetup (.either h ?_)
    extract_lets s₁
    have h₁ : TidyIn K s₁ := h.modPart
    split
    · exact h₁.modLaunch.endUnstarted.schedule
    · exact h₁.modLaunch.beginSetup

theorem TidyIn.endSetup (h : TidyIn K s) {l : Nat} {v : Launch} {status : Nat} : TidyIn K (s.endSetup l v status) :=
  h.report.modLaunch.endUnstarted.schedule

theorem TidyIn.trySetup (h : TidyIn K s) {l : Nat} {v : Launch} : TidyIn K (s.trySetup l v) := by
  unfold State.trySetup
  extract_lets +onlyGivenNames a
  refine TidyIn.either h.endSetup (TidyIn.either h.modLaunch.schedule.wakeSweep ?_)
  extract_lets new card s₁ s₂
  have h₁ : TidyIn K s₁ := h.foldl fun _ _ h => h.report
  have h₂ : TidyIn K s₂ := TidyIn.either h₁.schedule h₁
  exact h₂.modLaunch.schedule

theorem execLeaseSetupComplete_tidy {l : Nat} (h : TidyIn K s) : Tidies K (execLeaseSetupComplete l s) := by
  unfold execLeaseSetupComplete
  split
  · exact h
  · exact .either h.trySetup h

theorem execPageRewalk_tidy {l : Nat} (h : TidyIn K s) : Tidies K (execPageRewalk l s) := by
  unfold execPageRewalk
  split
  · exact h
  · exact .either h.trySetup h

theorem execLeaseTimeout_tidy {l : Nat} (h : TidyIn K s) : Tidies K (execLeaseTimeout l s) := by
  unfold execLeaseTimeout
  split
  · exact h
  · exact .either h.endSetup h

theorem TidyIn.startLaunch (h : TidyIn K s) {slot q l : Nat} {v : Launch} : TidyIn K (s.startLaunch slot q l v) :=
  h.modLaunch.takeHead.modPart

theorem TidyIn.startHeads {slot c n : Nat} : ∀ {s : State}, TidyIn K s → TidyIn K (s.startHeads slot c n) := by
  induction n with
  | zero => exact fun h => h
  | succ n ih =>
    intro s h
    unfold State.startHeads
    split
    · exact ih h.startLaunch
    · exact h

end Sys2Proof.Machine
end

section
/-!
Tidy answers of the storage manager. One proof is elaborated at a time: the threads of hundreds of
proofs at once pass the memory that a check of the whole text may take.
-/

set_option Elab.async false

namespace Sys2Proof.Machine

open Sys2Proof.Claims

variable {K : Nat → Prop} {s t : State} {id : Nat} {v : Inst}

/-! ## The storage manager -/

/-- Seats that are set in turn keep the row in order. -/
theorem rowOk.foldl {α : Type} {f : Ctx → α → Ctx} {x : Ctx} (h : rowOk x) {l : List α} (hf : ∀ x a, rowOk x → rowOk (f x a)) :
    rowOk (l.foldl f x) := by
  induction l generalizing x with
  | nil => exact h
  | cons a l ih => exact ih (hf x a h)

theorem rowOk.freeze {x : Ctx} (h : rowOk x) {on : Bool} {seats : List Nat} : rowOk (x.freeze on seats) :=
  h.foldl fun _ _ h => h.setSeat _ _

theorem rowOk.reserve {owner n : Nat} : ∀ {x : Ctx} {at_ : Nat}, rowOk x → rowOk (x.reserve owner at_ n) := by
  induction n with
  | zero => exact fun h => h
  | succ n ih => exact fun h => ih (h.setSeat _ _)

theorem rowOk.takeRun {launch n : Nat} : ∀ {x : Ctx} {at_ : Nat}, rowOk x → rowOk (x.takeRun launch at_ n) := by
  induction n with
  | zero => exact fun h => h
  | succ n ih => exact fun h => ih (h.setSeat _ _)

theorem rowOk.unreserve {x : Ctx} (h : rowOk x) : rowOk x.unreserve := h.mapSeats _

theorem rowOk.applyMoves {x : Ctx} (h : rowOk x) {moves : List (Nat × Nat)} : rowOk (x.applyMoves moves) :=
  (h.foldl fun _ _ h => h.setSeat _ _).foldl fun _ _ h => h.setSeat _ _

theorem TidyIn.exhaust (h : TidyIn K s) {g : Nat} {seg : Segment} : TidyIn K (s.exhaust g seg) :=
  h.report.handReleases.discard.endExpression

theorem TidyIn.planPark (h : TidyIn K s) {v : RowView} {found : List Found} {g : Nat} {seg : Segment} :
    TidyIn K (s.planPark v found g seg).1 := by
  unfold State.planPark
  repeat' split
  · exact h
  · exact h.exhaust
  · exact h.exhaust
  · exact h

theorem TidyIn.planPlacement (h : TidyIn K s) {v : RowView} {fin : Nat} : TidyIn K (s.planPlacement v fin).1 := by
  unfold State.planPlacement
  split
  · exact h
  next l _ =>
    extract_lets +onlyGivenNames r n placed
    have hp : TidyIn K (placed s) := h.modPart
    clear_value placed
    split
    · dsimp only
      exact hp.report.endExpression
    · split
      · exact h
      · split
        next p _ =>
          extract_lets +onlyGivenNames take
          have ht : ∀ x, rowOk x → rowOk (take x) := fun x hx => (hx.takeRun : rowOk (x.takeRun l p n))
          exact (hp.modCtx ht).modLaunch.schedule
        · exact h

theorem execExpressionPlaced_tidy {l : Nat} (h : TidyIn K s) : Tidies K (execExpressionPlaced l s) := by
  unfold execExpressionPlaced
  split
  · exact h
  next v _ =>
    refine .either h ?_
    extract_lets +onlyGivenNames a n
    split
    · trivial
    · extract_lets +onlyGivenNames ws cellcount seats fail
      have hf : ∀ status addr, TidyIn K (fail status addr) := fun _ _ => h.report.endExpression
      clear_value fail
      refine .either (hf _ _) (.either (hf _ _) ?_)
      extract_lets s₁ s₂
      have h₁ : TidyIn K s₁ := h.modCtx fun _ hx => hx.foldl fun _ _ h => h.setSeat _ _
      have h₂ : TidyIn K s₂ := h₁.modLaunch
      exact h₂.checkFinished.wakeSweep.nudge

theorem TidyIn.planStep (h : TidyIn K s) {slot c : Nat} {found : List Found} {draining : Bool} :
    TidyIn K (s.planStep slot c found draining) := by
  unfold State.planStep
  extract_lets +onlyGivenNames n fin v requests g moves v₁ s₁ v₂ p s₂ v₃ pl s₃ v₄ u s₄
  have h₁ : TidyIn K s₁ := h.foldl fun _ _ h => (h.modCtx fun _ hx => hx.reserve).modSeg
  have h₂ : TidyIn K s₂ := by
    show TidyIn K p.1
    unfold p
    split
    · exact h₁.planPark
    · exact h₁
  have h₃ : TidyIn K s₃ := by
    show TidyIn K pl.1
    dsimp only [pl]
    split
    · exact h₂
    · exact h₂.planPlacement
  have h₄ : TidyIn K s₄ := by
    dsimp only [s₄]
    clear_value u
    split
    · exact h₃.modCtx fun _ hx => hx.reserve
    · exact h₃
  clear_value s₄
  exact TidyIn.either h₄ h₄.modCtx.modPart.scheduleFirst

theorem TidyIn.beginMove (h : TidyIn K s) {slot c : Nat} {m : Move} : TidyIn K (s.beginMove slot c m) := by
  refine (TidyIn.modCtx h fun x hx => ?_).modPart.schedule
  have hy : rowOk (x.freeze true m.seats) := hx.freeze
  extract_lets y
  split
  · exact hy
  · exact hy

theorem TidyIn.beginMoves (h : TidyIn K s) {slot c : Nat} {ms : List Move} : TidyIn K (s.beginMoves slot c ms) := by
  unfold State.beginMoves
  extract_lets now s₁
  have h₁ : TidyIn K s₁ := h.foldl fun _ _ h => h.beginMove
  exact TidyIn.either h₁ (h₁.modCtx fun _ hx => hx.unreserve)

theorem execShiftWave_tidy {slot : Nat} (h : TidyIn K s) : Tidies K (execShiftWave slot s) := by
  unfold execShiftWave
  extract_lets +onlyGivenNames p
  split
  next w c _ _ =>
    refine .either h ?_
    extract_lets s₁ now s₂ s₃ s₄
    have h₁ : TidyIn K s₁ := h.foldl fun _ _ h => by
      repeat' split
      · exact h.complete
      · exact h
      · exact h
    have h₂ : TidyIn K s₂ := h₁.beginMoves
    have h₃ : TidyIn K s₃ := h₂.modPart
    have h₄ : TidyIn K s₄ := h₂.modCtx fun _ hx => hx.freeze
    exact .either (h₃.foldl fun _ _ h => h.beginCommit).nudge h₄.modPart.schedule
  · exact h

theorem execWaveComplete_tidy {slot : Nat} (h : TidyIn K s) : Tidies K (execWaveComplete slot s) := by
  unfold execWaveComplete
  extract_lets +onlyGivenNames p
  split
  next w c _ _ =>
    refine .either h ?_
    extract_lets +onlyGivenNames s₁ follow s₂ s₃ s₄ waiting
    have h₁ : TidyIn K s₁ := h.modCtx fun _ hx => hx.applyMoves.freeze
    have hf : ∀ g, (follow g).1 = g.1 := fun g => by
      dsimp only [follow]
      repeat' split
      all_goals rfl
    have h₂ : TidyIn K s₂ := h₁.withSegs (sortedA_map h₁.segs _ hf)
    have h₃ : TidyIn K s₃ := h₂.modPart
    have h₄ : TidyIn K s₄ := h₃.beginMoves
    exact (h₄.foldl fun _ _ h => h.beginCommit).wakeSweep.nudge
  · exact h

theorem TidyIn.endMove (h : TidyIn K s) {slot c : Nat} {m : Move} : TidyIn K (s.endMove slot c m) :=
  (h.modCtx fun _ hx => hx.freeze).modPart.wakeSweep.nudge

theorem TidyIn.resumeCommits (h : TidyIn K s) {c : Nat} : TidyIn K (s.resumeCommits c) := h.foldl fun _ _ h => h.beginCommit

theorem execParkWriteComplete_tidy {slot : Nat} (h : TidyIn K s) : Tidies K (execParkWriteComplete slot s) := by
  unfold execParkWriteComplete
  extract_lets +onlyGivenNames p
  split
  next c a b addr g _ _ =>
    extract_lets +onlyGivenNames m x ws q drop
    have hd : ∀ t, TidyIn K t → TidyIn K (drop t) := fun t ht => ht.modCtx.endMove
    clear_value drop
    refine .either (hd _ h) (.either (hd _ h.report.modSeg) ?_)
    extract_lets l words s₁ s₂
    have h₂ : TidyIn K s₂ := (h.pokeFar : TidyIn K s₁).endMove
    exact h₂.modCtx fun _ hx => (hx.foldl fun _ _ h => h.setSeat _ _).setSeat _ _
  · exact h

theorem execUnparkComplete_tidy {slot : Nat} (h : TidyIn K s) : Tidies K (execUnparkComplete slot s) := by
  unfold execUnparkComplete
  extract_lets +onlyGivenNames p
  split
  next c a n _ _ =>
    extract_lets +onlyGivenNames m q addr s₁ fail
    have h₁ : TidyIn K s₁ := h.endMove.modCtx fun _ hx => hx.unreserve
    have hf : ∀ status, TidyIn K (fail status) := fun _ => h₁.report.endExpression
    clear_value fail
    refine .either h₁ ?_
    split
    · trivial
    · refine .either (hf _) ?_
      extract_lets +onlyGivenNames hd ws
      refine .either (hf _) (h₁.modCtx fun x hx => ?_)
      have hy : ∀ (l : List (Word × Nat)), rowOk (l.foldl (fun x w => x.setSeat (a + w.2) (if symKind w.1 = 0 then SeatState.free else
          { SeatState.free with sym := raiseLevel (symLevel q.sym) w.1, launch := q.launch })) x) :=
        fun _ => hx.foldl fun _ _ h => h.setSeat _ _
      exact hy _
  · exact h

theorem execTidyCopyComplete_tidy {slot : Nat} (h : TidyIn K s) : Tidies K (execTidyCopyComplete slot s) := by
  unfold execTidyCopyComplete
  extract_lets +onlyGivenNames p
  split
  next c a old _ _ =>
    extract_lets +onlyGivenNames s₁ q
    have h₁ : TidyIn K s₁ := h.endMove.resumeCommits
    clear_value s₁
    split
    · exact h₁
    · refine .either h₁ (.either h₁.noticePoison ?_)
      split
      · exact h₁
      · exact (h₁.modCell.pokeSide.modCell).modCtx fun _ hx => hx.setSeat _ _
  · exact h

theorem execUnfoldRequestArrival_tidy {q a : Nat} (h : TidyIn K s) : Tidies K (execUnfoldRequestArrival id q a s) := by
  unfold execUnfoldRequestArrival
  split
  · exact h
  · exact h.modPart.wakeSweep

end Sys2Proof.Machine
end

section
/-!
Tidy answers of roll call, pre-emption, the switch of contexts and the context commands. One proof is elaborated at a time: the threads of hundreds of
proofs at once pass the memory that a check of the whole text may take.
-/

set_option Elab.async false

namespace Sys2Proof.Machine

open Sys2Proof.Claims

variable {K : Nat → Prop} {s t : State} {id : Nat} {v : Inst}

/-! ## Roll call, pre-emption and the switch of contexts -/

theorem writeByteAll_wf {α : Type} {m : Memory} (h : Memory.wf m = true) {l : List α} {a : α → Nat} {b : α → Byte} :
    Memory.wf (l.foldl (fun m e => writeByte m (a e) (b e)) m) = true := by
  induction l generalizing m with
  | nil => exact h
  | cons e l ih => exact ih (writeByte_wf h _ _)

theorem overlay_wf {m : Memory} (h : Memory.wf m = true) {base : Nat} {covers : Nat → Bool} {image : Memory} :
    Memory.wf (Memory.overlay m base covers image) = true := writeByteAll_wf (filter_wf h _)

theorem rowOk.of_empty {x : Ctx} (h : x.row = []) : rowOk x := by
  unfold rowOk
  rw [h]
  rfl

theorem TidyIn.evict (h : TidyIn K s) {c : Nat} : TidyIn K (s.evict c) := by
  unfold State.evict
  extract_lets +onlyGivenNames x cells k s₁ area image₁ image lines s₂
  have h₁ : TidyIn K s₁ := h
  have h₂ : TidyIn K s₂ := h₁.withMem (overlay_wf h₁.mem)
  clear_value s₂
  exact h₂.modCtx

theorem TidyIn.restore (h : TidyIn K s) {c : Nat} : TidyIn K (s.restore c) := by
  unfold State.restore
  extract_lets +onlyGivenNames x cells area base bytes side scr₁ scr mine poisoned cleared words q records s₁
  have h₁ : TidyIn K s₁ := h.withScr (writeByteAll_wf (filter_wf h.scr _))
  clear_value words records s₁
  exact h₁.modCtx

theorem TidyIn.enter (h : TidyIn K s) {slot c : Nat} : TidyIn K (s.enter slot c) := by
  unfold State.enter
  extract_lets x bad s₁ s₂ s₃ s₄ s₅ s₆ s₇
  have h₂ : TidyIn K s₂ := TidyIn.either h (TidyIn.either (h.modCtx : TidyIn K s₁).restore h.modCtx)
  have h₄ : TidyIn K s₄ := (h₂.modCtx : TidyIn K s₃).modPart
  have h₅ : TidyIn K s₅ := h₄.schedule.fireSends
  have h₆ : TidyIn K s₆ := h₅.foldl fun _ _ h => h.startStep
  have h₇ : TidyIn K s₇ := TidyIn.either h₆.report.faultContext h₆
  exact h₇.wakeSweep

theorem TidyIn.startWave (h : TidyIn K s) {slot : Nat} : TidyIn K (s.startWave slot) := TidyIn.either h h.modPart.schedule

theorem TidyIn.beginSwitch (h : TidyIn K s) {slot c began : Nat} : TidyIn K (s.beginSwitch slot c began) :=
  TidyIn.either h h.modPart.schedule

theorem TidyIn.freePasses (h : TidyIn K s) {slot c : Nat} : TidyIn K (s.freePasses slot c) :=
  h.foldl fun _ _ h => h.modPass.handPass

theorem TidyIn.finishDestroy (h : TidyIn K s) {slot c : Nat} : TidyIn K (s.finishDestroy slot c) := by
  unfold State.finishDestroy
  extract_lets +onlyGivenNames s₁ s₂ live s₃ s₄ absent s₅ s₆
  have h₁ : TidyIn K s₁ := h.foldl fun _ _ h => h.discard
  have h₂ : TidyIn K s₂ := h₁.freePasses
  have h₃ : TidyIn K s₃ := h₂.foldl fun _ _ h => h.endExpression
  have h₅ : TidyIn K s₅ := (h₃.modPart : TidyIn K s₄).modCtx fun _ _ => .of_empty rfl
  have h₆ : TidyIn K s₆ := h₅.foldl fun _ _ h => h.schedule
  exact h₆.schedule

theorem TidyIn.quiescent (h : TidyIn K s) {slot c : Nat} : TidyIn K (s.quiescent slot c) := by
  unfold State.quiescent
  extract_lets p s₁
  have h₁ : TidyIn K s₁ := TidyIn.either h.modCtx h
  refine TidyIn.either h₁.finishDestroy ?_
  split
  · exact TidyIn.either h₁.beginSwitch h₁
  · exact h₁
  · exact TidyIn.either h₁.modPart.schedule h₁

theorem TidyIn.sampleRoll (h : TidyIn K s) {slot c : Nat} : TidyIn K (s.sampleRoll slot c) :=
  TidyIn.either h.modCtx.quiescent h.modCtx

theorem execRollCallWave_tidy {slot : Nat} (h : TidyIn K s) : Tidies K (execRollCallWave slot s) := by
  unfold execRollCallWave
  extract_lets +onlyGivenNames p s₁
  have h₁ : TidyIn K s₁ := by
    dsimp only [s₁]
    split
    · exact TidyIn.either h.modPart h
    · exact h
  clear_value s₁
  split
  · exact h₁.startWave
  · refine .either h₁ ?_
    extract_lets s₂
    have h₂ : TidyIn K s₂ := h₁.modPart
    exact (h₂.foldl fun _ _ h => h.sampleRoll).startWave

theorem execPreemptDecision_tidy {slot : Nat} (h : TidyIn K s) : Tidies K (execPreemptDecision slot s) := by
  unfold execPreemptDecision
  extract_lets +onlyGivenNames p
  refine .either h ?_
  split
  next c _ _ =>
    extract_lets s₁ s₂
    have h₂ : TidyIn K s₂ := (h.modPart : TidyIn K s₁).foldl fun _ _ h => h.discard
    exact h₂.schedule.schedule.wakeSweep
  · exact .either h.enter (.either h.modPart.schedule h.schedule)
  · exact h

theorem execTurnExpiry_tidy {slot : Nat} (h : TidyIn K s) : Tidies K (execTurnExpiry slot s) := .either (execPreemptDecision_tidy h) h

theorem execPreemptionTimeout_tidy {slot began : Nat} (h : TidyIn K s) : Tidies K (execPreemptionTimeout slot began s) := by
  unfold execPreemptionTimeout
  extract_lets +onlyGivenNames p
  split
  · exact h
  · refine .either h ?_
    extract_lets +onlyGivenNames late
    refine .either h ?_
    extract_lets +onlyGivenNames card s₁ s₂
    have h₁ : TidyIn K s₁ := h.foldl fun _ _ h => h.report.endExpression
    have h₂ : TidyIn K s₂ := h₁.foldl fun _ _ h => (TidyIn.either h h.handReleases).discard
    exact h₂.report.faultContext.schedule

theorem execContextSwitchComplete_tidy {slot : Nat} (h : TidyIn K s) : Tidies K (execContextSwitchComplete slot s) := by
  unfold execContextSwitchComplete
  extract_lets +onlyGivenNames p s₁ s₂
  have h₁ : TidyIn K s₁ := by
    dsimp only [s₁]
    split
    · exact TidyIn.either h.evict h
    · exact h
  have h₂ : TidyIn K s₂ := h₁.modPart
  clear_value s₂
  split
  · extract_lets s₃ s₄
    have h₃ : TidyIn K s₃ := by
      dsimp only [s₃]
      split
      · exact h₂.modCtx
      · exact h₂
    have h₄ : TidyIn K s₄ := h₃.modPart
    clear_value s₄
    split
    · exact .either h₄.enter h₄.schedule
    · exact h₄.schedule
  · exact h₂.schedule

/-! ## Context commands -/

theorem TidyIn.commandDone (h : TidyIn K s) {c code : Nat} {refused : Bool} : TidyIn K (s.commandDone c code refused) := h.modCtx

theorem execCreate_tidy {c : Nat} (h : TidyIn K s) : Tidies K (execCreate c s) := by
  unfold execCreate
  extract_lets +onlyGivenNames x a refuse
  have hr : Tidies K refuse := h.commandDone
  clear_value refuse
  refine .either hr ?_
  split
  · trivial
  · exact .either hr (TidyIn.commandDone (h.setCtx (.of_empty rfl)))

theorem execDestroy_tidy {c : Nat} (h : TidyIn K s) : Tidies K (execDestroy c s) := .either h.commandDone h.commandDone.modCtx.schedule

theorem execResetCounters_tidy {c : Nat} (h : TidyIn K s) : Tidies K (execResetCounters c s) :=
  .either h.commandDone h.commandDone.modCtx.schedule

theorem execCancelSends_tidy {c : Nat} (h : TidyIn K s) : Tidies K (execCancelSends c s) :=
  .either h.commandDone h.commandDone.modCtx.retrySetups

theorem execSuspend_tidy {c : Nat} (h : TidyIn K s) : Tidies K (execSuspend c s) :=
  .either h.commandDone h.commandDone.modCtx.schedule.schedule

theorem execResume_tidy {c : Nat} (h : TidyIn K s) : Tidies K (execResume c s) := .either h.commandDone h.commandDone.modCtx.schedule

theorem execContextBlockAddressWrite_tidy {c : Nat} {w : Word} (h : TidyIn K s) : Tidies K (execContextBlockAddressWrite c w s) :=
  .either h.modCtx h

end Sys2Proof.Machine
end

section
/-!
Tidy answers of the device and of the discovery sweep. One proof is elaborated at a time: the threads of hundreds of
proofs at once pass the memory that a check of the whole text may take.
-/

set_option Elab.async false

namespace Sys2Proof.Machine

open Sys2Proof.Claims

variable {K : Nat → Prop} {s t : State} {id : Nat} {v : Inst}

/-! ## The device -/

theorem TidyIn.modDev (h : TidyIn K s) {f : Device → Device} : TidyIn K (s.modDev f) := h

theorem TidyIn.resetPartition (h : TidyIn K s) {slot quarters : Nat} : TidyIn K (s.resetPartition slot quarters) := by
  unfold State.resetPartition
  extract_lets +onlyGivenNames zero s₁ d s₂
  have h₂ : TidyIn K s₂ := h
  exact h₂.foldl fun _ _ h => h.unschedule.modLimiter

theorem TidyIn.resetPartitions (h : TidyIn K s) : TidyIn K s.resetPartitions := by
  unfold State.resetPartitions
  extract_lets l
  have h₁ : TidyIn K { s with parts := [], launches := [] } := h
  exact h₁.foldl fun _ _ h => h.resetPartition.schedule

theorem execPartitionLayoutWrite_tidy {w : Word} (h : TidyIn K s) : Tidies K (execPartitionLayoutWrite w s) :=
  .either h h.modDev.resetPartitions

theorem execPartitionResetWrite_tidy {w : Word} (h : TidyIn K s) : Tidies K (execPartitionResetWrite w s) :=
  .either h h.resetPartition.schedule

theorem TidyIn.clearDeviceMemory (h : TidyIn K s) : TidyIn K { s with mem := clearDeviceMemory s.mem } := h.withMem (filter_wf h.mem _)

theorem TidyIn.startFirmware (h : TidyIn K s) {m : Memory} : TidyIn K (s.startFirmware m) := by
  unfold State.startFirmware
  extract_lets +onlyGivenNames w level s₁ s₂ unlimited s₃ s₄
  have h₁ : TidyIn K s₁ := TidyIn.either h.clearDeviceMemory h
  have h₃ : TidyIn K s₃ := (h₁.modDev : TidyIn K s₂)
  have h₄ : TidyIn K s₄ := h₃.resetPartitions
  exact h₄.schedule.schedule.schedule

theorem TidyIn.bootFrom (h : TidyIn K s) {m : Memory} : TidyIn K (s.bootFrom m) := by
  unfold State.bootFrom
  split
  · exact h.startFirmware
  · exact h.modDev

theorem execPowerOnBoot_tidy (h : TidyIn K s) : Tidies K (execPowerOnBoot s) := h.bootFrom

theorem execVerifyImage_tidy (h : TidyIn K s) : Tidies K (execVerifyImage s) := .either h.bootFrom h

theorem execWriteFlash_tidy (h : TidyIn K s) : Tidies K (execWriteFlash s) := .either h h.modDev

theorem execPresentDebugToken_tidy (h : TidyIn K s) : Tidies K (execPresentDebugToken s) := .either h h.newFree.modDev

theorem execRollbackRaise_tidy (h : TidyIn K s) : Tidies K (execRollbackRaise s) := .either h.modDev h

theorem execIdentityKeyCreate_tidy (h : TidyIn K s) : Tidies K (execIdentityKeyCreate s) := .either h.modDev h

theorem execDeployFuseWrite_tidy (h : TidyIn K s) : Tidies K (execDeployFuseWrite s) := .either h.modDev h

theorem execReturnToken_tidy (h : TidyIn K s) : Tidies K (execReturnToken s) := by
  unfold execReturnToken
  extract_lets +onlyGivenNames k
  split
  · exact h.clearDeviceMemory
  · exact h

theorem execIdleGateEntry_tidy {slot : Nat} (h : TidyIn K s) : Tidies K (execIdleGateEntry slot s) := by
  unfold execIdleGateEntry
  extract_lets p
  split
  · exact .either h.modPart h
  · exact h

theorem execPowerActive_tidy (h : TidyIn K s) : Tidies K (execPowerActive s) := by
  unfold execPowerActive
  split
  · exact h
  · extract_lets s₁
    have h₁ : TidyIn K s₁ := h.modDev
    exact h₁.unschedule.foldl fun _ _ h => h.modPart.schedule
  · exact h.modDev.schedule

theorem execPowerRetention_tidy (h : TidyIn K s) : Tidies K (execPowerRetention s) := .either h.modDev h

theorem tidyIn_reset : TidyIn K State.reset where
  mem := rfl
  scr := rfl
  ctxs := rfl
  insts := rfl
  segs := rfl
  reads := rfl
  rows := fun _ hx => absurd hx List.not_mem_nil
  stages := fun _ hx => absurd hx List.not_mem_nil

theorem execPowerOff_tidy (h : TidyIn K s) : Tidies K (execPowerOff s) := by
  unfold execPowerOff
  split
  · exact h
  · exact tidyIn_reset.withMem (filter_wf h.mem fun b => spaceOf b.1 ≠ 1)

theorem execPowerCapWrite_tidy {w : Word} (h : TidyIn K s) : Tidies K (execPowerCapWrite w s) := .either h.modDev h

theorem execFormatChoiceWrite_tidy {w : Word} (h : TidyIn K s) : Tidies K (execFormatChoiceWrite w s) := .either h.modDev h

theorem execLinkTraining_tidy {plane : Nat} (h : TidyIn K s) : Tidies K (execLinkTraining plane s) := .either h.newFree h.newFree

theorem execTelemetryRefresh_tidy (h : TidyIn K s) : Tidies K (execTelemetryRefresh s) := h

/-! ## Discovery -/

theorem TidyIn.closeBook (h : TidyIn K s) {c : Nat} {args : List (List Word)} : TidyIn K (s.closeBook c args) := by
  unfold State.closeBook
  split
  · exact h
  · exact TidyIn.either (h.withMem (writeNat_wf h.mem _ _ _)) h

theorem TidyIn.bindOne (h : TidyIn K s) {slot c first last : Nat} : TidyIn K (s.bindOne slot c first last).1 := by
  unfold State.bindOne
  extract_lets +onlyGivenNames x q l open_
  clear_value open_
  split
  · exact h
  · extract_lets +onlyGivenNames n
    split
    · dsimp only
      exact h.report.endExpression
    · extract_lets +onlyGivenNames seg k src s₁ s₂
      have h₁ : TidyIn K s₁ := h.withSegs (sortedA_putA h.segs _ _)
      have h₂ : TidyIn K s₂ := h₁.modCtx fun _ hx => hx.foldl fun _ _ h => h.setSeat _ _
      exact TidyIn.either h₂.closeBook h₂

theorem TidyIn.bindFound (h : TidyIn K s) {slot c : Nat} {found : List (Nat × Nat)} : TidyIn K (s.bindFound slot c found) := by
  unfold State.bindFound
  extract_lets r live s₁
  have hr : TidyIn K r.1 := TidyIn.foldl_fst (p := (s, _)) h fun _ _ hp => hp.bindOne
  have h₁ : TidyIn K s₁ := hr.foldl fun _ _ h => by
    split
    · exact h.foldl fun _ _ h => h.loadSeat
    · exact h
  exact h₁.foldl fun _ _ h => h.cacheLoad

theorem TidyIn.endWaiter (h : TidyIn K s) {g : Nat} : TidyIn K (s.endWaiter g) := by
  unfold State.endWaiter
  split
  · exact h
  · exact h.report.handReleases.discard.endExpression

theorem TidyIn.readLink (h : TidyIn K s) {c : Nat} : TidyIn K (s.readLink c) := by
  unfold State.readLink
  extract_lets +onlyGivenNames hd w0 waiters
  split
  · exact h
  · extract_lets +onlyGivenNames link
    split
    · exact h
    · extract_lets +onlyGivenNames next w1 size cur bad s₁
      have h₁ : TidyIn K s₁ := h.modCtx
      clear_value bad
      split
      · extract_lets w
        exact (h₁.withMem (writeNat_wf h₁.mem _ _ _)).foldl fun _ _ h => h.endWaiter
      · extract_lets m s₂
        have h₂ : TidyIn K s₂ := h₁.withMem (writeNat_wf (writeNat_wf (writeNat_wf h₁.mem _ _ _) _ _ _) _ _ _)
        exact h₂.foldl fun _ _ h => by
          split
          · exact h
          · exact TidyIn.either h.endWaiter h.beginCommit

theorem TidyIn.sweep (h : TidyIn K s) {slot c : Nat} : TidyIn K (s.sweep slot c) := by
  unfold State.sweep
  extract_lets +onlyGivenNames p draining rest s₁ s₂ s₃ s₄ all s₅ s₆
  have h₁ : TidyIn K s₁ := TidyIn.either h h.bindFound
  have h₂ : TidyIn K s₂ := h₁.readLink
  have h₃ : TidyIn K s₃ := TidyIn.either h₂ h₂.startHeads
  have h₄ : TidyIn K s₄ := TidyIn.either h₃.scheduleFirst h₃.modPart.schedule
  have h₅ : TidyIn K s₅ := h₄.modPart
  have h₆ : TidyIn K s₆ := TidyIn.either h₅.planStep h₅
  exact TidyIn.either h₆.schedule h₆

theorem execDiscoverySweep_tidy {slot : Nat} (h : TidyIn K s) : Tidies K (execDiscoverySweep slot s) := by
  unfold execDiscoverySweep
  extract_lets +onlyGivenNames p late cease
  have hc : TidyIn K (cease s) := h.modPart
  clear_value late cease
  refine .either hc ?_
  split
  · extract_lets s₁ s₂
    have h₂ : TidyIn K s₂ := (hc.modPart : TidyIn K s₁).schedule
    exact TidyIn.either h₂.schedule h₂
  · exact h.sweep

end Sys2Proof.Machine
end

section
/-!
Tidy answers of host accesses, errors, records, symbols and system instructions. One proof is elaborated at a time: the threads of hundreds of
proofs at once pass the memory that a check of the whole text may take.
-/

set_option Elab.async false

namespace Sys2Proof.Machine

open Sys2Proof.Claims

variable {K : Nat → Prop} {s t : State} {id : Nat} {v : Inst}

/-! ## Host accesses and errors -/

theorem execQueuePush_tidy {slot q : Nat} {r : List Word} (h : TidyIn K s) : Tidies K (execQueuePush slot q r s) := by
  unfold execQueuePush
  refine .either h ?_
  split
  · split
    · exact h.pushLaunch
    · trivial
  · exact h.pushLaunch

theorem execVirtualQueuePush_tidy {slot q : Nat} {r : List Word} (h : TidyIn K s) : Tidies K (execVirtualQueuePush slot q r s) :=
  .either h (.either h.appendVirtual h)

theorem execSpillBaseWrite_tidy {slot q : Nat} {w : Word} (h : TidyIn K s) : Tidies K (execSpillBaseWrite slot q w s) :=
  .either h.modQueue h

theorem execSpillSizeWrite_tidy {slot q : Nat} {w : Word} (h : TidyIn K s) : Tidies K (execSpillSizeWrite slot q w s) :=
  .either h.modQueue h

theorem execRegisterWrite_tidy {offset : Nat} {w : Word} (h : TidyIn K s) : Tidies K (execRegisterWrite offset w s) :=
  .either h (.either (.either h h) (.either (.either h h.commandDone) h))

theorem execForwardedRecord_tidy {plane fabric : Nat} {r : List Word} (h : TidyIn K s) :
    Tidies K (execForwardedRecord plane fabric r s) := by
  unfold execForwardedRecord
  split
  · exact h
  · refine .either h.appendVirtual ?_
    extract_lets +onlyGivenNames q pos go
    have hg : TidyIn K (go s) := h.pushLaunch
    clear_value go
    split
    · split
      · exact hg
      · trivial
    · exact hg

theorem execCxlMemAccess_tidy {a : Nat} {w : Bool} {bs : List Byte} (h : TidyIn K s) : Tidies K (execCxlMemAccess a w bs s) :=
  .either h.pokeFar h

theorem execWaitTimeout_tidy {began : Nat} (h : TidyIn K s) : Tidies K (execWaitTimeout id began s) := by
  unfold execWaitTimeout
  split
  · exact h
  · exact .either h.takeTrap h

theorem execCorrectableError_tidy {e : ErrorStore} (h : TidyIn K s) : Tidies K (execCorrectableError e s) := h

theorem TidyIn.strike (h : TidyIn K s) {g : Nat} : TidyIn K (s.strike g) := by
  unfold State.strike
  split
  · exact h
  · extract_lets +onlyGivenNames q s₁
    have h₁ : TidyIn K s₁ := h.handReleases.discard
    exact TidyIn.either h₁.report.endExpression (h₁.modCtx fun _ hx => hx.setSeat _ _).wakeSweep

theorem TidyIn.storeFault (h : TidyIn K s) {c : Nat} : TidyIn K (s.storeFault c) := TidyIn.either h h.report.faultContext

theorem TidyIn.bufferError (h : TidyIn K s) {c k : Nat} : TidyIn K (s.bufferError c k) := by
  unfold State.bufferError
  extract_lets +onlyGivenNames loading
  clear_value loading
  split
  · exact h.modSeg
  · extract_lets +onlyGivenNames x drop
    have hd : TidyIn K (drop s) := by
      refine TidyIn.modCell ?_
      split
      · exact h
      · exact h
    clear_value drop
    split
    · exact hd
    · split
      · exact hd
      · exact TidyIn.either hd.discard.wakeSweep h.takeTrap

/-- An error that has been counted strikes the store that it met. -/
theorem execUncorrectableError_tidy {e : ErrorStore} (h : TidyIn K s) : Tidies K (execUncorrectableError e s) := by
  unfold execUncorrectableError
  extract_lets live dev s₁
  have h₁ : TidyIn K s₁ := h
  clear_value s₁
  split
  · split
    · exact h₁
    · split
      · exact .either h₁.strike h₁.takeTrap
      · exact h₁
  · exact h₁.storeFault
  · exact h₁.storeFault
  · exact h₁.storeFault
  · exact h₁.bufferError
  · split
    · exact h₁
    · refine .either h₁.discard.wakeSweep ?_
      split
      · exact h₁.takeTrap
      · exact h₁
  · exact h₁.modPart
  · exact h₁
  · exact h₁

/-! ## Records -/

/-- Taking a stage that holds the headers of the acting instance's. -/
theorem Acts.setStage (a : Acts K s id v) (h : TidyIn K t) {st : Stage} (hs : st.hdrs = v.stage.hdrs) : TidyIn K (t.setStage id st) :=
  h.modInst fun u hu hc => by
    have hk : K id := (hu hc).2
    have hv : v.committed = true := by
      by_contra hn
      exact a.owns (Bool.eq_false_iff.mpr hn) hk
    exact ⟨hs.trans (a.ok hv).1, hk⟩

theorem execLogmark_tidy {f : RForm} (h : TidyIn K s) : Tidies K (execLogmark f s) :=
  EffectTidy.issue (fun K s id v a => by
    refine .either a.tidy ?_
    split
    · exact a.tidy
    next he => exact a.setStage a.tidy (Stage.putEntry_hdrs he)) h

theorem execGacc_tidy {f : RForm} (h : TidyIn K s) : Tidies K (execGacc f s) :=
  EffectTidy.issue (fun K s id v a => by
    split
    · exact a.tidy
    · exact a.tidy
    · split
      · exact a.tidy
      · refine readTiles_tidies a.tidy fun t ht => ?_
        extract_lets +onlyGivenNames fresh
        refine .either ht ?_
        extract_lets es old st prod lat s₁
        have hs : TidyIn K (t.setStage id st) := a.setStage ht rfl
        have h₁ : TidyIn K s₁ := hs.touch a.owns
        clear_value s₁
        exact h₁.holdTile) h

theorem markHandle_tidy {f : RForm} {flag : Nat} : EffectTidy (markHandle f flag) := fun _ _ _ _ a =>
  .either a.tidy (.either a.tidy (a.setStage a.tidy rfl))

theorem execLogrd_tidy {f : RForm} (h : TidyIn K s) : Tidies K (execLogrd f s) :=
  EffectTidy.issue (fun _ _ _ _ a => a.set) h

theorem execRecq_tidy {f : RForm} (h : TidyIn K s) : Tidies K (execRecq f s) :=
  EffectTidy.issue (fun _ _ _ _ a => a.set) h

/-! ## Symbols -/

theorem execNeed_tidy {f : RForm} (h : TidyIn K s) : Tidies K (execNeed f s) :=
  EffectTidy.issue (fun K s id v a => by
    extract_lets n
    refine .either a.tidy ?_
    have hd : (Done.next (s.setInst id { v with declared := some n }) 1).Tidies K := a.set
    exact (settle_tidy hd a.tidy).tryNeed) h

theorem stageSymbols_stage {ws : List Word} : ∀ {v : Inst} {at_ : Nat}, (stageSymbols v at_ ws).committed = v.committed ∧
    (stageSymbols v at_ ws).stage.hdrs = v.stage.hdrs := by
  induction ws with
  | nil => exact ⟨rfl, rfl⟩
  | cons w ws ih => exact ih

theorem instOk.stageSymbols {i at_ : Nat} {ws : List Word} (h : instOk K i v) : instOk K i (stageSymbols v at_ ws) :=
  h.withStage stageSymbols_stage.1 stageSymbols_stage.2

theorem execEmit_tidy {f : RForm} (h : TidyIn K s) : Tidies K (execEmit f s) :=
  EffectTidy.issue (fun _ _ _ _ a => .either a.tidy (.either a.tidy (.either a.tidy (a.set fun h => h.stageSymbols)))) h

theorem execCommit_tidy (h : TidyIn K s) : Tidies K (execCommit s) :=
  EffectTidy.issue (fun _ _ _ _ a => .either a.tidy (a.tidy.arriveCommit a.ok)) h

theorem execSymrd_tidy {f : RForm} (h : TidyIn K s) : Tidies K (execSymrd f s) :=
  EffectTidy.issue (fun _ _ _ _ a => by
    split
    · exact a.tidy
    · exact a.set) h

theorem execSymget_tidy {f : RForm} (h : TidyIn K s) : Tidies K (execSymget f s) :=
  EffectTidy.issue (fun K s id v a => by
    extract_lets put
    have hp : ∀ n, (put n).Tidies K := fun _ => a.set
    clear_value put
    split
    · exact a.tidy
    · split
      · exact hp _
      · exact a.tidy
    · exact .either (hp _) a.tidy
    · exact hp _
    · exact hp _) h

theorem execUnfold_tidy {f : RForm} (h : TidyIn K s) : Tidies K (execUnfold f s) :=
  EffectTidy.issue (fun _ _ _ _ a => by
    split
    · exact a.tidy
    · exact .either a.tidy a.tidy.modSeg.schedule) h

theorem execPark_tidy {f : RForm} (h : TidyIn K s) : Tidies K (execPark f s) :=
  EffectTidy.issue (fun _ _ _ _ a => by
    extract_lets +onlyGivenNames n
    refine .either a.tidy ?_
    split
    · exact a.tidy
    · extract_lets +onlyGivenNames x
      split
      · exact a.set
      next addr _ =>
        refine .either a.tidy ?_
        split
        · exact a.tidy
        next he =>
          refine TidyIn.modCtx (TidyIn.stageFar_ok ?_ he)
          exact a.set) h

theorem execFetch_tidy {f : RForm} (h : TidyIn K s) : Tidies K (execFetch f s) :=
  EffectTidy.issue (fun _ _ _ _ a => by
    have ht := a.tidy
    refine .either ht (.either ht (.either ht (.either ht (.either ht (.either trivial (.either ht ?_))))))
    refine .either ht (.either ht (.either trivial (.either ht (.either ht ?_))))
    exact a.set fun h => h.stageSymbols) h

/-! ## System instructions -/

theorem execTrap_tidy {f : ZForm} (h : TidyIn K s) : Tidies K (execTrap f s) := EffectTidy.issue (fun _ _ _ _ a => a.tidy) h

theorem stageFar_tidies (h : TidyIn K s) {e : StagedFar} :
    (match s.stageFar id v e with | .error t => Done.trap s t | .ok s => .next s 1).Tidies K := by
  split
  · exact h
  next he => exact h.stageFar_ok he

theorem execSyscall_tidy {f : ZForm} (h : TidyIn K s) : Tidies K (execSyscall f s) :=
  EffectTidy.issue (fun _ _ _ _ a => stageFar_tidies a.tidy) h

theorem execCfgrd_tidy {f : ZForm} (h : TidyIn K s) : Tidies K (execCfgrd f s) := EffectTidy.issue (fun _ _ _ _ a => a.set) h

theorem execCfgwr_tidy {f : ZForm} (h : TidyIn K s) : Tidies K (execCfgwr f s) :=
  EffectTidy.issue (fun _ _ _ _ a => stageFar_tidies a.tidy) h

theorem execBrk_tidy {f : ZForm} (h : TidyIn K s) : Tidies K (execBrk f s) :=
  EffectTidy.issue (fun K s id v a => by
    have hd : (Done.next s 1).Tidies K := a.tidy
    exact .either (settle_tidy hd a.tidy).modInst hd) h

theorem execDebugResume_tidy (h : TidyIn K s) : Tidies K (execDebugResume id s) :=
  h.modInst fun w hw => by
    split
    · exact hw
    · exact hw

theorem execHaltedInstanceRegisterWrite_tidy {c : RegClass} {n : Nat} {w : VecVal} (h : TidyIn K s) :
    Tidies K (execHaltedInstanceRegisterWrite id c n w s) :=
  h.modInst fun w hw => by
    split
    · exact hw
    · split
      all_goals exact hw

theorem execNop_tidy (h : TidyIn K s) : Tidies K (execNop s) := EffectTidy.issue (fun _ _ _ _ a => a.tidy) h

theorem execPcrd_tidy {f : ZForm} (h : TidyIn K s) : Tidies K (execPcrd f s) := EffectTidy.issue (fun _ _ _ _ a => a.set) h

theorem execRdclk_tidy {f : ZForm} (h : TidyIn K s) : Tidies K (execRdclk f s) := EffectTidy.issue (fun _ _ _ _ a => a.set) h

theorem execEvsig_tidy {f : ZForm} (h : TidyIn K s) : Tidies K (execEvsig f s) :=
  EffectTidy.issue (fun _ _ _ _ a => stageFar_tidies a.tidy) h

theorem execSleep_tidy {f : ZForm} (h : TidyIn K s) : Tidies K (execSleep f s) :=
  EffectTidy.issue (fun _ _ _ _ a => .either a.set a.tidy) h

theorem execIllegalInstruction_tidy {w : Word} (h : TidyIn K s) : Tidies K (execIllegalInstruction w s) := by
  unfold execIllegalInstruction
  split
  · trivial
  · split
    · trivial
    · exact h.takeTrap

theorem sendQueueOp_tidies (h : TidyIn K s) {push : Bool} {q a : Nat} {r : List Word} : (s.sendQueueOp id v push q a r).Tidies K := by
  unfold State.sendQueueOp
  extract_lets k src s₁
  have h₁ : TidyIn K s₁ := h
  exact h₁.countRequest.scheduleArrival

theorem execQpush_tidy {f : ZForm} (h : TidyIn K s) : Tidies K (execQpush f s) :=
  EffectTidy.issue (fun _ _ _ _ a => by
    split
    · exact a.tidy
    · exact .either a.tidy (sendQueueOp_tidies a.tidy)) h

theorem execQpop_tidy {f : ZForm} (h : TidyIn K s) : Tidies K (execQpop f s) :=
  EffectTidy.issue (fun _ _ _ _ a => by
    split
    · exact a.tidy
    · exact sendQueueOp_tidies a.tidy) h

theorem rowOk.setUserQueue {x : Ctx} (h : rowOk x) {q : Nat} {l : List (List Word)} : rowOk (x.setUserQueue q l) := by
  unfold Ctx.setUserQueue
  split
  · exact h
  · exact h

theorem TidyIn.queueOp (h : TidyIn K s) {op : QueueOp} : TidyIn K (s.queueOp op).1 := by
  unfold State.queueOp
  extract_lets +onlyGivenNames c x hold
  have hh : ∀ r t, TidyIn K t → TidyIn K (hold r t) := fun r t ht => TidyIn.either ht.modCtx ht
  clear_value hold
  split
  · split
    · extract_lets +onlyGivenNames p
      have hp : TidyIn K p.1 := h.pushLaunch
      split
      · exact hp
      · exact hp
      · exact hp
    · split
      · exact h.appendVirtual
      · split
        · exact h.modCtx fun _ hx => hx.setUserQueue
        · exact h
  · split
    · split
      · exact hh _ _ h
      · exact h
    · split
      · split
        · exact hh _ _ (h.modCtx fun _ hx => hx.setUserQueue)
        · exact h
      · exact h

theorem execQueueOpArrival_tidy {k : Nat} (h : TidyIn K s) : Tidies K (execQueueOpArrival k s) := by
  unfold execQueueOpArrival
  split
  · exact h
  next op _ =>
    have hq : TidyIn K (s.queueOp op).1 := h.queueOp
    split
    · split
      · trivial
      · exact hq
    · exact hq

theorem execQueueReply_tidy {k : Nat} (h : TidyIn K s) : Tidies K (execQueueReply k s) := by
  unfold execQueueReply
  split
  · exact h
  next op _ =>
    extract_lets +onlyGivenNames s₀
    have h₀ : TidyIn K s₀ := h
    clear_value s₀
    split
    · exact h₀
    next v hv =>
      split
      next f _ =>
        extract_lets s₁ s₂
        have h₁ : TidyIn K s₁ := TidyIn.either h₀.engage h₀
        have h₂ : TidyIn K s₂ := h₁.complete
        exact .either h₂.discard h₂
      next f _ =>
        refine .either h₀.complete ?_
        obtain ⟨L, hL, a⟩ := h₀.acts hv
        have hs := a.tidy.store a.owns (a := op.addr) (bs := op.record.flatMap fun w => bytesOfWord 8 w.toNat)
        split
        · exact h₀.takeTrap
        next he => exact (TidyIn.mono (hs.ok he) hL).complete
      · exact h₀

end Sys2Proof.Machine
end

section
/-!
Every step keeps a tidy state tidy (O59). One proof is elaborated at a time: the threads of hundreds of
proofs at once pass the memory that a check of the whole text may take.
-/

set_option Elab.async false

namespace Sys2Proof.Machine

open Sys2Proof.Claims

variable {K : Nat → Prop} {s t : State} {id : Nat} {v : Inst}

/-! ## Every step -/

theorem execVcvt_tidy {f : RForm} (h : TidyIn K s) : Tidies K (execVcvt f s) := EffectTidy.issue (fun _ _ _ _ a => a.set) h

/-- Whatever an instruction or an event does leaves a tidy state tidy. -/
theorem exec_tidy (i : Instr) (h : TidyIn (fun _ => True) s) : Tidies (fun _ => True) (exec i s) := by
  cases i with
  | add | sub | mul | mulh | div | rem | and | or | xor | shl | shr | cmpset | sel | min | max | adda | addi | muli | li | lih | andi
  | ori | xori | shli | shri | cmpseti | rdsr | mini | maxi | addai => exact regEffect_tidy.issue h
  | b => exact execB_tidy h
  | j => exact execJ_tidy h
  | loop => exact execLoop_tidy h
  | lexit => exact execLexit_tidy h
  | wfill | wfree => exact ringWait_tidy.issue h
  | rdlc | kand | kor | kxor | knot | kmov | kread | kpop | kfirst | vadd | vsub | vmul | vfma | vfms | vfnma | vmin | vmax | vabs
  | vneg | vand | vor | vxor | vshl | vshr | vclamp | vcmp | vsel | vshuf | vperm | vbcast | vbcasti | vlane | vins | vred | vmov
  | vsetvalid | vgetvalid => exact regEffect_tidy.issue h
  | vcvt => exact execVcvt_tidy h
  | vexp2 | vlog2 | vrcp | vrsqrt | vsigm | vtanh | vsoftp | vpack | vunpack => exact regEffect_tidy.issue h
  | wld => exact execWld_tidy h
  | wcmp => exact execWcmp_tidy h
  | thdr => exact execThdr_tidy h
  | mma => exact execMma_tidy h
  | mmaAccumulatorReady _ a => exact execMmaAccumulatorReady_tidy (a := a) h
  | gangon => exact execGangon_tidy h
  | accrd => exact execAccrd_tidy h
  | accwr => exact execAccwr_tidy h
  | acczero => exact execAcczero_tidy h
  | acccvt => exact execAcccvt_tidy h
  | quant | quantb => exact quantise_tidy.issue h
  | tew => exact execTew_tidy h
  | settle => exact execSettle_tidy h
  | talloc => exact execTalloc_tidy h
  | tfree => exact execTfree_tidy h
  | sred | sscan | scav | sbcast | srank => exact collective_tidy.issue h
  | sweepResult => exact execSweepResult_tidy h
  | fwd => exact execFwd_tidy h
  | rcv => exact execRcv_tidy h
  | neighbourArrival => exact execNeighbourArrival_tidy h
  | need => exact execNeed_tidy h
  | needSweepComplete => exact execNeedSweepComplete_tidy h
  | emit => exact execEmit_tidy h
  | symrd => exact execSymrd_tidy h
  | symbld => exact regEffect_tidy.issue h
  | symget => exact execSymget_tidy h
  | unfold => exact execUnfold_tidy h
  | unfoldRequestArrival => exact execUnfoldRequestArrival_tidy h
  | park => exact execPark_tidy h
  | fetch => exact execFetch_tidy h
  | vld => exact execVld_tidy h
  | vst => exact execVst_tidy h
  | sld => exact execSld_tidy h
  | sst => exact execSst_tidy h
  | vgath => exact execVgath_tidy h
  | vscat => exact execVscat_tidy h
  | rpush | rpop => exact ringMove_tidy.issue h
  | ratom => exact execRatom_tidy h
  | tld => exact execTld_tidy h
  | rinit => exact execRinit_tidy h
  | copy | copyred => exact copyEffect_tidy.issue h
  | pref => exact execPref_tidy h
  | tsend => exact execTsend_tidy h
  | ctrset => exact execCtrset_tidy h
  | ctradd => exact execCtradd_tidy h
  | ctrrd => exact execCtrrd_tidy h
  | ctrwait => exact execCtrwait_tidy h
  | smark => exact execSmark_tidy h
  | fence => exact execFence_tidy h
  | fld => exact execFld_tidy h
  | farReadReply => exact execFarReadReply_tidy h
  | fst => exact execFst_tidy h
  | aadd | amin | amax | axchg | acas | aand | aor => exact atomic_tidy.issue h
  | pacq | prel => exact passOp_tidy.issue h
  | bell => exact execBell_tidy h
  | scld | scst | scrmw => exact atomic_tidy.issue h
  | pqry => exact passOp_tidy.issue h
  | syncOpPerformed => exact execSyncOpPerformed_tidy h
  | syncReply => exact execSyncReply_tidy h
  | bellComplete => exact execBellComplete_tidy h
  | passHandoff => exact execPassHandoff_tidy h
  | batonHop => exact execBatonHop_tidy h
  | logmark => exact execLogmark_tidy h
  | gacc => exact execGacc_tidy h
  | opsave | oprecomp => exact markHandle_tidy.issue h
  | logrd => exact execLogrd_tidy h
  | recq => exact execRecq_tidy h
  | trap => exact execTrap_tidy h
  | syscall => exact execSyscall_tidy h
  | cfgrd => exact execCfgrd_tidy h
  | cfgwr => exact execCfgwr_tidy h
  | brk => exact execBrk_tidy h
  | pcrd => exact execPcrd_tidy h
  | qpush => exact execQpush_tidy h
  | qpop => exact execQpop_tidy h
  | queueOpArrival => exact execQueueOpArrival_tidy h
  | sleep => exact execSleep_tidy h
  | evsig => exact execEvsig_tidy h
  | rdclk => exact execRdclk_tidy h
  | debugResume => exact execDebugResume_tidy h
  | discoverySweep => exact execDiscoverySweep_tidy h
  | shiftWave => exact execShiftWave_tidy h
  | waveComplete => exact execWaveComplete_tidy h
  | expressionPlaced => exact execExpressionPlaced_tidy h
  | parkWriteComplete => exact execParkWriteComplete_tidy h
  | unparkComplete => exact execUnparkComplete_tidy h
  | tidyCopyComplete => exact execTidyCopyComplete_tidy h
  | lessonImageReceived => exact execLessonImageReceived_tidy h
  | loadReportsCollected => exact execLoadReportsCollected_tidy h
  | switchBeat => exact execSwitchBeat_tidy h
  | segmentCommit => exact execSegmentCommit_tidy h
  | commitComplete => exact execCommitComplete_tidy h fun _ => trivial
  | completionRecordWrite => exact execCompletionRecordWrite_tidy h
  | copyStart => exact execCopyStart_tidy h
  | ringFillEntry => exact execRingFillEntry_tidy h
  | farWritePerformed => exact execFarWritePerformed_tidy h
  | copyComplete => exact execCopyComplete_tidy h
  | counterIncrement => exact execCounterIncrement_tidy h
  | counterUpdateApplied => exact execCounterUpdateApplied_tidy h
  | peerWriteArrival => exact execPeerWriteArrival_tidy h
  | agentAppend => exact execAgentAppend_tidy h
  | preemptDecision => exact execPreemptDecision_tidy h
  | turnExpiry => exact execTurnExpiry_tidy h
  | preemptionTimeout => exact execPreemptionTimeout_tidy h
  | waitTimeout => exact execWaitTimeout_tidy h
  | rollCallWave => exact execRollCallWave_tidy h
  | contextSwitchComplete => exact execContextSwitchComplete_tidy h
  | limiterStep => exact execLimiterStep_tidy h
  | queuePush => exact execQueuePush_tidy h
  | virtualQueuePush => exact execVirtualQueuePush_tidy h
  | spillBaseWrite => exact execSpillBaseWrite_tidy h
  | spillSizeWrite => exact execSpillSizeWrite_tidy h
  | recordAtHead => exact execRecordAtHead_tidy h
  | dependenceEntry => exact execDependenceEntry_tidy h
  | leaseSetupComplete => exact execLeaseSetupComplete_tidy h
  | pageRewalk => exact execPageRewalk_tidy h
  | leaseTimeout => exact execLeaseTimeout_tidy h
  | contextBlockAddressWrite => exact execContextBlockAddressWrite_tidy h
  | create => exact execCreate_tidy h
  | destroy => exact execDestroy_tidy h
  | resetCounters => exact execResetCounters_tidy h
  | cancelSends => exact execCancelSends_tidy h
  | suspend => exact execSuspend_tidy h
  | resume => exact execResume_tidy h
  | idleGateEntry => exact execIdleGateEntry_tidy h
  | powerCapWrite => exact execPowerCapWrite_tidy h
  | partitionLayoutWrite => exact execPartitionLayoutWrite_tidy h
  | partitionResetWrite => exact execPartitionResetWrite_tidy h
  | formatChoiceWrite => exact execFormatChoiceWrite_tidy h
  | linkTraining => exact execLinkTraining_tidy h
  | forwardedRecord => exact execForwardedRecord_tidy h
  | collectiveStepComplete => exact execCollectiveStepComplete_tidy h
  | collectiveHandshake => exact execCollectiveHandshake_tidy h
  | parkedReply => exact execParkedReply_tidy h
  | switchSlotLoss => exact execSwitchSlotLoss_tidy h
  | memberLostTimeout => exact execMemberLostTimeout_tidy h
  | linkDown => exact execLinkDown_tidy h
  | uncorrectableError => exact execUncorrectableError_tidy h
  | cxlMemAccess => exact execCxlMemAccess_tidy h
  | registerWrite => exact execRegisterWrite_tidy h
  | illegalInstruction => exact execIllegalInstruction_tidy h
  | queueReply => exact execQueueReply_tidy h
  | copySourceRead => exact execCopySourceRead_tidy h
  | correctableError => exact execCorrectableError_tidy h
  | haltedInstanceRegisterWrite => exact execHaltedInstanceRegisterWrite_tidy h
  | done => exact execDone_tidy h
  | gangoff => exact execGangoff_tidy h
  | commit => exact execCommit_tidy h
  | nop => exact execNop_tidy h
  | capControl => exact execCapControl_tidy h
  | powerOnBoot => exact execPowerOnBoot_tidy h
  | verifyImage => exact execVerifyImage_tidy h
  | writeFlash => exact execWriteFlash_tidy h
  | presentDebugToken => exact execPresentDebugToken_tidy h
  | rollbackRaise => exact execRollbackRaise_tidy h
  | getVersion | getCapabilities | negotiateAlgorithms | getDigests | getCertificate | challenge | getMeasurements | keyExchange => exact h
  | identityKeyCreate => exact execIdentityKeyCreate_tidy h
  | deployFuseWrite => exact execDeployFuseWrite_tidy h
  | returnToken => exact execReturnToken_tidy h
  | powerActive => exact execPowerActive_tidy h
  | powerRetention => exact execPowerRetention_tidy h
  | powerOff => exact execPowerOff_tidy h
  | telemetryRefresh => exact execTelemetryRefresh_tidy h
/-- Settles O59: every operation keeps each of the six fields in its form, and a header is staged by an instance that has not committed
alone; what keeps the scratch and the tables so is a property of the model's byte lists (log 2). -/
theorem tidyKept : Obligations.TidyKept := by
  unfold Obligations.TidyKept
  intro s t hs ht
  rw [tidy_iff] at hs ⊢
  have key : Tidies (fun _ => True) (step s) := by
    unfold step
    split
    · exact hs
    · exact hs.endOfClk
    · exact exec_tidy _ hs
    · split
      · exact hs
      · split
        · exact TidyIn.modInst (s := State.atTurn s _ _) hs
        · exact exec_tidy _ hs
  rw [ht] at key
  exact key

end Sys2Proof.Machine
end

section
/-!
The far-write stage: the forms that stage a far effect (O12). One proof is elaborated at a time: the threads of hundreds of
proofs at once pass the memory that a check of the whole text may take.
-/

set_option Elab.async false

namespace Sys2Proof.Machine

open Sys2Proof.Claims

variable {s t : State} {id : Nat} {v : Inst}

/-! ## The fields of a word -/

theorem bits_low (w n : Nat) : bits w n 0 = w % 2 ^ (n + 1) := by simp [bits]

theorem bit_eq_true_iff (w n : Nat) : bit w n = true ↔ w / 2 ^ n % 2 = 1 := by simp [bit]

/-- A field read as a signed number is its balanced remainder. -/
theorem signed_eq_bmod (w : Nat) : signed 32 w = ((w : Nat) : Int).bmod (2 ^ 32) := by
  unfold signed Int.bmod
  dsimp only
  split
  · rw [if_pos (by omega)]
    omega
  · rw [if_neg (by omega)]
    omega

/-- The far reference of an M form, where its checks hold (11 R244). -/
theorem farOperand_of_farRefOf {f : MForm} {r : Nat × Nat} (h : farRefOf s v f = some r) :
    s.farOperand v f (Ty.width f.ty / 8) = .ok r := by
  simp only [farRefOf] at h
  split at h
  next hc =>
    obtain ⟨hn, hentry, halign⟩ := hc
    cases h
    have hlow : bits (v.regs.getX f.a).toNat 47 42 = (v.regs.getX f.a).toNat / 2 ^ 42 := by
      unfold bits
      omega
    simp only [State.farOperand, hlow, bits_low, signed_eq_bmod]
    rw [if_neg (by omega), if_neg (not_not.mpr halign)]
  next => cases h

/-! ## The far-write stage (02 R51) -/

/-- What staging a far effect answers for an instance that lives. -/
theorem stageFar_eq (hv : s.inst? id = some v) (e : StagedFar) :
    s.stageFar id v e = if stageTakes v e then .ok (s.setInst id (withFar v e)) else .error (trapOf stFarStage 0) := by
  have htakes : (e ≠ .barrier && 32 ≤ (v.stage.far.filter (· ≠ .barrier)).length) = !stageTakes v e := by
    unfold stageTakes
    rw [Bool.eq_iff_iff]
    by_cases hb : e = .barrier <;> simp [hb]
  unfold State.stageFar
  dsimp only
  rw [htakes, State.modInst_of_some hv]
  cases stageTakes v e <;> rfl

/-- What a form that stages a far effect comes to, by what staging answered. -/
def stagedDone (tick : Bool) (id : Nat) (s : State) : Except TrapInfo State → Done
  | .error k => .trap s k
  | .ok t => .next (if tick then t.modInst id Inst.tickStream else t) 1

/-- A form whose effect is to stage a far effect completes with it, or raises the far-stage-full trap. -/
theorem issue_staged {i : Instr} {eff : State → Nat → Inst → Done} {e : StagedFar} {tick : Bool} (h : issues i s id v = true)
    (he : eff s id v = stagedDone tick id s (s.stageFar id v e)) :
    issue i eff s = .next (if stageTakes v e then retired i s id (if tick then ticked (withFar v e) else withFar v e) 1
      else trapped s id 0x19 0) := by
  obtain ⟨-, hv, -, -⟩ := issues_iff.mp h
  rw [stageFar_eq hv] at he
  cases htakes : stageTakes v e with
  | false =>
    rw [htakes] at he
    exact issue_trap h he
  | true =>
    rw [htakes] at he
    refine (issue_next h he).trans ?_
    cases tick with
    | false => simp [retired]
    | true => simp [retired, Inst.tickStream, ticked]

/-- `fence` with bit 2, once the reads that it waits for are performed, stages a barrier (11 R258). -/
theorem fence_stages {f : ZForm} (h : f.code.val / 4 % 2 = 1 ∧ (f.code.val % 4 = 0 ∨ s.readsDone id = true)) :
    ((bit f.code 0 || bit f.code 1) && !s.readsDone id) = false ∧ bit f.code 2 = true := by
  obtain ⟨hbit, hreads⟩ := h
  refine ⟨?_, by simpa [bit] using hbit⟩
  rcases hreads with hnone | hdone
  · have h0 : bit f.code 0 = false := by simp [bit]; omega
    have h1 : bit f.code 1 = false := by simp [bit]; omega
    simp [h0, h1]
  · simp [hdone]

/-- Settles O12: each of the forms stages one effect, and staging takes it or traps. -/
theorem stagedFarForms : Obligations.StagedFarForms := by
  unfold Obligations.StagedFarForms
  intro i e tick s id v hst _ hi
  cases i with
  | fst f =>
    obtain ⟨r, hr, he⟩ := Option.map_eq_some_iff.mp hst
    cases he
    rw [exec_fst, execFst]
    refine issue_staged hi ?_
    dsimp only
    rw [farOperand_of_farRefOf hr]
    rfl
  | ctrset f =>
    cases hst
    rw [exec_ctrset, execCtrset]
    refine issue_staged hi ?_
    rw [bits_low]
    rfl
  | ctradd f =>
    cases hst
    rw [exec_ctradd, execCtradd]
    refine issue_staged hi ?_
    rw [bits_low]
    rfl
  | fence f =>
    simp only [stagedBy] at hst
    split at hst
    next hc =>
      cases hst
      obtain ⟨hwait, hbit⟩ := fence_stages hc
      rw [exec_fence, execFence]
      refine issue_staged hi ?_
      simp only [hwait, hbit]
      rfl
    next => cases hst
  | syscall f =>
    cases hst
    rw [exec_syscall, execSyscall]
    exact issue_staged hi rfl
  | cfgwr f =>
    cases hst
    rw [exec_cfgwr, execCfgwr]
    exact issue_staged hi rfl
  | evsig f =>
    cases hst
    rw [exec_evsig, execEvsig]
    refine issue_staged hi ?_
    rw [bits_low]
    rfl
  | _ => cases hst

end Sys2Proof.Machine
end

section
/-!
What planning leaves alone; the need sweep and the symbols that a seat stages (O27). One proof is elaborated at a time: the threads of hundreds of
proofs at once pass the memory that a check of the whole text may take.
-/

set_option Elab.async false

namespace Sys2Proof.Machine

open Sys2Proof.Claims

variable {s t u : State} {id : Nat} {v : Inst}

/-! ## Steps of the planning that reach the agenda, the partitions and the contexts alone -/

/-- `t` is `s` but for its agenda, its partitions and its contexts. -/
def PlanOnly (s t : State) : Prop := ∃ a ps cs, t = { s with agenda := a, parts := ps, ctxs := cs }

theorem PlanOnly.refl (s : State) : PlanOnly s s := ⟨_, _, _, rfl⟩

theorem PlanOnly.trans (h₁ : PlanOnly s t) (h₂ : PlanOnly t u) : PlanOnly s u := by
  obtain ⟨_, _, _, rfl⟩ := h₁
  obtain ⟨_, _, _, rfl⟩ := h₂
  exact ⟨_, _, _, rfl⟩

theorem PlanOnly.insts (h : PlanOnly s t) : t.insts = s.insts := by
  obtain ⟨_, _, _, rfl⟩ := h
  rfl

theorem PlanOnly.segs (h : PlanOnly s t) : t.segs = s.segs := by
  obtain ⟨_, _, _, rfl⟩ := h
  rfl

theorem PlanOnly.foldl {α : Type} (h : PlanOnly s t) {l : List α} {f : State → α → State} (hf : ∀ u a, PlanOnly u (f u a)) :
    PlanOnly s (l.foldl f t) := by
  induction l generalizing t with
  | nil => exact h
  | cons a l ih => exact ih (h.trans (hf _ _))

theorem PlanOnly.schedule (h : PlanOnly s t) {a : Nat} {e : Instr} : PlanOnly s (t.schedule a e) := h.trans ⟨_, _, _, rfl⟩

theorem PlanOnly.unschedule (h : PlanOnly s t) {p : Instr → Bool} : PlanOnly s (t.unschedule p) := h.trans ⟨_, _, _, rfl⟩

theorem PlanOnly.modCtx (h : PlanOnly s t) {c : Nat} {f : Ctx → Ctx} : PlanOnly s (t.modCtx c f) := h.trans ⟨_, _, _, rfl⟩

theorem PlanOnly.modCell (h : PlanOnly s t) {c k : Nat} {f : CellCtx → CellCtx} : PlanOnly s (t.modCell c k f) := h.modCtx

theorem PlanOnly.modPart (h : PlanOnly s t) {p : Nat} {f : Part → Part} : PlanOnly s (t.modPart p f) := by
  refine h.trans ?_
  unfold State.modPart
  split
  · exact ⟨_, _, _, rfl⟩
  · exact .refl t

theorem PlanOnly.admitSweeps (h : PlanOnly s t) {slot : Nat} : PlanOnly s (t.admitSweeps slot) := by
  unfold State.admitSweeps
  extract_lets p old again cands used r waited s₁ s₂ s₃
  have h₁ : PlanOnly s s₁ := h.foldl fun u _ => (PlanOnly.refl u).unschedule
  have h₃ : PlanOnly s s₃ := (h₁.modPart : PlanOnly s s₂).foldl fun u _ =>
    (PlanOnly.refl u).foldl fun u _ => (PlanOnly.refl u).modCell
  exact h₃.foldl fun u _ => by
    split
    · exact (PlanOnly.refl u).schedule
    · exact .refl u

theorem PlanOnly.startSweep (h : PlanOnly s t) {g : Nat} {need : Bool} : PlanOnly s (t.startSweep g need) := by
  unfold State.startSweep
  split
  · exact h.modPart.admitSweeps
  · exact h

theorem PlanOnly.releaseSweep (h : PlanOnly s t) {g : Nat} {need : Bool} : PlanOnly s (t.releaseSweep g need) := by
  unfold State.releaseSweep
  split
  · exact h.modPart.admitSweeps
  · exact h

/-! ## `need`, the need sweep and `emit` (02 R53; 10 R222) -/

@[simp] theorem tryNeed_insts (s : State) (g : Nat) : (s.tryNeed g).insts = s.insts := by
  unfold State.tryNeed
  split
  · rfl
  · dsimp only
    split
    · exact (PlanOnly.refl _).startSweep.insts.trans (State.modSeg_insts ..)
    · rfl

/-- Changing a segment that is known. -/
theorem lookupA_modSeg_self {g : Nat} {x : Segment} (h : lookupA s.segs g = some x) (f : Segment → Segment) :
    lookupA (s.modSeg g f).segs g = some (f x) := by
  simp [State.modSeg, h]

/-- `need` declares at most 64, once. -/
theorem exec_need_of_declares {f : RForm} (hi : issues (.need f) s id v = true) (hn : (v.regs.getX f.a).toNat ≤ 64)
    (hd : v.declared = none) : ∃ t : State, exec (.need f) s = .next t ∧
      t.insts = (retired (.need f) s id { v with declared := some (v.regs.getX f.a).toNat } 1).insts := by
  rw [exec_need, execNeed, issue_eq hi]
  dsimp only
  rw [if_neg (by simp [hd, hn])]
  exact ⟨_, rfl, by simp [settle, retired, completed]⟩

/-- `need` traps beyond 64, and a second time. -/
theorem exec_need_of_not {f : RForm} (hi : issues (.need f) s id v = true)
    (h : ¬((v.regs.getX f.a).toNat ≤ 64 ∧ v.declared = none)) : exec (.need f) s = .next (trapped s id 0x14 0) := by
  rw [exec_need, execNeed]
  refine issue_trap hi ?_
  dsimp only
  rw [if_pos]
  · rfl
  · rw [← not_le, Option.isSome_iff_ne_none, ← not_and_or]
    exact h

/-- The need sweep forms the offsets and the total. -/
theorem exec_needSweepComplete_segs {g : Nat} {x : Segment} (hx : lookupA s.segs g = some x) :
    let ns := (List.range x.seglen).map fun q => ((s.seatInst g q).bind fun i => i.2.declared).getD 0
    ∃ t : State, exec (.needSweepComplete g) s = .next t ∧
      lookupA t.segs g = some { x with offsets := some ((List.range x.seglen).map fun q => (ns.take q).sum), total := ns.sum } := by
  intro ns
  have hns : ((s.seatList g x.seglen).map fun v => (v.bind (·.declared)).getD 0) = ns := by
    simp [State.seatList, ns, Option.bind_map, Function.comp_def]
  rw [exec_needSweepComplete, execNeedSweepComplete]
  simp only [hx, hns]
  exact ⟨_, rfl, by rw [(PlanOnly.refl _).releaseSweep.segs, lookupA_modSeg_self hx]⟩

/-- Settles O27, form by form. -/
theorem needAndEmit : Obligations.NeedAndEmit := by
  unfold Obligations.NeedAndEmit
  refine ⟨?need, fun g x s hx => exec_needSweepComplete_segs hx, ?emit⟩
  case need =>
    intro f s id v _ hi n
    split
    next h => exact exec_need_of_declares hi h.1 h.2
    next h => exact exec_need_of_not hi h
  case emit =>
    intro f s id v _ hi n w
    rw [exec_emit, execEmit]
    split
    next hn => exact issue_trap hi (if_pos hn)
    next hn =>
      intro ho
      have hk : (s.offsetsKnown v).isNone = false := by
        rw [Option.isNone_eq_false_iff]
        exact ho
      cases hw : symbolOk v.place.cellcount w with
      | false =>
        refine issue_trap hi (k := trapOf stMalformedResult 0) ?_
        simp only [n, w] at *
        simp [hn, hk, hw]
      | true =>
        refine (issue_next hi (t := s.setInst id (stageSymbols v n [w])) (latency := 1) ?_).trans ?_
        · simp only [n, w] at *
          simp [hn, hk, hw]
        · simp [retired, stageSymbols]

end Sys2Proof.Machine
end

section
/-!
The agenda; what ending an expression leaves alone. One proof is elaborated at a time: the threads of hundreds of
proofs at once pass the memory that a check of the whole text may take.
-/

set_option Elab.async false

namespace Sys2Proof.Machine

open Sys2Proof.Claims

variable {s t u : State} {id : Nat} {v : Inst}

/-! ## The agenda -/

theorem mem_insertTimed {e f : Timed} {l : List Timed} : e ∈ insertTimed f l ↔ e = f ∨ e ∈ l := by
  induction l with
  | nil => simp [insertTimed]
  | cons a l ih =>
    unfold insertTimed
    split
    · exact List.mem_cons
    · rw [List.mem_cons, List.mem_cons, ih]
      exact ⟨fun h => h.elim (fun h => .inr (.inl h)) (·.imp_right .inr),
        fun h => h.elim (fun h => .inr (.inl h)) (·.elim .inl fun h => .inr (.inr h))⟩

/-- An event that is scheduled is on the agenda. -/
theorem scheduled_schedule (s : State) (a : Nat) (e : Instr) : scheduled (s.schedule a e) a e :=
  ⟨_, mem_insertTimed.mpr (.inl rfl), rfl, rfl⟩

/-- Scheduling one event leaves the others. -/
theorem scheduled.schedule {a b : Nat} {e f : Instr} (h : scheduled t a e) : scheduled (t.schedule b f) a e := by
  obtain ⟨x, hx, ha, he⟩ := h
  exact ⟨x, mem_insertTimed.mpr (.inr hx), ha, he⟩

/-! ## Steps that end an expression: the report card, the launches, the partitions and the agenda alone -/

/-- `t` is `s` but for its far memory and device (the report card), its launches, what ends with the clk, its partitions and its agenda. -/
def ReportOnly (s t : State) : Prop :=
  ∃ m d ls es ps a, t = { s with mem := m, dev := d, launches := ls, ending := es, parts := ps, agenda := a }

theorem ReportOnly.refl (s : State) : ReportOnly s s := ⟨_, _, _, _, _, _, rfl⟩

theorem ReportOnly.trans (h₁ : ReportOnly s t) (h₂ : ReportOnly t u) : ReportOnly s u := by
  obtain ⟨_, _, _, _, _, _, rfl⟩ := h₁
  obtain ⟨_, _, _, _, _, _, rfl⟩ := h₂
  exact ⟨_, _, _, _, _, _, rfl⟩

/-- What such a step leaves as it was. -/
theorem ReportOnly.frame (h : ReportOnly s t) : t.insts = s.insts ∧ t.segs = s.segs ∧ t.ctxs = s.ctxs ∧ t.scr = s.scr ∧ t.clk = s.clk := by
  obtain ⟨_, _, _, _, _, _, rfl⟩ := h
  exact ⟨rfl, rfl, rfl, rfl, rfl⟩

theorem ReportOnly.clk (h : ReportOnly s t) : t.clk = s.clk := by
  obtain ⟨_, _, _, _, _, _, rfl⟩ := h
  rfl

theorem ReportOnly.foldl {α : Type} (h : ReportOnly s t) {l : List α} {f : State → α → State} (hf : ∀ u a, ReportOnly u (f u a)) :
    ReportOnly s (l.foldl f t) := by
  induction l generalizing t with
  | nil => exact h
  | cons a l ih => exact ih (h.trans (hf _ _))

theorem ReportOnly.schedule (h : ReportOnly s t) {a : Nat} {e : Instr} : ReportOnly s (t.schedule a e) :=
  h.trans ⟨_, _, _, _, _, _, rfl⟩

theorem ReportOnly.modLaunch (h : ReportOnly s t) {l : Nat} {f : Launch → Launch} : ReportOnly s (t.modLaunch l f) := by
  refine h.trans ?_
  unfold State.modLaunch
  split
  · exact ⟨_, _, _, _, _, _, rfl⟩
  · exact .refl t

theorem ReportOnly.modPart (h : ReportOnly s t) {p : Nat} {f : Part → Part} : ReportOnly s (t.modPart p f) := by
  refine h.trans ?_
  unfold State.modPart
  split
  · exact ⟨_, _, _, _, _, _, rfl⟩
  · exact .refl t

theorem ReportOnly.report (h : ReportOnly s t) {c : Nat} {k : Card} : ReportOnly s (t.report c k) := by
  refine h.trans ?_
  unfold State.report
  dsimp only
  split
  · exact .refl t
  · split
    · exact ⟨_, _, _, _, _, _, rfl⟩
    · exact .modLaunch ⟨_, _, _, _, _, _, rfl⟩

theorem ReportOnly.endExpression (h : ReportOnly s t) {l status seat : Nat} : ReportOnly s (t.endExpression l status seat) := by
  refine h.trans ?_
  unfold State.endExpression
  split
  · exact .refl t
  · split
    · exact .refl t
    · exact (ReportOnly.refl t).modLaunch.trans ⟨_, _, _, _, _, _, rfl⟩

/-! ## What a report and a status leave of the launches -/

theorem lookupA_modLaunch (s : State) (l k : Nat) (f : Launch → Launch) :
    lookupA (s.modLaunch l f).launches k = (lookupA s.launches k).map fun v => if k = l then f v else v := by
  unfold State.modLaunch
  split
  next v hv =>
    rw [lookupA_putA]
    split
    next h => simp [h, hv]
    next => simp
  next hv =>
    split
    next h => simp [h, hv]
    next => simp

/-- A report-card entry changes of a launch the number of its first entry alone. -/
theorem lookupA_report_launches {c : Nat} {k : Card} {l : Nat} {x : Launch} (h : lookupA s.launches l = some x) :
    ∃ n, lookupA (s.report c k).launches l = some { x with firstCard := n } := by
  unfold State.report
  dsimp only
  split
  · exact ⟨_, h⟩
  · split
    · exact ⟨_, h⟩
    · rw [lookupA_modLaunch]
      simp only [h, Option.map_some]
      split
      · split
        · exact ⟨_, rfl⟩
        · exact ⟨_, rfl⟩
      · exact ⟨_, rfl⟩

/-- A status ends an expression that still may end. -/
theorem endExpression_status {l status seat : Nat} (h : mayEnd s l) :
    l ∈ (s.endExpression l status seat).ending ∧ ∃ x, lookupA (s.endExpression l status seat).launches l = some x ∧
      x.status = some status ∧ x.phase ≠ .retired ∧ x.statusClk = s.clk ∧ x.statusSeat = seat := by
  obtain ⟨x, hx, hp, hn⟩ := h
  simp only [State.endExpression, hx, hp, hn, if_false, if_true]
  refine ⟨?_, ?_⟩
  · split
    next hc => exact List.contains_iff_mem.mp hc
    next => simp
  · rw [lookupA_modLaunch]
    simp [hx, hp]

/-- A status does not take the place of an earlier one, or of one of the same clk at a lower seat. -/
theorem lookupA_endExpression_of_ended {l k status seat : Nat} {x : Launch} (h : lookupA s.launches l = some x)
    (hs : x.status.isSome) (hb : k = l → ¬(x.statusClk = s.clk ∧ seat < x.statusSeat)) :
    lookupA (s.endExpression k status seat).launches l = some x := by
  unfold State.endExpression
  split
  · exact h
  next y hy =>
    split
    · exact h
    · dsimp only
      rw [lookupA_modLaunch]
      simp only [h, Option.map_some, Option.some.injEq]
      by_cases hk : k = l
      · subst hk
        obtain ⟨n, hn⟩ := Option.isSome_iff_exists.mp hs
        have hxy : y = x := Option.some.inj (hy.symm.trans h)
        subst hxy
        rw [if_pos rfl, if_neg]
        simpa [hn] using hb rfl
      · rw [if_neg (Ne.symm hk)]

end Sys2Proof.Machine
end

section
/-!
Words of memory, contexts and cells; lesson images received and reported. One proof is elaborated at a time: the threads of hundreds of
proofs at once pass the memory that a check of the whole text may take.
-/

set_option Elab.async false

namespace Sys2Proof.Machine

open Sys2Proof.Claims

variable {s t : State} {id : Nat} {v : Inst}

/-! ## Words of memory -/

theorem wordOfBytes_lt (bs : List Byte) : wordOfBytes bs < 2 ^ (8 * bs.length) := by
  induction bs with
  | nil => simp [wordOfBytes]
  | cons b bs ih =>
    have hb : b.toNat < 2 ^ 8 := b.isLt
    rw [wordOfBytes, List.length_cons, Nat.mul_succ, pow_add]
    omega

theorem length_readBytes (m : Memory) (a n : Nat) : (readBytes m a n).length = n := by
  induction n generalizing a with
  | zero => rfl
  | succ n ih => simp [readBytes, ih]

theorem readNat_lt (m : Memory) (a n : Nat) : readNat m a n < 2 ^ (8 * n) := by
  have h := wordOfBytes_lt (readBytes m a n)
  rwa [length_readBytes] at h

theorem readWords_eq_map (m : Memory) (a n : Nat) :
    readWords m a n = (List.range n).map fun k => BitVec.ofNat 64 (readNat m (a + 8 * k) 8) := by
  induction n generalizing a with
  | zero => rfl
  | succ n ih =>
    have h (k : Nat) : a + 8 + 8 * k = a + 8 * (k + 1) := by omega
    simp [readWords, ih, List.range_succ_eq_map, h]

/-- The words of memory as numbers. -/
theorem readWords_toNat (m : Memory) (a n : Nat) :
    (readWords m a n).map BitVec.toNat = (List.range n).map fun k => readNat m (a + 8 * k) 8 := by
  rw [readWords_eq_map, List.map_map]
  exact List.map_congr_left fun k _ => by simpa using Nat.mod_eq_of_lt (readNat_lt m (a + 8 * k) 8)

/-! ## Contexts and cells -/

@[simp] theorem ctx_setCtx (s : State) (c k : Nat) (x : Ctx) : (s.setCtx c x).ctx k = if k = c then x else s.ctx k := getD_setD ..

theorem ctx_modCtx (s : State) (c k : Nat) (f : Ctx → Ctx) : (s.modCtx c f).ctx k = if k = c then f (s.ctx c) else s.ctx k := ctx_setCtx ..

@[simp] theorem ctx_modCtx_self (s : State) (c : Nat) (f : Ctx → Ctx) : (s.modCtx c f).ctx c = f (s.ctx c) := by simp [ctx_modCtx]

theorem cell_modCell (s : State) (c k j : Nat) (f : CellCtx → CellCtx) :
    (s.modCell c k f).cell c j = if j = k then f (s.cell c k) else s.cell c j := by
  unfold State.cell State.modCell
  rw [ctx_modCtx_self]
  exact getD_setD ..

/-- Cells that are changed one after another, each once. -/
theorem cell_foldl_modCell {c o : Nat} {f : CellCtx → CellCtx} {l : List Nat} (hl : l.Nodup) (s : State) (i : Nat) :
    (l.foldl (fun s i => s.modCell c (o + i) f) s).cell c (o + i) = if l.contains i then f (s.cell c (o + i)) else s.cell c (o + i) := by
  induction l generalizing s with
  | nil => simp
  | cons a l ih =>
    obtain ⟨ha, hl⟩ := List.nodup_cons.mp hl
    rw [List.foldl_cons, ih hl, cell_modCell]
    by_cases hi : i = a
    · subst hi
      simp [ha]
    · simp [hi]

theorem foldl_modCell_frame {c o : Nat} {f : CellCtx → CellCtx} (l : List Nat) (s : State) :
    ∃ cs, l.foldl (fun s i => s.modCell c (o + i) f) s = { s with ctxs := cs } := by
  induction l generalizing s with
  | nil => exact ⟨_, rfl⟩
  | cons a l ih =>
    obtain ⟨cs, h⟩ := ih (s.modCell c (o + a) f)
    exact ⟨cs, h⟩

/-! ## Images received and reported (02 R45 to R47) -/

@[simp] theorem segLevel_modSeg (s : State) (g : Nat) (f : Segment → Segment) (x : Segment) : (s.modSeg g f).segLevel x = s.segLevel x := by
  unfold State.modSeg
  split
  · rfl
  · rfl

/-- A cell that has checked its image reports. -/
theorem exec_lessonImageReceived_of_loaded {g i e : Nat} {x : Segment} (hx : lookupA s.segs g = some x) (hp : x.phase = .loading)
    (hc : x.clean.contains i = false) (he : lookupA x.loadAt i = some e) (hclk : e ≤ s.clk) :
    ∃ t : State, exec (.lessonImageReceived g i) s = .next t ∧
      lookupA t.segs g = some { x with
        clean := i :: x.clean
        failed := x.failed || (x.loads.contains i && !x.standard && imageCheck x.header x.words ≠ x.header % 2 ^ 32) } ∧
      (x.clean.length + 1 = x.seglen → scheduled t (s.clk + oneWay (s.segLevel x)) (.loadReportsCollected g)) ∧
      t.ctxs = s.ctxs ∧ t.insts = s.insts ∧ t.mem = s.mem ∧ t.scr = s.scr := by
  rw [exec_lessonImageReceived, execLessonImageReceived]
  simp only [hx, he, if_neg (Nat.not_lt.mpr hclk), bits_low]
  rw [if_neg (by rw [hc]; simp [hp])]
  have hg := lookupA_modSeg_self hx fun y => { y with
    clean := i :: y.clean
    failed := y.failed || (x.loads.contains i && !x.standard && imageCheck x.header x.words ≠ x.header % 2 ^ (31 + 1)) }
  by_cases hlast : x.clean.length + 1 = x.seglen
  · rw [if_pos hlast]
    refine ⟨_, rfl, hg, fun _ => ?_, by simp⟩
    have h := scheduled_schedule (s.modSeg g fun y => { y with
      clean := i :: y.clean
      failed := y.failed || (x.loads.contains i && !x.standard && imageCheck x.header x.words ≠ x.header % 2 ^ (31 + 1)) })
      (s.clk + oneWay (s.segLevel x)) (.loadReportsCollected g)
    rwa [segLevel_modSeg, State.modSeg_clk]
  · rw [if_neg hlast]
    exact ⟨_, rfl, hg, fun h => absurd h hlast, by simp⟩

/-- Clean reports bring the switch beat. -/
theorem exec_loadReportsCollected_of_clean {g : Nat} {x : Segment} (hx : lookupA s.segs g = some x) (hp : x.phase = .loading)
    (hf : x.failed = false) : exec (.loadReportsCollected g) s = .next (s.schedule (s.clk + oneWay (s.segLevel x)) (.switchBeat g)) := by
  rw [exec_loadReportsCollected, execLoadReportsCollected]
  simp [hx, hp, hf]

/-- The loads of a segment, told to come at a clk, change when they come and the agenda alone. -/
theorem foldl_reload (g a : Nat) (l : List Nat) (s : State) :
    let t := l.foldl (fun s i => (s.modSeg g fun x => { x with loadAt := putA x.loadAt i a }).schedule a (.lessonImageReceived g i)) s
    t.insts = s.insts ∧ t.scr = s.scr ∧ t.ctxs = s.ctxs ∧ t.mem = s.mem ∧
      ∀ x, lookupA s.segs g = some x → ∃ w, lookupA t.segs g = some { x with loadAt := w } := by
  induction l generalizing s with
  | nil => exact ⟨rfl, rfl, rfl, rfl, fun x hx => ⟨_, hx⟩⟩
  | cons i l ih =>
    obtain ⟨hi, hs, hc, hm, hg⟩ := ih ((s.modSeg g fun x => { x with loadAt := putA x.loadAt i a }).schedule a (.lessonImageReceived g i))
    refine ⟨by simpa using hi, by simpa using hs, by simpa using hc, by simpa using hm, fun x hx => ?_⟩
    obtain ⟨w, hw⟩ := hg _ (lookupA_modSeg_self hx _)
    exact ⟨w, hw⟩

/-- A failed report brings one more load, from memory. -/
theorem exec_loadReportsCollected_of_failed {g : Nat} {x : Segment} (hx : lookupA s.segs g = some x) (hp : x.phase = .loading)
    (hf : x.failed = true) (ha : x.attempt = 0) :
    ∃ t : State, exec (.loadReportsCollected g) s = .next t ∧ t.insts = s.insts ∧ t.scr = s.scr ∧ t.ctxs = s.ctxs ∧ t.mem = s.mem ∧
      ∃ u, lookupA t.segs g = some u ∧ u.phase = .loading ∧ u.attempt = 1 ∧ u.failed = false ∧
        u.words = (List.range (x.header / 2 ^ 55 % 512)).map (fun k => readNat s.mem (x.address + 8 + 8 * k) 8) := by
  rw [exec_loadReportsCollected, execLoadReportsCollected]
  simp -zeta only [hx]
  rw [if_neg (by simp [hp]), if_neg (by simp [hf]), if_pos ha]
  extract_lets s₁ words at_ s₂
  obtain ⟨hi, hs, hc, hm, hg⟩ := foldl_reload g at_ x.loads s₂
  have hx₁ : lookupA s₁.segs g = some x := hx
  obtain ⟨w, hw⟩ := hg _ (lookupA_modSeg_self hx₁ _)
  exact ⟨_, rfl, hi.trans (by simp [s₂, s₁]), hs.trans (by simp [s₂, s₁]), hc.trans (by simp [s₂, s₁]), hm.trans (by simp [s₂, s₁]), _, hw, hp,
    rfl, rfl, readWords_toNat ..⟩

end Sys2Proof.Machine
end

section
/-!
A second failed load and the switch beat (O40). One proof is elaborated at a time: the threads of hundreds of
proofs at once pass the memory that a check of the whole text may take.
-/

set_option Elab.async false

namespace Sys2Proof.Machine

open Sys2Proof.Claims

variable {s t : State} {id : Nat} {v : Inst}

/-! ## A second failure faults the context (02 R47; 24 R393) -/

/-- A context's fault reports, ends launches, marks passes and schedules, and changes of the contexts the one that faults. -/
theorem faultContext_frame (s : State) (c : Nat) : ReportOnly (s.modCtx c fun x =>
    { x with state := .faulted, armed := [], reserved := x.reserved - x.armed.length }) (s.faultContext c) := by
  unfold State.faultContext
  extract_lets slot s₁ card s₂ held s₃ s₄
  have h₂ : ReportOnly s₁ s₂ := (ReportOnly.refl s₁).foldl fun u _ => by
    refine ReportOnly.endExpression ?_
    split
    · exact (ReportOnly.refl u).report
    · exact .refl u
  have h₃ : ReportOnly s₁ s₃ := h₂.foldl fun u _ => (ReportOnly.refl u).modPart
  have h₄ : ReportOnly s₁ s₄ := h₃.foldl fun u _ => (ReportOnly.refl u).schedule
  exact h₄.trans ⟨_, _, _, _, _, _, rfl⟩

/-- A launch that a status has ended in this clk, below the highest seat number. -/
def endedHere (s : State) (l status : Nat) : Prop :=
  ∃ x, lookupA s.launches l = some x ∧ x.status = some status ∧ x.statusClk = s.clk ∧ x.statusSeat < 0xFFFF

theorem endedHere.report {l status c : Nat} {k : Card} (h : endedHere s l status) : endedHere (s.report c k) l status := by
  obtain ⟨x, hx, hs, hc, hq⟩ := h
  obtain ⟨n, hn⟩ := lookupA_report_launches (c := c) (k := k) hx
  exact ⟨_, hn, hs, hc.trans (ReportOnly.refl s).report.clk.symm, hq⟩

theorem endedHere.endExpression {l k status st : Nat} (h : endedHere s l status) :
    endedHere (s.endExpression k st 0xFFFF) l status := by
  obtain ⟨x, hx, hs, hc, hq⟩ := h
  refine ⟨x, lookupA_endExpression_of_ended hx (by simp [hs]) (fun _ hb => absurd hb.2 (by omega)), hs, ?_, hq⟩
  exact hc.trans (ReportOnly.refl s).endExpression.clk.symm

/-- A context's fault ends the context's other launches only: one that has ended in this clk keeps its status. -/
theorem endedHere.faultContext {l status c : Nat} (h : endedHere s l status) : endedHere (s.faultContext c) l status := by
  unfold State.faultContext
  extract_lets slot s₁ card s₂ held s₃ s₄
  have h₁ : endedHere s₁ l status := h
  have h₂ : endedHere s₂ l status := List.foldlRecOn (motive := fun u => endedHere u l status) _ _ h₁ fun u hu k _ => by
    refine endedHere.endExpression ?_
    split
    · exact hu.report
    · exact hu
  have h₃ : endedHere s₃ l status := List.foldlRecOn (motive := fun u => endedHere u l status) _ _ h₂ fun u hu k _ => by
    obtain ⟨x, hx, hs, hc, hq⟩ := hu
    exact ⟨x, by simpa using hx, hs, by simpa using hc, hq⟩
  have h₄ : endedHere s₄ l status := List.foldlRecOn (motive := fun u => endedHere u l status) _ _ h₃ fun u hu k _ => hu
  exact h₄

/-- A context's fault leaves the instances and scratch, and the context has faulted. -/
theorem faultContext_spec (s : State) (c : Nat) :
    (s.faultContext c).insts = s.insts ∧ (s.faultContext c).scr = s.scr ∧ ((s.faultContext c).ctx c).state = .faulted := by
  obtain ⟨hi, -, hc, hs, -⟩ := (faultContext_frame s c).frame
  refine ⟨hi, hs, ?_⟩
  rw [State.ctx, hc, ← State.ctx, ctx_modCtx_self]

theorem mayEnd_report {c l : Nat} {k : Card} (h : mayEnd s l) : mayEnd (s.report c k) l := by
  obtain ⟨v, hv, hp, hn⟩ := h
  obtain ⟨_, hv'⟩ := lookupA_report_launches (c := c) (k := k) hv
  exact ⟨_, hv', hp, hn⟩

/-- An expression that still may end and whose context then faults keeps the status that ended it. -/
theorem faultContext_endExpression_status {l status seat c : Nat} (h : mayEnd s l) (hq : seat < 0xFFFF) :
    (lookupA ((s.endExpression l status seat).faultContext c).launches l).bind (·.status) = some status := by
  obtain ⟨-, y, hy, hst, -, hclk, hseat⟩ := endExpression_status (status := status) (seat := seat) h
  have hk := ((ReportOnly.refl s).endExpression (l := l) (status := status) (seat := seat)).clk
  have hend : endedHere (s.endExpression l status seat) l status := ⟨y, hy, hst, hclk.trans hk.symm, hseat ▸ hq⟩
  obtain ⟨z, hz, hzs, -⟩ := hend.faultContext (c := c)
  rw [hz, Option.bind_some, hzs]

/-- A second failure faults the context, and the launch has the status of a failed lesson load. -/
theorem exec_loadReportsCollected_of_second {g : Nat} {x : Segment} (hx : lookupA s.segs g = some x) (hp : x.phase = .loading)
    (hf : x.failed = true) (ha : ¬x.attempt = 0) :
    ∃ t : State, exec (.loadReportsCollected g) s = .next t ∧ t.insts = s.insts ∧ t.scr = s.scr ∧ (t.ctx x.ctx).state = .faulted ∧
      ∀ v, lookupA s.launches x.launch = some v → v.phase ≠ .retired → v.status = none → x.openSeat < 0xFFFF →
        (lookupA t.launches x.launch).bind (·.status) = some 0x06 := by
  rw [exec_loadReportsCollected, execLoadReportsCollected]
  simp only [hx]
  rw [if_neg (by simp [hp]), if_neg (by simp [hf]), if_neg ha]
  have hr := ((ReportOnly.refl s).report (c := x.ctx)
    (k := { Card.ofStatus stLessonLoad 1 with opnum := x.opnum, openSeat := x.openSeat, launch := x.launch })).report (c := x.ctx)
    (k := Card.ofStatus stContextFaulted 2)
  obtain ⟨hi, -, -, hs, -⟩ := (hr.endExpression (l := x.launch) (status := stLessonLoad) (seat := x.openSeat)).frame
  obtain ⟨hi', hs', hc'⟩ := faultContext_spec _ x.ctx
  exact ⟨_, rfl, hi'.trans hi, hs'.trans hs, hc', fun v hv hp hn hq =>
    faultContext_endExpression_status (mayEnd_report (mayEnd_report ⟨v, hv, hp, hn⟩)) hq⟩

/-! ## The switch beat (02 R48, R49) -/

/-- New instances, one after another, take the next numbers. -/
theorem foldl_newInst {mk : State → Nat → Inst} (hmk : ∀ (s : State) k m i, mk { s with ids := k, insts := m } i = mk s i) (s : State) (n : Nat) :
    ∃ m, (List.range n).foldl (fun s i => s.newId.2.setInst s.newId.1 (mk s i)) s = { s with ids := s.ids + n, insts := m } ∧
      (∀ i, i < n → lookupA m (s.ids + 1 + i) = some (mk s i)) ∧ ∀ j, j ≤ s.ids → lookupA m j = lookupA s.insts j := by
  induction n with
  | zero => exact ⟨s.insts, rfl, fun i hi => absurd hi (by omega), fun j _ => rfl⟩
  | succ n ih =>
    obtain ⟨m, he, hn, ho⟩ := ih
    rw [List.range_succ, List.foldl_append, he, List.foldl_cons, List.foldl_nil]
    refine ⟨putA m (s.ids + n + 1) (mk s n), ?_, fun i hi => ?_, fun j hj => ?_⟩
    · rw [hmk]
      rfl
    · rw [lookupA_putA]
      split
      next h =>
        obtain rfl : i = n := by omega
        rfl
      next h => exact hn i (by omega)
    · rw [lookupA_putA, if_neg (by omega)]
      exact ho j hj

/-- The instance that a switch beat starts at a seat. -/
def beatInst (g : Nat) (x : Segment) (cellcount : Nat) (s : State) (i : Nat) : Inst :=
  let y := s.cell x.ctx (x.openCell + i)
  let prot := y.hdrs.filterMap fun e =>
    let h := HdrView.ofWords e.2.1 e.2.2
    if h.valid then some (h.base, h.count) else none
  let sym := x.syms.getD i 0#64
  Inst.fresh { ctx := x.ctx, slot := x.slot, cell := x.openCell + i, seat := i, seglen := x.seglen, seg := g, launch := x.launch,
               opnum := x.opnum, cellcount, part := s.partNumber x.slot, symbol := sym, nest := bits sym.toNat 59 52 }
    (Header.ofWord x.header) y.cur s.clk prot

/-- The registers at the start of an instance (01 R22). -/
theorem Regs.start_reads :
    (∀ n, n < 32 → Regs.start.getX n = 0#64 ∧ ∀ j, j < 16 → (Regs.start.getV n).lane j = 0#32 ∧ (Regs.start.getV n).ok j = true) ∧
      (∀ n, 0 < n → n < 8 → Regs.start.getK n = 0#16) ∧ ∀ n, n < 3 → Regs.start.getLc n = 0#32 := by
  refine ⟨fun n hn => ⟨?_, fun j hj => ?_⟩, fun n h0 hn => ?_, fun n hn => ?_⟩
  · simp [Regs.start, Regs.getX]
  · have hok : ∀ k < 16, VecVal.fresh.ok k = true := by decide
    rw [show Regs.start.getV n = VecVal.fresh by simp [Regs.start, Regs.getV, hn]]
    exact ⟨by simp [VecVal.fresh, VecVal.lane], hok j hj⟩
  · simp [Regs.start, Regs.getK, h0.ne']
  · simp [Regs.start, Regs.getLc]

/-- What a switch beat starts at a seat is as 02 R49 says. -/
theorem beatInst_startsAs {g i : Nat} {x : Segment} (hd : t.dev = s.dev) (hk : t.clk = s.clk) :
    startsAs s g i x (beatInst g x (s.part x.slot).cellcount t i) := by
  have hp : t.partNumber x.slot = s.partNumber x.slot := by simp only [State.partNumber, hd]
  exact ⟨by simp [beatInst, Inst.fresh, hp, bits], rfl, rfl, rfl, congrArg some hk, rfl, Regs.start_reads⟩

/-- The beat exchanges the buffers of the cells that loaded and starts every seat's instance. -/
theorem exec_switchBeat_of_loading {g : Nat} {x : Segment} (hx : lookupA s.segs g = some x) (hp : x.phase = .loading)
    (hst : x.standard = false) (hl : x.loads.Nodup) :
    ∃ t : State, exec (.switchBeat g) s = .next t ∧ lookupA t.segs g = some { x with phase := .running } ∧
      (∀ i, i < x.seglen → ∃ v, t.inst? (s.ids + 1 + i) = some v ∧ startsAs s g i x v ∧ v.buf = (t.cell x.ctx (x.openCell + i)).cur ∧
        let c := s.cell x.ctx (x.openCell + i)
        let b : LessonBuf := { opnum := x.opnum, header := x.header, words := x.words }
        t.cell x.ctx (x.openCell + i) =
          (if x.loads.contains i then (if c.cur = 0 then { c with buf1 := some b, cur := 1 } else { c with buf0 := some b, cur := 0 }) else c)) ∧
      (∀ j, j ≤ s.ids → t.inst? j = s.inst? j) ∧ t.mem = s.mem ∧ t.scr = s.scr := by
  rw [exec_switchBeat, execSwitchBeat]
  simp -zeta only [hx]
  rw [if_neg (by simp [hp])]
  extract_lets +onlyGivenNames s₁ buf s₂ s₃ cellcount s₄
  obtain ⟨cs, hcs⟩ : ∃ cs, s₂ = { s₁ with ctxs := cs } := foldl_modCell_frame x.loads s₁
  have h₃ : s₃ = s₂ := by simp [s₃, hst]
  have hcell (i : Nat) : s₄.cell x.ctx (x.openCell + i) = s₂.cell x.ctx (x.openCell + i) := by
    simp only [State.cell, s₄, h₃, ctx_modCtx_self]
  have hc₁ (k : Nat) : s₁.cell x.ctx k = s.cell x.ctx k := by simp [State.cell, State.ctx, s₁]
  obtain ⟨m, hm, hnew, hold⟩ := foldl_newInst (mk := beatInst g x cellcount) (fun _ _ _ _ => rfl) s₄ x.seglen
  have hcell₂ (i : Nat) := cell_foldl_modCell (c := x.ctx) (o := x.openCell)
    (f := fun y => if y.cur = 0 then { y with buf1 := some buf, cur := 1 } else { y with buf0 := some buf, cur := 0 }) hl s₁ i
  refine ⟨{ s₄ with ids := s₄.ids + x.seglen, insts := m }, ?_, ?_, fun i hi => ⟨beatInst g x cellcount s₄ i, ?_, ?_, rfl, ?_⟩, ?_, ?_, ?_⟩
  · rw [← hm]
    simp only [hst]
    rfl
  · have hseg := lookupA_modSeg_self hx fun x => { x with phase := .running }
    simpa [s₄, h₃, hcs, s₁] using hseg
  · have hids : s₄.ids = s.ids := by simp [s₄, h₃, hcs, s₁]
    rw [← hids]
    exact hnew i hi
  · have hcount : cellcount = (s.part x.slot).cellcount := by simp [cellcount, h₃, hcs, s₁, State.part]
    rw [hcount]
    exact beatInst_startsAs (by simp [s₄, h₃, hcs, s₁]) (by simp [s₄, h₃, hcs, s₁])
  · rw [← hc₁]
    exact (hcell i).trans (hcell₂ i)
  · have hi : s₄.insts = s.insts := by simp [s₄, h₃, hcs, s₁]
    have hids : s₄.ids = s.ids := by simp [s₄, h₃, hcs, s₁]
    intro j hj
    rw [State.inst?, hold j (hids ▸ hj), hi, ← State.inst?]
  · simp [s₄, h₃, hcs, s₁]
  · simp [s₄, h₃, hcs, s₁]

/-- Settles O40, by one lemma for each of the four events. -/
theorem lessonLoads : Obligations.LessonLoads := by
  refine ⟨fun _ _ _ _ _ hx hp hc he hk => exec_lessonImageReceived_of_loaded hx hp hc he hk,
    fun _ _ _ hx hp hf => exec_loadReportsCollected_of_clean hx hp hf, fun g s x hx hp hf => ?_,
    fun _ _ _ hx hp hst hl => exec_switchBeat_of_loading hx hp hst hl⟩
  by_cases ha : x.attempt = 0
  · obtain ⟨t, he, hi, hs, hc, hm, hg⟩ := exec_loadReportsCollected_of_failed hx hp hf ha
    exact ⟨t, he, hi, hs, by rw [if_pos ha]; exact ⟨hc, hm, hg⟩⟩
  · obtain ⟨t, he, hi, hs, hc, hl⟩ := exec_loadReportsCollected_of_second hx hp hf ha
    exact ⟨t, he, hi, hs, by rw [if_neg ha]; exact ⟨hc, hl⟩⟩

end Sys2Proof.Machine
end

section
/-!
The search of a syllabus table; what binding an application does. One proof is elaborated at a time: the threads of hundreds of
proofs at once pass the memory that a check of the whole text may take.
-/

set_option Elab.async false

namespace Sys2Proof.Machine

open Sys2Proof.Claims

variable {s t : State}

/-! ## The search of a syllabus table (13 R306) -/

/-- The number of an entry, which the model takes from bits 63 to 48 of its first word. -/
theorem bits_syllabusEntry (s : State) (table i : Nat) :
    bits (readNat s.mem (table + 16 + 16 * i) 8) 63 48 = (syllabusEntry s table i).1 / 2 ^ 48 := by
  have := readNat_lt s.mem (table + 16 + 16 * i) 8
  simp only [bits, syllabusEntry]
  omega

/-- A binary search of entries [lo, hi) whose numbers rise finds an entry exactly when it is there, with steps enough to halve the stretch
to nothing. -/
theorem searchTable_spec {table n count : Nat}
    (hr : ∀ i j, i < j → j < count → (syllabusEntry s table i).1 / 2 ^ 48 < (syllabusEntry s table j).1 / 2 ^ 48)
    (fuel lo hi : Nat) (hc : hi ≤ count) (hf : hi - lo < 2 ^ fuel) :
    (∀ i, lo ≤ i → i < hi → (syllabusEntry s table i).1 / 2 ^ 48 = n → s.searchTable table n fuel lo hi = some (syllabusEntry s table i)) ∧
      ((∀ i, lo ≤ i → i < hi → (syllabusEntry s table i).1 / 2 ^ 48 ≠ n) → s.searchTable table n fuel lo hi = none) := by
  induction fuel generalizing lo hi with
  | zero => exact ⟨fun i hl hh _ => absurd hf (by omega), fun _ => rfl⟩
  | succ fuel ih =>
    rw [pow_succ] at hf
    rw [State.searchTable]
    by_cases hle : hi ≤ lo
    · rw [if_pos hle]
      exact ⟨fun i hl hh _ => absurd hle (by omega), fun _ => rfl⟩
    rw [if_neg hle]
    obtain ⟨m, hm⟩ : ∃ m, (lo + hi) / 2 = m := ⟨_, rfl⟩
    have hmid : lo ≤ m ∧ m < hi := by omega
    dsimp only
    rw [hm, bits_syllabusEntry]
    by_cases heq : (syllabusEntry s table m).1 / 2 ^ 48 = n
    · rw [if_pos heq]
      refine ⟨fun i hl hh hi => ?_, fun h => absurd heq (h m hmid.1 hmid.2)⟩
      have : i = m := by
        by_contra hne
        rcases Nat.lt_or_gt_of_ne hne with h | h
        · exact absurd (hr i m h (by omega)) (by omega)
        · exact absurd (hr m i h (by omega)) (by omega)
      subst this
      rw [syllabusEntry, show table + 16 + 16 * i + 8 = table + 24 + 16 * i by omega]
    · rw [if_neg heq]
      by_cases hlt : (syllabusEntry s table m).1 / 2 ^ 48 < n
      · rw [if_pos hlt]
        obtain ⟨hin, hout⟩ := ih (m + 1) hi hc (by omega)
        refine ⟨fun i hl hh he => hin i ?_ hh he, fun h => hout fun i hl hh => h i (by omega) hh⟩
        by_contra hlow
        rcases Nat.lt_or_ge i m with h | h
        · exact absurd (hr i m h (by omega)) (by omega)
        · exact heq ((by omega : i = m) ▸ he)
      · rw [if_neg hlt]
        obtain ⟨hin, hout⟩ := ih lo m (by omega) (by omega)
        refine ⟨fun i hl hh he => hin i hl ?_ he, fun h => hout fun i hl hh => h i hl (by omega)⟩
        by_contra hhigh
        rcases Nat.lt_or_ge m i with h | h
        · exact absurd (hr m i h (by omega)) (by omega)
        · exact heq ((by omega : i = m) ▸ he)

/-! ## Seats -/

theorem symKind_eq_kind (w : Word) : symKind w = kind w := by
  have := w.isLt
  simp only [symKind, kind, bits]
  omega

theorem symLevel_eq_level (w : Word) : symLevel w = level w := rfl

@[simp] theorem seat_setSeat (x : Ctx) (p q : Nat) (v : SeatState) : (x.setSeat p v).seat q = if q = p then v else x.seat q := getD_setD ..

/-- Seats that are changed one after another, each once. -/
theorem seat_foldl_setSeat {o : Nat} {f : SeatState → SeatState} (x : Ctx) (n q : Nat) :
    ((List.range n).foldl (fun x i => x.setSeat (o + i) (f (x.seat (o + i)))) x).seat q =
      if o ≤ q ∧ q < o + n then f (x.seat q) else x.seat q := by
  induction n generalizing q with
  | zero => rw [if_neg (by omega)]; rfl
  | succ n ih =>
    rw [List.range_succ, List.foldl_append, List.foldl_cons, List.foldl_nil, seat_setSeat, ih, ih]
    by_cases hq : q = o + n
    · subst hq
      simp
    · rw [if_neg hq]
      exact if_congr (by omega) rfl rfl

/-! ## Binding (02 R42 to R44) -/

section
variable {slot c f l : Nat} {v : Launch} (hv : lookupA s.launches ((s.ctx c).seat f).launch = some v) (hp : v.phase = .running)
  (hn : v.status = none) (hk : kind ((s.ctx c).seat f).sym = 1) (hb : ((s.ctx c).seat f).busy = none)
include hv hp hn hk hb

/-- An application that is bound makes its seats busy. -/
theorem bindOne_of_image {img : Image} (hfl : f ≤ l)
    (hi : s.lessonImage c f (((s.ctx c).seat (f + 1)).sym.toNat % 2 ^ 16) v.level = .ok img)
    (hr : ((s.ctx c).seat (f + 1)).sym.toNat % 2 ^ 16 ≠ 0x61) :
    let b := s.bindOne slot c f l
    b.2 = some (s.ids + 1) ∧
      (∃ g, lookupA b.1.segs (s.ids + 1) = some g ∧ g.ctx = c ∧ g.opnum = ((s.ctx c).seat (f + 1)).sym.toNat % 2 ^ 16 ∧ g.openSeat = f ∧
        g.openCell = f ∧ g.seglen = l + 1 - f ∧ g.phase = .loading ∧ g.level = level ((s.ctx c).seat f).sym ∧ g.words = img.words ∧
        g.header = img.header) ∧
      ∀ p, (b.1.ctx c).seat p =
        (if f ≤ p ∧ p ≤ l then { (s.ctx c).seat p with busy := some (s.ids + 1) } else (s.ctx c).seat p) := by
  have hr' : ¬((s.ctx c).seat (f + 1)).sym.toNat % 65536 = 0x61 := hr
  have hbind : s.bindOne slot c f l =
      (({ s with ids := s.ids + 1, segs := putA s.segs (s.ids + 1) (s.segmentOf slot c f l img) } : State).modCtx c
      fun x => (List.range (l + 1 - f)).foldl (fun x i => x.setSeat (f + i) { x.seat (f + i) with busy := some (s.ids + 1) }) x, some (s.ids + 1)) := by
    simp only [State.bindOne, hv, hp, hn, symKind_eq_kind, hk, hb, bits_low, Option.map_some, Option.getD_some]
    rw [hi]
    simp [hr', State.newId, State.segmentOf]
  rw [hbind]
  refine ⟨rfl, ⟨s.segmentOf slot c f l img, by simp, rfl, bits_low .., rfl, rfl, rfl, rfl, rfl, rfl, rfl⟩, fun p => ?_⟩
  rw [ctx_modCtx_self, seat_foldl_setSeat (f := fun q => { q with busy := some (s.ids + 1) })]
  exact if_congr (by omega) rfl rfl

/-- An operator number that names nothing ends its expression. -/
theorem bindOne_of_unknown (hl : ((s.ctx c).seat (f + 1)).sym.toNat % 2 ^ 16 < 0x1000)
    (hstd : isStandard (((s.ctx c).seat (f + 1)).sym.toNat % 2 ^ 16) = false) :
    let b := s.bindOne slot c f l
    b.2 = none ∧ b.1.segs = s.segs ∧ b.1.ctxs = s.ctxs ∧ (lookupA b.1.launches ((s.ctx c).seat f).launch).bind (·.status) = some 0x04 := by
  have himg : s.lessonImage c f (((s.ctx c).seat (f + 1)).sym.toNat % 2 ^ 16) v.level = .error ⟨stUnknownOperator, 0⟩ := by
    rw [State.lessonImage, if_pos hl, hstd]
    rfl
  have hbind : ∃ k, s.bindOne slot c f l = ((s.report c k).endExpression ((s.ctx c).seat f).launch stUnknownOperator f, none) := by
    simp only [State.bindOne, hv, hp, hn, symKind_eq_kind, hk, hb, bits_low, Option.map_some, Option.getD_some]
    rw [himg]
    exact ⟨_, by simp; rfl⟩
  obtain ⟨k, hbind⟩ := hbind
  obtain ⟨-, hs, hc, -⟩ := (((ReportOnly.refl s).report (c := c) (k := k)).endExpression (l := ((s.ctx c).seat f).launch)
    (status := stUnknownOperator) (seat := f)).frame
  obtain ⟨-, x, hx, hst, -⟩ := endExpression_status (status := stUnknownOperator) (seat := f) (mayEnd_report (c := c) (k := k) ⟨v, hv, hp ▸ by decide, hn⟩)
  rw [hbind]
  exact ⟨rfl, hs, hc, by rw [hx, Option.bind_some, hst, stUnknownOperator]⟩

end

end Sys2Proof.Machine
end

section
/-!
What the sweep over a row finds. One proof is elaborated at a time: the threads of hundreds of
proofs at once pass the memory that a check of the whole text may take.
-/

set_option Elab.async false

namespace Sys2Proof.Machine

open Sys2Proof.Claims

variable {s t : State}

/-! ## Seats of a row in order -/

/-- The seat p of a row. -/
def seatIn (r : Assoc SeatState) (p : Nat) : SeatState := getD SeatState.free r p

theorem seatIn_cons {a p : Nat} {q : SeatState} {r : Assoc SeatState} : seatIn ((a, q) :: r) p = if p = a then q else seatIn r p := by
  simp only [seatIn, getD, lookupA]
  by_cases h : p = a
  · simp [h]
  · simp [h, Ne.symm h]

/-- A seat below every seat of a row is free. -/
theorem kind_seatIn_of_below {r : Assoc SeatState} {p : Nat} (h : ∀ e ∈ r, p < e.1) : kind (seatIn r p).sym = 0 := by
  have hn : lookupA r p = none := by
    induction r with
    | nil => rfl
    | cons e r ih =>
      have he := h e (List.mem_cons_self ..)
      rw [lookupA, if_neg (by omega)]
      exact ih fun e h' => h e (List.mem_cons_of_mem _ h')
  rw [seatIn, getD, hn]
  rfl

/-! ## What a sweep finds (02 R39 to R41) -/

/-- Whether the seats after `a` are full, open nothing and block nothing, up to a close of the level `lev` at `l`. -/
def closesAt (s : State) (r : Assoc SeatState) (a lev l : Nat) : Prop :=
  a < l ∧ kind (seatIn r l).sym = 2 ∧ level (seatIn r l).sym = lev ∧
    ∀ p, a < p → p ≤ l → kind (seatIn r p).sym ≠ 1 ∧ kind (seatIn r p).sym ≠ 0 ∧ s.blocksReady (seatIn r p) = false

/-- Whether an application of a row is innermost and ready: an open that blocks nothing, and its close. -/
def readyIn (s : State) (r : Assoc SeatState) (f l : Nat) : Prop :=
  kind (seatIn r f).sym = 1 ∧ s.blocksReady (seatIn r f) = false ∧ closesAt s r f (level (seatIn r f).sym) l

theorem not_closesAt_nil {a lev l : Nat} : ¬closesAt s [] a lev l := fun h => by
  have := kind_seatIn_of_below (r := []) (p := l) (by simp)
  rw [h.2.1] at this
  omega

section
variable {p : Nat} {q : SeatState} {r : Assoc SeatState} (hr : ∀ e ∈ r, p < e.1)
include hr

/-- The seats after `a` go on with the next seat of the row, which must be the next one. -/
theorem closesAt_cons {a lev l : Nat} (ha : a < p) :
    closesAt s ((p, q) :: r) a lev l ↔ p = a + 1 ∧ kind q.sym ≠ 1 ∧ kind q.sym ≠ 0 ∧ s.blocksReady q = false ∧
      ((l = p ∧ kind q.sym = 2 ∧ level q.sym = lev) ∨ closesAt s r p lev l) := by
  have hp : seatIn ((p, q) :: r) p = q := by simp [seatIn_cons]
  have hgt {j : Nat} (hj : p < j) : seatIn ((p, q) :: r) j = seatIn r j := by rw [seatIn_cons, if_neg (by omega)]
  constructor
  · rintro ⟨hal, hk, hlev, hall⟩
    have hpa : p = a + 1 := by
      by_contra hne
      have hzero : kind (seatIn ((p, q) :: r) (a + 1)).sym = 0 := kind_seatIn_of_below fun e he => by
        rcases List.mem_cons.mp he with rfl | he
        · exact Nat.lt_of_le_of_ne ha (Ne.symm hne)
        · exact Nat.lt_trans (Nat.lt_of_le_of_ne ha (Ne.symm hne)) (hr e he)
      exact (hall (a + 1) (by omega) (by omega)).2.1 hzero
    obtain ⟨h1, h0, hb⟩ := hall p ha (by omega)
    rw [hp] at h1 h0 hb
    refine ⟨hpa, h1, h0, hb, ?_⟩
    rcases Nat.lt_or_ge p l with hl | hl
    · refine .inr ⟨hl, hgt hl ▸ hk, hgt hl ▸ hlev, fun j hj hjl => ?_⟩
      rw [← hgt hj]
      exact hall j (by omega) hjl
    · obtain rfl : l = p := by omega
      exact .inl ⟨rfl, hp ▸ hk, hp ▸ hlev⟩
  · rintro ⟨hpa, h1, h0, hb, ⟨rfl, hk, hlev⟩ | ⟨hl, hk, hlev, hall⟩⟩
    · refine ⟨ha, by rw [hp]; exact hk, by rw [hp]; exact hlev, fun j hj hjl => ?_⟩
      obtain rfl : j = l := by omega
      rw [hp]
      exact ⟨h1, h0, hb⟩
    · refine ⟨by omega, (hgt hl).symm ▸ hk, (hgt hl).symm ▸ hlev, fun j hj hjl => ?_⟩
      rcases Nat.lt_or_ge p j with hpj | hpj
      · rw [hgt hpj]
        exact hall j hpj hjl
      · obtain rfl : j = p := by omega
        rw [hp]
        exact ⟨h1, h0, hb⟩

/-- A ready application of a row opens at its first seat or lies behind it. -/
theorem readyIn_cons {f l : Nat} :
    readyIn s ((p, q) :: r) f l ↔
      (f = p ∧ kind q.sym = 1 ∧ s.blocksReady q = false ∧ closesAt s r p (level q.sym) l) ∨ readyIn s r f l := by
  have hgt {j : Nat} (hj : p < j) : seatIn ((p, q) :: r) j = seatIn r j := by rw [seatIn_cons, if_neg (by omega)]
  have hclose {a lev : Nat} (ha : p ≤ a) : closesAt s ((p, q) :: r) a lev l ↔ closesAt s r a lev l := by
    refine and_congr_right fun hal => ?_
    rw [hgt (by omega)]
    refine and_congr_right fun _ => and_congr_right fun _ => forall_congr' fun j => forall_congr' fun hj => ?_
    rw [hgt (by omega)]
  have hlow : f ≤ p → ¬readyIn s r f l := fun hf h => by
    have := kind_seatIn_of_below fun e he => Nat.lt_of_le_of_lt hf (hr e he)
    rw [h.1] at this
    omega
  rcases Nat.lt_trichotomy f p with hf | rfl | hf
  · refine ⟨fun h => ?_, fun h => h.elim (fun h => absurd h.1 hf.ne) fun h => absurd h (hlow hf.le)⟩
    have := kind_seatIn_of_below (r := (p, q) :: r) (p := f) fun e he => by
      rcases List.mem_cons.mp he with rfl | he
      · exact hf
      · exact hf.trans (hr e he)
    rw [h.1] at this
    omega
  · have hp : seatIn ((f, q) :: r) f = q := by simp [seatIn_cons]
    rw [readyIn, hp, hclose le_rfl]
    simp [hlow le_rfl]
  · rw [readyIn, hgt hf, hclose hf.le, ← readyIn]
    simp [hf.ne']

end

/-- What the sweep tells at a close. -/
theorem mem_found_here {o p f l : Nat} {c gap blk : Bool} :
    (∃ x ∈ (if c then [(⟨o, p, gap, blk || gap⟩ : Found)] else []), x.blocked = false ∧ x.first = f ∧ x.last = l) ↔
      c = true ∧ gap = false ∧ blk = false ∧ o = f ∧ p = l := by
  cases c
  · simp
  · simp [and_assoc, and_left_comm]

/-- The sweep over a row finds, unblocked, the ready applications of the rest of the row, and the closes of the open that it has seen. -/
theorem mem_sweepRow {r : Assoc SeatState} (hs : sortedA r = true) {f l : Nat} (seen : Nat) (cur : Option (Nat × Nat × Bool × Bool))
    (hseen : cur.isSome → ∀ e ∈ r, seen < e.1) :
    (∃ x ∈ s.sweepRow cur seen r, x.blocked = false ∧ x.first = f ∧ x.last = l) ↔
      (∃ lev, cur = some (f, lev, false, false) ∧ closesAt s r seen lev l) ∨ readyIn s r f l := by
  induction r generalizing seen cur with
  | nil =>
    have hr : ¬readyIn s [] f l := fun h => not_closesAt_nil h.2.2
    simp [State.sweepRow, not_closesAt_nil, hr]
  | cons e r ih =>
    obtain ⟨p, q⟩ := e
    have hr : ∀ e ∈ r, p < e.1 := sortedA_above hs
    replace ih := ih (sortedA_tail hs) p
    unfold State.sweepRow
    rw [readyIn_cons hr]
    simp only [symKind_eq_kind, symLevel_eq_level]
    by_cases hk : kind q.sym = 1
    · rw [if_pos hk, ih _ fun _ => hr]
      have hno : ¬∃ lev, cur = some (f, lev, false, false) ∧ closesAt s ((p, q) :: r) seen lev l := fun ⟨lev, hcur, h⟩ =>
        ((closesAt_cons hr (hseen (by simp [hcur]) _ (List.mem_cons_self ..))).mp h).2.1 hk
      simp only [hno, false_or, hk, true_and, Option.some.injEq, Prod.mk.injEq]
      refine or_congr ⟨?_, ?_⟩ Iff.rfl
      · rintro ⟨lev, ⟨rfl, rfl, hb⟩, h⟩
        exact ⟨rfl, hb, h⟩
      · rintro ⟨rfl, hb, h⟩
        exact ⟨_, ⟨rfl, rfl, hb⟩, h⟩
    · rw [if_neg hk]
      simp only [hk, false_and, and_false, false_or]
      match cur, hseen with
      | none, _ =>
        dsimp only
        rw [ih none (by simp)]
        simp
      | some (o, lv, gap, blk), hseen =>
        dsimp only
        simp only [List.mem_append, or_and_right, exists_or, ih _ fun _ => hr, ← or_assoc]
        refine or_congr ?_ Iff.rfl
        simp only [closesAt_cons hr (hseen rfl _ (List.mem_cons_self ..)), hk, mem_found_here, Option.some.injEq, Prod.mk.injEq,
          Bool.or_eq_false_iff, decide_eq_false_iff_not, ne_eq, not_not, not_false_eq_true, true_and]
        constructor
        · rintro (⟨hc, ⟨⟨rfl, hp⟩, h0⟩, ⟨rfl, hb⟩, rfl, rfl⟩ | ⟨lev, ⟨rfl, rfl, ⟨⟨rfl, hp⟩, h0⟩, rfl, hb⟩, h⟩)
          · obtain ⟨hc, hlev⟩ := (Bool.and_eq_true ..).mp hc
            exact ⟨_, ⟨rfl, rfl, rfl, rfl⟩, hp, h0, hb, .inl ⟨rfl, of_decide_eq_true hc, of_decide_eq_true hlev⟩⟩
          · exact ⟨_, ⟨rfl, rfl, rfl, rfl⟩, hp, h0, hb, .inr h⟩
        · rintro ⟨lev, ⟨rfl, rfl, rfl, rfl⟩, hp, h0, hb, ⟨rfl, hc⟩ | h⟩
          · exact .inl ⟨by simp [hc.1, hc.2], ⟨⟨rfl, hp⟩, h0⟩, ⟨rfl, hb⟩, rfl, rfl⟩
          · exact .inr ⟨_, ⟨rfl, rfl, ⟨⟨rfl, hp⟩, h0⟩, rfl, hb⟩, h⟩

/-- A seat that blocks nothing: not frozen, not busy, no parked quote, and of an expression that runs. -/
theorem blocksReady_eq_false {q : SeatState} :
    s.blocksReady q = false ↔ q.frozen = false ∧ q.busy = none ∧ ¬(kind q.sym = 9 ∧ q.sym.toNat / 2 ^ 48 % 2 = 1) ∧
      ∃ v, lookupA s.launches q.launch = some v ∧ v.phase = .running ∧ v.status = none := by
  unfold State.blocksReady
  cases h : lookupA s.launches q.launch with
  | none => simp
  | some v => simp [symKind_eq_kind, bit, and_assoc]

/-- The model's ready applications are the statement's. -/
theorem readyIn_row {x : Ctx} {f l : Nat} : readyIn s x.row f l ↔ readyAt_ s x f l := by
  have hseat (p : Nat) : seatIn x.row p = x.seat p := rfl
  simp only [readyIn, closesAt, readyAt_, hseat, blocksReady_eq_false]
  constructor
  · rintro ⟨h1, hb, hfl, h2, hlev, hall⟩
    refine ⟨hfl, h1, h2, hlev.symm, fun p hp hpl => (hall p hp hpl).1, fun p hp hpl => ?_⟩
    rcases Nat.eq_or_lt_of_le hp with rfl | hp
    · exact ⟨by omega, hb⟩
    · exact (hall p hp hpl).2
  · rintro ⟨hfl, h1, h2, hlev, hopen, hall⟩
    exact ⟨h1, (hall f le_rfl hfl.le).2, hfl, h2, hlev.symm, fun p hp hpl => ⟨hopen p hp hpl, hall p hp.le hpl⟩⟩

/-- The innermost applications that a sweep finds unblocked are the ready ones. -/
theorem mem_innermost {x : Ctx} (hs : sortedA x.row = true) {f l : Nat} :
    (∃ y ∈ s.innermost x, y.blocked = false ∧ y.first = f ∧ y.last = l) ↔ readyAt_ s x f l := by
  rw [State.innermost, mem_sweepRow hs 0 none (by simp), readyIn_row]
  simp

end Sys2Proof.Machine
end

section
/-!
The discovery sweep (O41). One proof is elaborated at a time: the threads of hundreds of
proofs at once pass the memory that a check of the whole text may take.
-/

set_option Elab.async false

namespace Sys2Proof.Machine

open Sys2Proof.Claims

variable {s t u : State}

/-! ## Steps that reach the agenda and the partitions alone -/

/-- `t` is `s` but for its agenda and its partitions. -/
def RootOnly (s t : State) : Prop := ∃ a ps, t = { s with agenda := a, parts := ps }

theorem RootOnly.refl (s : State) : RootOnly s s := ⟨_, _, rfl⟩

theorem RootOnly.trans (h₁ : RootOnly s t) (h₂ : RootOnly t u) : RootOnly s u := by
  obtain ⟨_, _, rfl⟩ := h₁
  obtain ⟨_, _, rfl⟩ := h₂
  exact ⟨_, _, rfl⟩

theorem RootOnly.frame (h : RootOnly s t) : t.ctxs = s.ctxs ∧ t.insts = s.insts ∧ t.segs = s.segs ∧ t.mem = s.mem ∧ t.launches = s.launches := by
  obtain ⟨_, _, rfl⟩ := h
  exact ⟨rfl, rfl, rfl, rfl, rfl⟩

theorem RootOnly.schedule (h : RootOnly s t) {a : Nat} {e : Instr} : RootOnly s (t.schedule a e) := h.trans ⟨_, _, rfl⟩

theorem RootOnly.scheduleFirst (h : RootOnly s t) {a : Nat} {e : Instr} : RootOnly s (t.scheduleFirst a e) := h.trans ⟨_, _, rfl⟩

theorem RootOnly.modPart (h : RootOnly s t) {p : Nat} {f : Part → Part} : RootOnly s (t.modPart p f) := by
  refine h.trans ?_
  unfold State.modPart
  split
  · exact ⟨_, _, rfl⟩
  · exact .refl t

theorem lookupA_modPart_self {slot : Nat} {p : Part} (h : lookupA s.parts slot = some p) (f : Part → Part) :
    lookupA (s.modPart slot f).parts slot = some (f p) := by
  simp [State.modPart, h]

theorem part_of_lookupA {slot : Nat} {p : Part} (h : lookupA s.parts slot = some p) : s.part slot = p := by
  rw [State.part, getD, h, Option.getD_some]

/-! ## The discovery sweep (02 R39 to R42) -/

/-- Which ready applications a sweep hands on: those of the row, but that `reverse` waits while a segment of the context records. -/
theorem mem_readyOnes {c f l : Nat} (hs : sortedA (s.ctx c).row = true) :
    (f, l) ∈ s.readyOnes c (s.innermost (s.ctx c)) ↔
      readyAt_ s (s.ctx c) f l ∧ ¬(((s.ctx c).seat (f + 1)).sym.toNat % 2 ^ 16 = 0x61 ∧
        ∃ g ∈ s.segs, g.2.ctx = c ∧ g.2.record = true ∧ g.2.phase ≠ .tail) := by
  have hrec : (s.segs.any fun g => g.2.ctx = c && g.2.record && g.2.phase ≠ .tail) = true ↔
      ∃ g ∈ s.segs, g.2.ctx = c ∧ g.2.record = true ∧ g.2.phase ≠ .tail := by
    simp [and_assoc]
  rw [← mem_innermost hs, ← hrec, State.readyOnes]
  simp only [bits_low, List.mem_map, List.mem_filter, Bool.and_eq_true, Bool.not_eq_true', Prod.mk.injEq]
  constructor
  · rintro ⟨y, ⟨hy, hb, hr⟩, rfl, rfl⟩
    exact ⟨⟨y, hy, hb, rfl, rfl⟩, fun h => by rw [decide_eq_true h.1, h.2] at hr; cases hr⟩
  · rintro ⟨⟨y, hy, hb, rfl, rfl⟩, hr⟩
    exact ⟨y, ⟨hy, hb, by simpa using hr⟩, rfl, rfl⟩

/-- A sweep with nothing to bind, start or plan finds the ready applications, and changes the partition and the agenda alone. -/
theorem sweep_of_quiet {slot c : Nat} {p : Part} {w : Wave} (hp : lookupA s.parts slot = some p) (hpre : p.preempt = none) (hf : p.found = [])
    (hw : p.wave = some w) (hd : (s.ctx c).dying = false) (hc : (s.ctx c).state = .resident) (hl : (s.ctx c).logWaiters = [])
    (hb : s.bestHead slot c = none) :
    RootOnly s (s.sweep slot c) ∧ ((s.sweep slot c).part slot).sweepNo = p.sweepNo + 1 ∧
      ∃ t, RootOnly s t ∧ ((s.sweep slot c).part slot).found = t.readyOnes c (t.innermost (t.ctx c)) := by
  have hbind : s.bindFound slot c p.found = s := by simp [State.bindFound, hf]
  have hlink : s.readLink c = s := by simp [State.readLink, hl]
  have hstart : s.startHeads slot c 128 = s := by rw [State.startHeads, hb]
  unfold State.sweep
  extract_lets p₀ draining rest s₁ s₂ s₃ s₄ all s₅ s₆
  have hp₀ : p₀ = p := part_of_lookupA hp
  have hdrain : draining = false := by simp [draining, hp₀, hpre]
  have hrest : rest = false := by simp [rest, hdrain, hd, hc]
  have h₃ : s₃ = s := by simp [s₃, s₂, s₁, hrest, hp₀, hbind, hlink, hstart]
  have h₄ : RootOnly s s₄ ∧ ∃ p₁, lookupA s₄.parts slot = some p₁ ∧ p₁.sweepNo = p.sweepNo := by
    simp only [s₄, h₃]
    split
    · exact ⟨(RootOnly.refl s).scheduleFirst, p, hp, rfl⟩
    · exact ⟨(RootOnly.refl s).modPart.schedule, _, lookupA_modPart_self hp _, rfl⟩
  obtain ⟨h₄, p₁, hp₁, hn₁⟩ := h₄
  have hp₅ : s₅.part slot = { p₁ with found := if rest then [] else s₄.readyOnes c all, sweepNo := p₁.sweepNo + 1 } :=
    part_of_lookupA (lookupA_modPart_self hp₁ _)
  rw [hrest, if_neg Bool.false_ne_true] at hp₅
  have h₅ : RootOnly s s₅ := h₄.modPart
  have h₆ : s₆ = s₅ := by simp [s₆, hp₀, hw]
  have hend : ∀ t : State, t = (if (!draining && (s₆.switchWanted slot).isSome) = true then s₆.schedule s₆.clk (.preemptDecision slot) else s₆) →
      RootOnly s t ∧ t.part slot = s₅.part slot := by
    rintro _ rfl
    rw [h₆]
    split
    · exact ⟨h₅.schedule, rfl⟩
    · exact ⟨h₅, rfl⟩
  obtain ⟨hroot, hpart⟩ := hend _ rfl
  rw [hpart, hp₅]
  exact ⟨hroot, congrArg (· + 1) hn₁, s₄, h₄, rfl⟩

/-- `t` is `s` but for its agenda and its partitions, and the partition's sweeps have ceased. -/
def ceasedFrom (s : State) (slot : Nat) (t : State) : Prop :=
  RootOnly s t ∧ ∃ q, lookupA t.parts slot = some q ∧ q.sweeping = false ∧ q.found = []

theorem ceasedFrom.modPart {slot : Nat} (h : ceasedFrom s slot t) {f : Part → Part} (hs : ∀ q, (f q).sweeping = q.sweeping)
    (hf : ∀ q, (f q).found = q.found) : ceasedFrom s slot (t.modPart slot f) := by
  obtain ⟨hr, q, hq, hqs, hqf⟩ := h
  exact ⟨hr.modPart, f q, lookupA_modPart_self hq f, (hs q).trans hqs, (hf q).trans hqf⟩

theorem ceasedFrom.schedule {slot a : Nat} {e : Instr} (h : ceasedFrom s slot t) : ceasedFrom s slot (t.schedule a e) :=
  ⟨h.1.schedule, h.2⟩

/-- Without a running context sweeps cease. -/
theorem exec_discoverySweep_of_idle {slot : Nat} {p : Part} (hp : lookupA s.parts slot = some p) (hr : p.running = none) :
    ∃ t : State, exec (.discoverySweep slot) s = .next t ∧ ceasedFrom s slot t := by
  rw [exec_discoverySweep, execDiscoverySweep, part_of_lookupA hp]
  extract_lets s₁ s₂
  have hcease : ceasedFrom s slot (s.modPart slot fun p => { p with sweeping := false, found := [] }) :=
    ⟨(RootOnly.refl s).modPart, _, lookupA_modPart_self hp _, rfl, rfl⟩
  have h₂ : ceasedFrom s slot s₂ := (hcease.modPart (f := fun p => { p with idleSince := some s.clk }) (fun _ => rfl) fun _ => rfl).schedule
  refine if h : _ then ⟨_, if_pos h, hcease⟩ else ?_
  rw [if_neg h, hr]
  dsimp only
  split
  · exact ⟨_, rfl, h₂.schedule⟩
  · exact ⟨_, rfl, h₂⟩

/-- Settles O41, by the two-way sweep over the row, the binding of one application and the binary search. -/
theorem discoveryAndBinding : Obligations.DiscoveryAndBinding := by
  refine ⟨fun slot c s p w hp hrun hpre hf hw hpow hd hc hl hrow hb => ?_, fun slot s p hp hrun => ?_,
    fun slot c f l s v img hfl hv hp hn hk hb hi hr => bindOne_of_image hv hp hn hk hb hfl hi hr,
    fun slot c f l s v hv hp hn hk hb hl hstd => bindOne_of_unknown hv hp hn hk hb hl hstd,
    fun table n count s hc hr => ?_⟩
  · have hex : exec (.discoverySweep slot) s = .next (s.sweep slot c) := by
      rw [exec_discoverySweep, execDiscoverySweep, part_of_lookupA hp]
      simp [hpre, hpow, hrun]
    obtain ⟨hroot, hno, u, hu, hfound⟩ := sweep_of_quiet hp hpre hf hw hd hc hl hb
    obtain ⟨hcs, hi, hg, hm, -⟩ := hroot.frame
    refine ⟨_, hex, hcs, hi, hg, hm, hno, fun f l => ?_⟩
    obtain ⟨_, _, rfl⟩ := hu
    rw [hfound]
    exact mem_readyOnes hrow
  · obtain ⟨t, he, hroot, q, hq, hsw, hf⟩ := exec_discoverySweep_of_idle hp hrun
    obtain ⟨hcs, hi, -, hm, -⟩ := hroot.frame
    exact ⟨t, he, by rw [part_of_lookupA hq, hsw], by rw [part_of_lookupA hq, hf], hcs, hi, hm⟩
  · obtain ⟨hin, hout⟩ := searchTable_spec (n := n) hr 13 0 count le_rfl (by omega)
    exact ⟨fun i hi he => hin i (Nat.zero_le i) hi he, fun h => hout fun i _ hi => h i hi⟩

end Sys2Proof.Machine
end

section
/-!
What wakes the root; freezing and moving seats. One proof is elaborated at a time: the threads of hundreds of
proofs at once pass the memory that a check of the whole text may take.
-/

set_option Elab.async false

namespace Sys2Proof.Machine

open Sys2Proof.Claims

variable {s t u : State}

/-! ## What wakes the root changes the agenda and the partitions alone -/

theorem RootOnly.nudge (h : RootOnly s t) {slot : Nat} : RootOnly s (t.nudge slot) := by
  unfold State.nudge
  split
  · exact h.schedule
  · exact h

theorem RootOnly.wakeSweep (h : RootOnly s t) {slot : Nat} : RootOnly s (t.wakeSweep slot) := by
  unfold State.wakeSweep
  split
  · exact h
  · exact h.modPart.schedule

theorem RootOnly.scr (h : RootOnly s t) : t.scr = s.scr := by
  obtain ⟨_, _, rfl⟩ := h
  rfl

/-- Waking the root leaves a partition's wave. -/
theorem wakeSweep_nudge_wave {slot : Nat} {p : Part} (h : lookupA s.parts slot = some p) : (((s.wakeSweep slot).nudge slot).part slot).wave = p.wave := by
  have hn (u : State) : (u.nudge slot).part slot = u.part slot := by
    unfold State.nudge
    split
    · rfl
    · rfl
  rw [hn]
  unfold State.wakeSweep
  split
  · rw [part_of_lookupA h]
  · have hp := part_of_lookupA (lookupA_modPart_self h fun p => { p with sweeping := true, gated := false, idleSince := none })
    have hw := congrArg Part.wave hp
    exact hw

@[simp] theorem beginMoves_nil (s : State) (slot c : Nat) : s.beginMoves slot c [] = s := rfl

/-! ## Freezing and moving seats (03 R69 to R72) -/

theorem seat_freeze {on : Bool} (seats : List Nat) (x : Ctx) (q : Nat) :
    (x.freeze on seats).seat q = if seats.contains q then { x.seat q with frozen := on } else x.seat q := by
  unfold Ctx.freeze
  induction seats generalizing x with
  | nil => simp
  | cons p seats ih =>
    rw [List.foldl_cons, ih, seat_setSeat]
    by_cases hq : q = p
    · subst hq
      simp
    · simp [hq]

theorem contains_ends {moves : List (Nat × Nat)} {q : Nat} :
    (moves.flatMap fun m => [m.1, m.2]).contains q = moves.any fun m => m.1 = q || m.2 = q := by
  rw [Bool.eq_iff_iff, List.contains_iff_mem]
  simp only [List.mem_flatMap, List.mem_cons, List.not_mem_nil, or_false, List.any_eq_true, Bool.or_eq_true, decide_eq_true_eq, eq_comm (a := q)]

/-- The sources of moves, cleared one after another. -/
theorem seat_clear (y : Nat → SeatState) (moves : List (Nat × Nat)) (x : Ctx) (q : Nat) :
    (moves.foldl (fun x m => x.setSeat m.1 (y m.1)) x).seat q = if moves.any fun m => m.1 = q then y q else x.seat q := by
  induction moves generalizing x with
  | nil => simp
  | cons m moves ih =>
    rw [List.foldl_cons, ih, seat_setSeat]
    by_cases hq : m.1 = q
    · subst hq
      simp
    · rw [List.any_cons, decide_eq_false hq, Bool.false_or, if_neg (Ne.symm hq)]

/-- The destinations of moves, filled one after another, each once. -/
theorem seat_fill (y : Nat × Nat → SeatState) {moves : List (Nat × Nat)} (hd : (moves.map (·.2)).Nodup) (x : Ctx) (q : Nat) :
    (moves.foldl (fun x m => x.setSeat m.2 (y m)) x).seat q = ((moves.find? fun m => m.2 = q).map y).getD (x.seat q) := by
  induction moves generalizing x with
  | nil => rfl
  | cons m moves ih =>
    obtain ⟨hm, hd⟩ := List.nodup_cons.mp hd
    rw [List.foldl_cons, ih hd, seat_setSeat]
    by_cases hq : m.2 = q
    · subst hq
      have hnone : moves.find? (fun k => k.2 = m.2) = none := by
        refine List.find?_eq_none.mpr fun k hk he => hm ?_
        exact List.mem_map.mpr ⟨k, hk, of_decide_eq_true he⟩
      simp [hnone]
    · simp [hq, Ne.symm hq]

/-- A wave that is complete leaves each seat as 03 R69, R70 and R72 say. -/
theorem seat_applyMoves_freeze {moves : List (Nat × Nat)} (hd : (moves.map (·.2)).Nodup) (x : Ctx) (q : Nat) :
    ((x.applyMoves moves).freeze false (moves.flatMap fun m => [m.1, m.2])).seat q = seatAfter x moves q := by
  have hmoves : (x.applyMoves moves).seat q = seatAfter x moves q := by
    unfold Ctx.applyMoves seatAfter
    dsimp only
    rw [seat_fill (fun m => { x.seat m.1 with frozen := false, reserved := (x.seat m.2).reserved }) hd,
      seat_clear fun p => { SeatState.free with reserved := (x.seat p).reserved }]
    cases hf : moves.find? fun m => m.2 = q with
    | none => rfl
    | some m =>
      have hmq : m.2 = q := by simpa using List.find?_some hf
      simp [hmq]
  have hfree : (moves.any fun m => m.1 = q || m.2 = q) = true → (seatAfter x moves q).frozen = false := by
    intro h
    unfold seatAfter
    split
    · rfl
    next hf =>
      have : (moves.any fun m => m.1 = q) = true := by
        obtain ⟨m, hm, he⟩ := List.any_eq_true.mp h
        have := List.find?_eq_none.mp hf m hm
        exact List.any_eq_true.mpr ⟨m, hm, by simpa [show ¬m.2 = q by simpa using this] using he⟩
      rw [if_pos this]
      rfl
  rw [seat_freeze, contains_ends, hmoves]
  split
  next h =>
    have := hfree h
    cases hx : seatAfter x moves q
    simp_all
  · rfl

end Sys2Proof.Machine
end

section
/-!
A wave starts and is complete. One proof is elaborated at a time: the threads of hundreds of
proofs at once pass the memory that a check of the whole text may take.
-/

set_option Elab.async false

namespace Sys2Proof.Machine

open Sys2Proof.Claims

variable {s t u : State}

/-! ## A wave starts (03 R70, R71; 10 R226) -/

section
variable {slot c : Nat} {p : Part} {w : Wave} (hp : lookupA s.parts slot = some p) (hr : p.running = some c) (hw : p.wave = some w)
include hp hr hw

/-- A planning step with nothing to move or serve is over. -/
theorem exec_shiftWave_of_quiet (hst : w.started = false) (ha : w.allow = []) (hb : w.begins = []) (hm : w.moves = []) (hs : w.serves = []) :
    exec (.shiftWave slot) s = .next ((s.modPart slot fun q => { q with wave := none }).nudge slot) := by
  rw [exec_shiftWave, execShiftWave, part_of_lookupA hp]
  simp [hr, hw, hst, ha, hb, hm, hs]

/-- A wave that starts freezes the sources and destinations of its moves. -/
theorem exec_shiftWave_of_moves (hst : w.started = false) (ha : w.allow = []) (hb : w.begins = []) (hm : w.moves ≠ []) :
    ∃ t : State, exec (.shiftWave slot) s = .next t ∧ (t.part slot).wave = some { w with started := true } ∧
      scheduled t (s.clk + w.duration) (.waveComplete slot) ∧ t.insts = s.insts ∧ t.segs = s.segs ∧ t.mem = s.mem ∧
      ∀ q, (t.ctx c).seat q =
        if w.moves.any (fun m => m.1 = q || m.2 = q) then { (s.ctx c).seat q with frozen := true } else (s.ctx c).seat q := by
  have hex : exec (.shiftWave slot) s = .next (((s.modCtx c fun x => x.freeze true (w.moves.flatMap fun m => [m.1, m.2])).modPart slot fun q =>
      { q with wave := some { w with started := true } }).schedule (s.clk + w.duration) (.waveComplete slot)) := by
    rw [exec_shiftWave, execShiftWave, part_of_lookupA hp]
    obtain ⟨moves, serves, started, duration, begins, allow⟩ := w
    simp only at hst ha hb hm
    subst hst ha hb
    simp [hr, hw, hm]
  rw [hex]
  refine ⟨_, rfl, ?_, scheduled_schedule .., by simp, by simp, by simp, fun q => ?_⟩
  · have hwave := part_of_lookupA (lookupA_modPart_self (s := s.modCtx c fun x => x.freeze true (w.moves.flatMap fun m => [m.1, m.2])) hp fun q =>
      { q with wave := some { w with started := true } })
    have h := congrArg Part.wave hwave
    exact h
  · have hc : (((s.modCtx c fun x => x.freeze true (w.moves.flatMap fun m => [m.1, m.2])).modPart slot fun q =>
        { q with wave := some { w with started := true } }).schedule (s.clk + w.duration) (.waveComplete slot)).ctxs =
        (s.modCtx c fun x => x.freeze true (w.moves.flatMap fun m => [m.1, m.2])).ctxs := by simp
    rw [State.ctx, hc, ← State.ctx, ctx_modCtx_self, seat_freeze, contains_ends]

/-- An allowance reaches its instance with the end of the planning step. -/
theorem exec_shiftWave_of_allowance {id n : Nat} {f : RForm} {v : Inst} (hst : w.started = false) (ha : w.allow = [(id, n)]) (hb : w.begins = [])
    (hm : w.moves = []) (hs : w.serves = []) (hv : s.inst? id = some v) (hi : s.pendingInstr v = some (.unfold f)) :
    ∃ t : State, exec (.shiftWave slot) s = .next t ∧
      t.inst? id = some (released (.unfold f) v s.clk (v.regs.setX f.d (BitVec.ofNat 64 n))) := by
  have hex : exec (.shiftWave slot) s = .next (((s.complete id (.unfold f) fun r => r.setX f.d (BitVec.ofNat 64 n)).modPart slot fun q =>
      { q with wave := none }).nudge slot) := by
    rw [exec_shiftWave, execShiftWave, part_of_lookupA hp]
    simp [hr, hw, hst, ha, hb, hm, hs, hv, hi]
  obtain ⟨-, hins, -⟩ := ((RootOnly.refl (s.complete id (.unfold f) fun r => r.setX f.d (BitVec.ofNat 64 n))).modPart (p := slot)
    (f := fun q => { q with wave := none })).nudge (slot := slot) |>.frame
  refine ⟨_, hex, ?_⟩
  rw [State.inst?, hins, ← State.inst?, State.complete, State.modInst_of_some hv, State.setInst_inst?]
  simp [released]

end

/-! ## A wave is complete (03 R69 to R72) -/

/-- Where a wave leaves the open seat of a segment. -/
def openAfter (c : Nat) (moves : List (Nat × Nat)) (x : Segment) : Nat :=
  match moves.find? fun m => m.1 = x.openSeat with
  | some m => if x.ctx = c ∧ x.phase ≠ .tail then m.2 else x.openSeat
  | none => x.openSeat

theorem lookupA_map {α : Type} (f : Nat × α → Nat × α) (hf : ∀ e, (f e).1 = e.1) (m : Assoc α) (k : Nat) :
    lookupA (m.map f) k = (lookupA m k).map fun x => (f (k, x)).2 := by
  induction m with
  | nil => rfl
  | cons e m ih =>
    rw [List.map_cons, lookupA, lookupA, hf, ih]
    split
    next h => simp [← h]
    · rfl

/-- A wave that is complete has brought its symbols to their destinations and leaves nothing frozen. -/
theorem exec_waveComplete_of_started {slot c : Nat} {p : Part} {w : Wave} (hp : lookupA s.parts slot = some p) (hr : p.running = some c)
    (hw : p.wave = some w) (hst : w.started = true) (hb : w.begins = []) (hs : w.serves = []) (hd : (w.moves.map (·.2)).Nodup)
    (hg : ∀ g ∈ s.segs, g.2.ctx = c → g.2.phase ≠ .waitingWave) :
    ∃ t : State, exec (.waveComplete slot) s = .next t ∧ (t.part slot).wave = none ∧ t.insts = s.insts ∧ t.mem = s.mem ∧ t.scr = s.scr ∧
      (∀ q, (t.ctx c).seat q = seatAfter (s.ctx c) w.moves q) ∧
      ∀ g x, lookupA s.segs g = some x → (lookupA t.segs g).map (·.openSeat) = some (openAfter c w.moves x) := by
  rw [exec_waveComplete, execWaveComplete]
  rw [part_of_lookupA hp]
  simp -zeta only [hw, hr]
  rw [if_neg (by simp [hst])]
  extract_lets s₁ follow s₂ s₃ s₄ waiting
  have hkey (e : Nat × Segment) : (follow e).1 = e.1 := by
    simp only [follow]
    split
    · split
      · rfl
      · rfl
    · rfl
  have hfollow (e : Nat × Segment) : (follow e).2 = { e.2 with openSeat := openAfter c w.moves e.2 } := by
    cases hm : w.moves.find? fun m => m.1 = e.2.openSeat with
    | none => simp [follow, openAfter, hm]
    | some m =>
      simp only [follow, openAfter, hm, Bool.and_eq_true, decide_eq_true_eq]
      split
      · rfl
      · rfl
  have hc₂ : s₂.ctxs = s₁.ctxs := rfl
  have hx₁ : s₁.ctx c = ((s.ctx c).applyMoves w.moves).freeze false (w.moves.flatMap fun m => [m.1, m.2]) := ctx_modCtx_self ..
  have h₄ : RootOnly s₂ s₄ := by
    simp only [s₄, hb, beginMoves_nil]
    exact (RootOnly.refl s₂).modPart
  obtain ⟨hc₄, hi₄, hg₄, hm₄, -⟩ := h₄.frame
  have hwait : waiting = [] := by
    have hnone : (s₄.segs.filter fun g => g.2.ctx = c && (g.2.phase = .waitingWave || w.serves.contains g.1)) = [] := by
      refine List.filter_eq_nil_iff.mpr fun e he hec => ?_
      rw [hg₄] at he
      obtain ⟨e₀, he₀, rfl⟩ := List.mem_map.mp he
      have hph : e₀.2.ctx = c ∧ e₀.2.phase = .waitingWave := by simpa [hfollow, hs] using hec
      exact hg e₀ (by simpa [s₁] using he₀) hph.1 hph.2
    rw [show waiting = List.mergeSort _ _ from rfl, hnone, List.mergeSort_nil]
  rw [hwait, List.foldl_nil]
  have ht : RootOnly s₂ ((s₄.wakeSweep slot).nudge slot) := h₄.wakeSweep.nudge
  obtain ⟨hct, hit, hgt, hmt, -⟩ := ht.frame
  refine ⟨_, rfl, ?_, hit.trans (by simp [s₂, s₁]), hmt.trans (by simp [s₂, s₁]), ht.scr.trans (by simp [s₂, s₁]), fun q => ?_, fun g x hx => ?_⟩
  · have hp₂ : lookupA s₂.parts slot = some p := by simpa [s₂, s₁] using hp
    have hp₃ := lookupA_modPart_self hp₂ fun q => { q with wave := none }
    refine wakeSweep_nudge_wave (p := { p with wave := none }) ?_
    simp only [s₄, hb, beginMoves_nil]
    exact hp₃
  · rw [State.ctx, hct, hc₂, ← State.ctx, hx₁]
    exact seat_applyMoves_freeze hd _ q
  · rw [hgt, show s₂.segs = s₁.segs.map follow from rfl, lookupA_map _ hkey, show s₁.segs = s.segs by simp [s₁], hx]
    simp [hfollow]

end Sys2Proof.Machine
end

section
/-!
An expression comes to its seats (O44). One proof is elaborated at a time: the threads of hundreds of
proofs at once pass the memory that a check of the whole text may take.
-/

set_option Elab.async false

namespace Sys2Proof.Machine

open Sys2Proof.Claims

variable {s t u : State}

/-! ## An expression comes to its seats (02 R36; 03 R65) -/

/-- The seat that a word of an expression leaves: the symbol in it, or free where the word is the empty one. -/
def placedSeat (w : Word) (q : SeatState) : SeatState := if kind w = 0 then SeatState.free else { q with sym := w }

/-- The words of an expression, put into seats one after another. -/
def placeWords (x : Ctx) (ps : List (Nat × Word)) : Ctx := ps.foldl (fun x p => x.setSeat p.1 (placedSeat p.2 (x.seat p.1))) x

theorem seat_placeWords_of_notMem {ps : List (Nat × Word)} {q : Nat} (h : q ∉ ps.map (·.1)) (x : Ctx) : (placeWords x ps).seat q = x.seat q := by
  induction ps generalizing x with
  | nil => rfl
  | cons p ps ih =>
    rw [List.map_cons, List.mem_cons, not_or] at h
    exact (ih h.2 _).trans (by rw [seat_setSeat, if_neg h.1])

theorem seat_placeWords_of_mem {ps : List (Nat × Word)} (hd : (ps.map (·.1)).Nodup) {q : Nat} {w : Word} (h : (q, w) ∈ ps) (x : Ctx) :
    (placeWords x ps).seat q = placedSeat w (x.seat q) := by
  induction ps generalizing x with
  | nil => exact absurd h (by simp)
  | cons p ps ih =>
    obtain ⟨hp, hd⟩ := List.nodup_cons.mp hd
    rcases List.mem_cons.mp h with rfl | h
    · exact (seat_placeWords_of_notMem hp _).trans (by rw [seat_setSeat, if_pos rfl])
    · have hne : q ≠ p.1 := fun he => hp (List.mem_map.mpr ⟨(q, w), h, he⟩)
      exact (ih hd h _).trans (by rw [seat_setSeat, if_neg hne])

/-- A well-formed symbol is what its seat then holds. -/
theorem placedSeat_sym {n : Nat} {w : Word} (h : symbolOk n w = true) (q : SeatState) : (placedSeat w q).sym = w := by
  unfold placedSeat
  split
  next hk =>
    have hw : w.toNat = 0 ∧ flagsOk w = true := by simpa [symbolOk, payloadOk, symKind_eq_kind, hk] using h
    exact BitVec.eq_of_toNat_eq hw.1.symm
  · rfl

theorem nodup_keys {α : Type} {m : Assoc α} (h : sortedA m = true) : (m.map (·.1)).Nodup := by
  induction m with
  | nil => simp
  | cons e m ih =>
    refine List.nodup_cons.mpr ⟨fun he => ?_, ih (sortedA_tail h)⟩
    obtain ⟨x, hx, hk⟩ := List.mem_map.mp he
    exact absurd hk (sortedA_above h x hx).ne'

/-! ## A launch is looked at for its end (23 R375) -/

/-- A look whether a launch has finished changes of the state its phase, its end and what ends with the clk alone. -/
theorem checkFinished_frame (s : State) (c l : Nat) : ReportOnly s (s.checkFinished c l) ∧ (s.checkFinished c l).mem = s.mem ∧
    (s.checkFinished c l).parts = s.parts ∧
    ∀ v, lookupA s.launches l = some v → v.phase = .running → (lookupA (s.checkFinished c l).launches l).map (·.phase) = some .running ∨
      (lookupA (s.checkFinished c l).launches l).map (·.phase) = some .finishing := by
  unfold State.checkFinished
  split
  next hn => exact ⟨.refl s, rfl, rfl, fun v hv => absurd hv (by simp [hn])⟩
  next x hx =>
    dsimp only
    split
    · refine ⟨(ReportOnly.refl s).modLaunch.trans ⟨_, _, _, _, _, _, rfl⟩, by simp, by simp, fun v hv _ => .inr ?_⟩
      rw [lookupA_modLaunch, hv]
      simp
    · exact ⟨.refl s, rfl, rfl, fun v hv hp => .inl (by rw [hv, Option.map_some, hp])⟩

/-- An expression whose words are one well-formed term is in its seats, and its launch runs or has finished. -/
theorem placed_spec {l n : Nat} {v : Launch} {ws : List Word} {seats : List Nat} (hv : lookupA s.launches l = some v) (hd : seats.Nodup)
    (hl : seats.length = ws.length) (hok : ws.all (symbolOk n) = true) :
    let t := ((((s.modCtx v.ctx fun x => placeWords x (seats.zip ws)).modLaunch l fun v => { v with phase := .running }).checkFinished
      v.ctx l).wakeSweep v.slot).nudge v.slot
    t.mem = s.mem ∧ t.insts = s.insts ∧ (∀ k, k < ws.length → ((t.ctx v.ctx).seat (seats.getD k 0)).sym = ws.getD k 0#64) ∧
      (∀ q, seats.contains q = false → (t.ctx v.ctx).seat q = (s.ctx v.ctx).seat q) ∧
      ((lookupA t.launches l).map (·.phase) = some .running ∨ (lookupA t.launches l).map (·.phase) = some .finishing) := by
  intro t
  obtain ⟨hfin, hm, -, hphase⟩ := checkFinished_frame ((s.modCtx v.ctx fun x => placeWords x (seats.zip ws)).modLaunch l fun v =>
    { v with phase := .running }) v.ctx l
  obtain ⟨hi, -, hc, -⟩ := hfin.frame
  have ht : RootOnly _ t := (RootOnly.refl _).wakeSweep.nudge
  obtain ⟨hct, hit, -, hmt, hlt⟩ := ht.frame
  have hctx : t.ctx v.ctx = placeWords (s.ctx v.ctx) (seats.zip ws) := by
    rw [State.ctx, hct, hc, State.modLaunch_ctxs, ← State.ctx, ctx_modCtx_self]
  have hkeys : (seats.zip ws).map (·.1) = seats := List.map_fst_zip hl.le
  refine ⟨hmt.trans (hm.trans (by simp)), hit.trans (hi.trans (by simp)), fun k hk => ?_, fun q hq => ?_, ?_⟩
  · have hks : k < seats.length := hl ▸ hk
    have hmem : (seats.getD k 0, ws.getD k 0#64) ∈ seats.zip ws := by
      rw [List.getD_eq_getElem _ _ hks, List.getD_eq_getElem _ _ hk]
      exact List.mem_iff_getElem.mpr ⟨k, by simp [hks, hk], by simp⟩
    rw [hctx, seat_placeWords_of_mem (hkeys.symm ▸ hd) hmem]
    refine placedSeat_sym (List.all_eq_true.mp hok _ ?_) _
    rw [List.getD_eq_getElem _ _ hk]
    exact List.getElem_mem hk
  · rw [hctx, seat_placeWords_of_notMem]
    rw [hkeys]
    simpa using hq
  · rw [hlt]
    refine hphase { v with phase := .running } ?_ rfl
    rw [lookupA_modLaunch]
    simp [hv]

/-- An expression that ends with a report has the status, and the contexts stay. -/
theorem endReported_spec {c l status seat : Nat} {k : Card} (h : mayEnd s l) :
    (lookupA ((s.report c k).endExpression l status seat).launches l).bind (·.status) = some status ∧
      ((s.report c k).endExpression l status seat).ctxs = s.ctxs := by
  obtain ⟨-, x, hx, hst, -⟩ := endExpression_status (status := status) (seat := seat) (mayEnd_report (c := c) (k := k) h)
  obtain ⟨-, -, hc, -⟩ := ((ReportOnly.refl s).report (c := c) (k := k)).endExpression (l := l) (status := status) (seat := seat) |>.frame
  exact ⟨by rw [hx, Option.bind_some, hst], hc⟩

/-- An expression is in its seats when it is placed, or ends with malformed-expression. -/
theorem exec_expressionPlaced_of_read {l : Nat} {v : Launch} (hv : lookupA s.launches l = some v) (hp : v.phase = .placed) (hn : v.status = none) :
    let a := (v.record.getD 1 0#64).toNat % 2 ^ 48
    let n := (v.record.getD 2 0#64).toNat % 2 ^ 13
    let ws := (List.range n).map fun k => BitVec.ofNat 64 (readNat s.mem (a + 8 * k) 8)
    let seats := ((s.ctx v.ctx).row.filter fun p => p.2.launch = l).map (·.1)
    farExists a (8 * n) = true → (0 < n → s.farPoisoned a (8 * n) = false) → sortedA (s.ctx v.ctx).row = true → seats.length = n →
    if termsOk 0 [] false ws = true ∧ ws.all (symbolOk (s.part v.slot).cellcount) = true ∧
        (splitTerms [] 0 (ws.filter fun w => kind w ≠ 0)).length = 1 then
      ∃ t : State, exec (.expressionPlaced l) s = .next t ∧ t.mem = s.mem ∧ t.insts = s.insts ∧
        (∀ k, k < n → ((t.ctx v.ctx).seat (seats.getD k 0)).sym = ws.getD k 0#64) ∧
        (∀ q, seats.contains q = false → (t.ctx v.ctx).seat q = (s.ctx v.ctx).seat q) ∧
        ((lookupA t.launches l).map (·.phase) = some .running ∨ (lookupA t.launches l).map (·.phase) = some .finishing)
    else ∃ t : State, exec (.expressionPlaced l) s = .next t ∧ (lookupA t.launches l).bind (·.status) = some 0x02 ∧ t.ctxs = s.ctxs := by
  intro a n ws seats hex hpois hrow hlen
  have hws : readWords s.mem a n = ws := readWords_eq_map ..
  have hwl : ws.length = n := by simp [ws]
  have ha : recWord v.record 1 % 2 ^ 48 = a := rfl
  have hbn : bits (recWord v.record 2) 12 0 = n := bits_low ..
  have hphase : (decide (v.phase ≠ .placed) || v.status.isSome) = false := by simp [hp, hn]
  have hexists : (!farExists a (8 * n)) = false := by simp [hex]
  have hclean : (decide (0 < n) && s.farPoisoned a (8 * n)) = false := by
    by_cases h0 : 0 < n
    · simp [hpois h0]
    · simp [h0]
  rw [exec_expressionPlaced, execExpressionPlaced]
  simp only [hv, hphase, ha, hbn, hws, hexists, hclean, symKind_eq_kind, Bool.false_eq_true, if_false]
  split
  next hok =>
    obtain ⟨ht, hs, hone⟩ := hok
    rw [if_neg (by rw [ht, hs, hone]; decide)]
    have hd : seats.Nodup := nodup_keys (sortedA_filter hrow _)
    have hspec := placed_spec hv hd (hlen.trans hwl.symm) hs
    rw [hwl] at hspec
    exact ⟨_, rfl, hspec⟩
  next hok =>
    have hbad : (!termsOk 0 [] false ws || !ws.all (symbolOk (s.part v.slot).cellcount) ||
        decide ((splitTerms [] 0 (ws.filter fun w => kind w ≠ 0)).length ≠ 1)) = true := by
      by_contra hno
      simp only [Bool.or_eq_true, Bool.not_eq_true', decide_eq_true_eq, not_or, Bool.not_eq_false, ne_eq, not_not] at hno
      exact hok ⟨hno.1.1, hno.1.2, hno.2⟩
    rw [if_pos hbad]
    obtain ⟨hmal, hctxs⟩ := endReported_spec (s := s) (l := l) (c := v.ctx) (status := stMalformedExpr) (seat := 0)
      (k := { Card.ofStatus stMalformedExpr 1 with addr := 0, launch := l }) ⟨v, hv, by simp [hp], hn⟩
    exact ⟨_, rfl, hmal, hctxs⟩

/-- Settles O44, by what each of the four events leaves. -/
theorem shiftWaves : Obligations.ShiftWaves := by
  refine ⟨fun slot c s p w hp hr hw hst ha hb => ?_,
    fun _ _ _ _ _ _ _ _ _ hp hr hw hst ha hb hm hs hv hi => exec_shiftWave_of_allowance hp hr hw hst ha hb hm hs hv hi,
    fun _ _ _ _ _ hp hr hw hst hb hs _ hd hg => exec_waveComplete_of_started hp hr hw hst hb hs hd hg,
    fun _ _ _ hv hp hn => exec_expressionPlaced_of_read hv hp hn⟩
  split
  next hm => exact fun hs => exec_shiftWave_of_quiet hp hr hw hst ha hb hm hs
  next hm => exact exec_shiftWave_of_moves hp hr hw hst ha hb hm

end Sys2Proof.Machine
end

section
/-!
Every lesson instruction is issued. One proof is elaborated at a time: the threads of hundreds of
proofs at once pass the memory that a check of the whole text may take.
-/

set_option Elab.async false

namespace Sys2Proof.Machine

open Sys2Proof.Claims

variable {s t u : State} {id : Nat} {v : Inst}

/-! ## Every lesson instruction is issued (02 R57; 06 R124) -/

/-- A lesson instruction is executed by issuing it. -/
theorem exec_eq_issue {i : Instr} (h : i.parts.isSome = true) : ∃ eff, ∀ s, exec i s = issue i eff s := by
  cases i with
  | add | sub | mul | mulh | div | rem | and | or | xor | shl | shr | cmpset | sel | min | max | adda | addi | muli | li | lih | andi |
  ori | xori | shli | shri | cmpseti | rdsr | mini | maxi | addai | b | j | loop | lexit | wfill | wfree | rdlc | done | kand | kor |
  kxor | knot | kmov | kread | kpop | kfirst | vadd | vsub | vmul | vfma | vfms | vfnma | vmin | vmax | vabs | vneg | vand | vor | vxor |
  vshl | vshr | vclamp | vcmp | vsel | vshuf | vperm | vbcast | vbcasti | vlane | vins | vred | vmov | vsetvalid | vgetvalid | vcvt |
  vexp2 | vlog2 | vrcp | vrsqrt | vsigm | vtanh | vsoftp | vpack | vunpack | wld | wcmp | thdr | mma | gangon | gangoff | accrd | accwr |
  acczero | acccvt | quant | quantb | tew | settle | talloc | tfree | sred | sscan | scav | sbcast | srank | fwd | rcv | need | emit |
  commit | symrd | symbld | symget | unfold | park | fetch | vld | vst | sld | sst | vgath | vscat | rpush | rpop | ratom | tld | rinit |
  copy | copyred | pref | tsend | ctrset | ctradd | ctrrd | ctrwait | smark | fence | fld | fst | aadd | amin | amax | axchg | acas |
  aand | aor | pacq | prel | bell | scld | scst | scrmw | pqry | logmark | gacc | opsave | oprecomp | logrd | recq | trap | syscall |
  cfgrd | cfgwr | brk | nop | pcrd | qpush | qpop | sleep | evsig | rdclk => exact ⟨_, fun _ => rfl⟩
  | mmaAccumulatorReady | sweepResult | neighbourArrival | needSweepComplete | unfoldRequestArrival | farReadReply | syncOpPerformed |
  syncReply | bellComplete | passHandoff | batonHop | queueOpArrival | debugResume | discoverySweep | shiftWave | waveComplete |
  expressionPlaced | parkWriteComplete | unparkComplete | tidyCopyComplete | lessonImageReceived | loadReportsCollected | switchBeat |
  segmentCommit | commitComplete | completionRecordWrite | copyStart | ringFillEntry | farWritePerformed | copyComplete |
  counterIncrement | counterUpdateApplied | peerWriteArrival | agentAppend | preemptDecision | turnExpiry | preemptionTimeout |
  waitTimeout | rollCallWave | contextSwitchComplete | limiterStep | capControl | queuePush | virtualQueuePush | spillBaseWrite |
  spillSizeWrite | recordAtHead | dependenceEntry | leaseSetupComplete | pageRewalk | leaseTimeout | contextBlockAddressWrite | create |
  destroy | resetCounters | cancelSends | suspend | resume | powerOnBoot | verifyImage | writeFlash | presentDebugToken | rollbackRaise |
  getVersion | getCapabilities | negotiateAlgorithms | getDigests | getCertificate | challenge | getMeasurements | keyExchange |
  identityKeyCreate | deployFuseWrite | returnToken | powerActive | powerRetention | powerOff | idleGateEntry | powerCapWrite |
  partitionLayoutWrite | partitionResetWrite | formatChoiceWrite | linkTraining | forwardedRecord | telemetryRefresh |
  collectiveStepComplete | collectiveHandshake | parkedReply | switchSlotLoss | memberLostTimeout | linkDown | uncorrectableError |
  cxlMemAccess | registerWrite | illegalInstruction | queueReply | copySourceRead | correctableError | haltedInstanceRegisterWrite => cases h

theorem parts_of_legal {i : Instr} (h : legal i = true) : i.parts.isSome = true := by
  unfold legal encode at h
  cases hp : i.parts with
  | none => simp [hp] at h
  | some p => rfl

/-- What the model lets a tail issue is what 02 R57 names. -/
theorem tailAllows_eq_tailMay (p : Nat) (record : Bool) : tailAllows p record = tailMay p record := by
  rw [Bool.eq_iff_iff]
  cases record
  · simp [tailAllows, tailMay]
    omega
  · simp [tailAllows, tailMay]
    omega

/-- Reading a freed register raises the freed-register trap. -/
theorem exec_of_freed {i : Instr} (hl : legal i = true) (ha : s.actor = some id) (hv : s.inst? id = some v) (hc : v.committed = false)
    (hf : (usesOf i).reads.any v.regs.isFreed = true) : exec i s = .next (trapped s id 0x11 0) := by
  obtain ⟨eff, h⟩ := exec_eq_issue (parts_of_legal hl)
  rw [h, issue]
  simp only [ha, hv, hc, Bool.false_and, Bool.false_eq_true, if_false, hf, if_true]
  rfl

/-- A form that a tail may not issue raises the post-commit trap. -/
theorem exec_of_postCommit {i : Instr} {p : Nat} {f : Form} (hp : i.parts = some (p, f)) (ha : s.actor = some id) (hv : s.inst? id = some v)
    (hc : v.committed = true) (ht : tailMay p (s.recordMode v) = false) : exec i s = .next (trapped s id 0x1A 0) := by
  obtain ⟨eff, h⟩ := exec_eq_issue (i := i) (by rw [hp]; rfl)
  have hprim : primaryOf i = p := by rw [primaryOf, hp]
  rw [h, issue]
  simp only [ha, hv, hc, hprim, tailAllows_eq_tailMay, ht, Bool.not_false, Bool.and_self, if_true]
  rfl

end Sys2Proof.Machine
end

section
/-!
Taking a trap. One proof is elaborated at a time: the threads of hundreds of
proofs at once pass the memory that a check of the whole text may take.
-/

set_option Elab.async false

namespace Sys2Proof.Machine

open Sys2Proof.Claims

variable {s t u : State} {id : Nat} {v : Inst}

/-! ## Taking a trap (06 R134; 24 R392, R394) -/

/-- What a report-card entry changes: memory, the count of lost entries, and a launch's first entry. -/
theorem report_eq (s : State) (c : Nat) (k : Card) : ∃ m d ls, s.report c k = { s with mem := m, dev := d, launches := ls } := by
  unfold State.report
  extract_lets x base size head tail number l lost ws m₁ m₂ m₃
  split
  · exact ⟨_, _, _, rfl⟩
  · split
    · exact ⟨_, _, _, rfl⟩
    · unfold State.modLaunch
      split
      · exact ⟨_, _, _, rfl⟩
      · exact ⟨_, _, _, rfl⟩

/-- What a status changes: the launch, and what ends with the clk. -/
theorem endExpression_eq (s : State) (l status seat : Nat) :
    ∃ ls es, s.endExpression l status seat = { s with launches := ls, ending := es } := by
  unfold State.endExpression
  split
  · exact ⟨_, _, rfl⟩
  · split
    · exact ⟨_, _, rfl⟩
    · dsimp only
      unfold State.modLaunch
      split
      · exact ⟨_, _, rfl⟩
      · exact ⟨_, _, rfl⟩

/-- The card of a trap of an instance (06 R134; 24 R394). -/
def cardOfTrap (s : State) (v : Inst) (status cause : Nat) : Card :=
  { status, cause, kind := 1, opnum := v.place.opnum, openSeat := ((segment? s v).map (·.openSeat)).getD 0
    word := ((((if v.buf = 0 then (cellOf s v).buf0 else (cellOf s v).buf1).map (·.words)).getD []).getD v.pc 0)
    seat := v.place.seat, index := v.pc, addr := 0, launch := v.place.launch, bytes := 0 }

theorem trapReport_eq (hv : s.inst? id = some v) (status cause : Nat) :
    s.trapReport id (trapOf status cause) = s.report v.place.ctx (cardOfTrap s v status cause) := by
  unfold State.trapReport
  simp only [hv]
  rfl

theorem words_cardOfTrap (s : State) (v : Inst) (status cause number : Nat) :
    (cardOfTrap s v status cause).words v.place.ctx (((launch? s v).map (·.queue)).getD 0) (((launch? s v).map (·.pos)).getD 0)
      (s.rdclk (contextOf s v).slot) number = trapCard s v status cause number := by
  simp [Card.words, trapCard, cardOfTrap]

/-- A trap's report-card entry. -/
theorem report_cardOfTrap_mem (s : State) (v : Inst) (status cause : Nat) :
    (s.report v.place.ctx (cardOfTrap s v status cause)).mem = carded s v status cause := by
  have hbase : ((contextOf s v).block.getD 5 0#64).toNat = (s.ctx v.place.ctx).blockWord 5 := rfl
  unfold State.report carded
  dsimp only
  rw [hbase]
  split
  · rfl
  · split
    · rfl
    · rw [State.modLaunch_mem, ← words_cardOfTrap]
      rfl

/-- The state once a trap is on the report card and its instance has stopped. -/
def stopped (s : State) (id : Nat) (v : Inst) (m : Memory) (d : Device) (ls : Assoc Launch) : State :=
  { s with
    mem := m
    dev := d
    launches := ls
    trapped := s.trapped ++ [id]
    insts := putA s.insts id { v with status := .trapped, wake := none } }

/-- What taking a trap does. -/
theorem trapped_spec {status cause : Nat} (hv : s.inst? id = some v) (hn : v.status ≠ .trapped) :
    let t := trapped s id status cause
    t.inst? id = some { v with status := .trapped, wake := none } ∧ (∀ j, j ≠ id → t.inst? j = s.inst? j) ∧
      t.trapped = s.trapped ++ [id] ∧ t.mem = carded s v status cause ∧ t.scr = s.scr ∧ t.segs = s.segs ∧ t.ctxs = s.ctxs ∧
      t.farWrites = s.farWrites ∧ t.agenda = s.agenda ∧
      (mayEnd s v.place.launch → v.place.launch ∈ t.ending ∧ (lookupA t.launches v.place.launch).bind (·.status) = some status) := by
  obtain ⟨m, d, ls, hr⟩ := report_eq s v.place.ctx (cardOfTrap s v status cause)
  have hm : m = carded s v status cause := by rw [← report_cardOfTrap_mem, hr]
  have htrap : trapped s id status cause = (stopped s id v m d ls).endExpression v.place.launch status
      (((segment? s v).map (·.openSeat)).getD 0) := by
    unfold trapped State.takeTrap
    simp only [hv, hn, if_false, trapReport_eq hv, hr]
    rw [State.modInst_of_some (v := v) (by exact hv)]
    rfl
  intro t
  have ht : t = _ := htrap
  clear_value t
  subst ht
  have hkept : ∀ t, t = (stopped s id v m d ls).endExpression v.place.launch status (((segment? s v).map (·.openSeat)).getD 0) →
      t.inst? id = some { v with status := .trapped, wake := none } ∧ (∀ j, j ≠ id → t.inst? j = s.inst? j) ∧
        t.trapped = s.trapped ++ [id] ∧ t.mem = carded s v status cause ∧ t.scr = s.scr ∧ t.segs = s.segs ∧ t.ctxs = s.ctxs ∧
        t.farWrites = s.farWrites ∧ t.agenda = s.agenda := by
    rintro _ rfl
    obtain ⟨ls', es, he⟩ := endExpression_eq (stopped s id v m d ls) v.place.launch status (((segment? s v).map (·.openSeat)).getD 0)
    rw [he]
    exact ⟨lookupA_putA_self .., fun j hj => lookupA_putA_of_ne _ _ _ _ hj, rfl, hm, rfl, rfl, rfl, rfl, rfl⟩
  obtain ⟨h₁, h₂, h₃, h₄, h₅, h₆, h₇, h₈, h₉⟩ := hkept _ rfl
  refine ⟨h₁, h₂, h₃, h₄, h₅, h₆, h₇, h₈, h₉, fun hmay => ?_⟩
  have hmay' : mayEnd (stopped s id v m d ls) v.place.launch := by
    have h := mayEnd_report (c := v.place.ctx) (k := cardOfTrap s v status cause) hmay
    rw [hr] at h
    exact h
  obtain ⟨hin, x, hx, hst, -⟩ := endExpression_status (status := status) (seat := ((segment? s v).map (·.openSeat)).getD 0) hmay'
  exact ⟨hin, by rw [hx, Option.bind_some, hst]⟩

end Sys2Proof.Machine
end

section
/-!
What discarding segments leaves. One proof is elaborated at a time: the threads of hundreds of
proofs at once pass the memory that a check of the whole text may take.
-/

set_option Elab.async false

namespace Sys2Proof.Machine

open Sys2Proof.Claims

variable {s t u : State} {id : Nat} {v : Inst}

/-! ## Steps of the planning that leave each context its slot and side -/

/-- `t` is `s` but for its agenda, its partitions and its contexts, which keep their slots and sides. -/
def SidesKept (s t : State) : Prop := PlanOnly s t ∧ ∀ c, (t.ctx c).slot = (s.ctx c).slot ∧ (t.ctx c).side = (s.ctx c).side

theorem SidesKept.refl (s : State) : SidesKept s s := ⟨.refl s, fun _ => ⟨rfl, rfl⟩⟩

theorem SidesKept.trans (h₁ : SidesKept s t) (h₂ : SidesKept t u) : SidesKept s u :=
  ⟨h₁.1.trans h₂.1, fun c => ⟨(h₂.2 c).1.trans (h₁.2 c).1, (h₂.2 c).2.trans (h₁.2 c).2⟩⟩

theorem SidesKept.scrAddr (h : SidesKept s t) (c cell a : Nat) : t.scrAddr c cell a = s.scrAddr c cell a := by
  obtain ⟨⟨_, _, _, rfl⟩, hc⟩ := h
  unfold State.scrAddr
  rw [(hc c).1, (hc c).2]
  rfl

theorem RootOnly.sidesKept (h : RootOnly s t) : SidesKept s t := by
  obtain ⟨_, _, rfl⟩ := h
  exact ⟨⟨_, _, _, rfl⟩, fun _ => ⟨rfl, rfl⟩⟩

theorem SidesKept.foldl {α : Type} (h : SidesKept s t) {l : List α} {f : State → α → State} (hf : ∀ u a, SidesKept u (f u a)) :
    SidesKept s (l.foldl f t) := by
  induction l generalizing t with
  | nil => exact h
  | cons a l ih => exact ih (h.trans (hf _ _))

theorem SidesKept.schedule (h : SidesKept s t) {a : Nat} {e : Instr} : SidesKept s (t.schedule a e) := h.trans (RootOnly.refl t).schedule.sidesKept

theorem SidesKept.modPart (h : SidesKept s t) {p : Nat} {f : Part → Part} : SidesKept s (t.modPart p f) :=
  h.trans (RootOnly.refl t).modPart.sidesKept

theorem SidesKept.nudge (h : SidesKept s t) {slot : Nat} : SidesKept s (t.nudge slot) := h.trans (RootOnly.refl t).nudge.sidesKept

theorem SidesKept.modCtx (h : SidesKept s t) {c : Nat} {f : Ctx → Ctx} (hf : ∀ x, (f x).slot = x.slot ∧ (f x).side = x.side) :
    SidesKept s (t.modCtx c f) := by
  refine h.trans ⟨(PlanOnly.refl t).modCtx, fun k => ?_⟩
  rw [ctx_modCtx]
  split
  next hk =>
    subst hk
    exact hf _
  · exact ⟨rfl, rfl⟩

theorem SidesKept.modCell (h : SidesKept s t) {c k : Nat} {f : CellCtx → CellCtx} : SidesKept s (t.modCell c k f) :=
  h.modCtx fun _ => ⟨rfl, rfl⟩

theorem SidesKept.wakeLoads (h : SidesKept s t) {c k : Nat} : SidesKept s (t.wakeLoads c k) := h.foldl fun u _ => (SidesKept.refl u).schedule

theorem SidesKept.admitSweeps (h : SidesKept s t) {slot : Nat} : SidesKept s (t.admitSweeps slot) := by
  unfold State.admitSweeps
  extract_lets p old again cands used r waited s₁ s₂ s₃
  have h₁ : SidesKept s s₁ := h.foldl fun u _ => (RootOnly.sidesKept ⟨_, _, rfl⟩ : SidesKept u _)
  have h₃ : SidesKept s s₃ := (h₁.modPart : SidesKept s s₂).foldl fun u _ => (SidesKept.refl u).foldl fun u _ => (SidesKept.refl u).modCell
  exact h₃.foldl fun u _ => by
    split
    · exact (SidesKept.refl u).schedule
    · exact .refl u

theorem SidesKept.handReleases (h : SidesKept s t) {c : Nat} {ps : List Nat} : SidesKept s (t.handReleases c ps) :=
  h.foldl fun u _ => (SidesKept.refl u).modPart.schedule

/-! ## Scratch that a discard leaves (02 R51) -/

/-- A byte that an instance has not written keeps its value when its writes are discarded. -/
theorem readByte_blurWrites {a : Nat} (h : wroteByte s v a = false) : readByte (s.blurWrites v).scr a = readByte s.scr a := by
  unfold State.blurWrites
  split
  · rfl
  · dsimp only
    refine List.foldlRecOn (motive := fun m => readByte m a = readByte s.scr a) _ _ rfl fun m hm r hr => ?_
    rw [readByte_writeBytes, if_neg, hm]
    have hout := List.any_eq_false.mp h r hr
    simpa using hout

/-- The discarded writes of instances change scratch and the count of free values alone, and no byte that none of them has written. -/
theorem foldl_blurWrites (l : List (Nat × Inst)) (s : State) :
    ∃ n m, l.foldl (fun s i => s.blurWrites i.2) s = { s with fresh := n, scr := m } ∧
      ∀ a, (∀ i ∈ l, wroteByte s i.2 a = false) → readByte m a = readByte s.scr a := by
  induction l generalizing s with
  | nil => exact ⟨_, _, rfl, fun _ _ => rfl⟩
  | cons i l ih =>
    obtain ⟨hb, -⟩ := blurWrites_frame s i.2
    obtain ⟨n, m, he, hm⟩ := ih (s.blurWrites i.2)
    refine ⟨n, m, ?_, fun a ha => ?_⟩
    · rw [List.foldl_cons, he, hb]
    · have hi := ha i (List.mem_cons_self ..)
      rw [← readByte_blurWrites hi]
      refine hm a fun j hj => ?_
      rw [hb]
      exact ha j (List.mem_cons_of_mem _ hj)

/-! ## Discarding segments (02 R51, R59; 24 R392) -/

/-- `t` is what is left of `s` once the segments `gs` are discarded. -/
structure Dropped (s : State) (gs : List Nat) (t : State) : Prop where
  segs : ∀ g, lookupA t.segs g = if g ∈ gs then none else lookupA s.segs g
  insts : t.insts = s.insts.filter fun i => !(decide (i.2.place.seg ∈ gs) && (lookupA s.segs i.2.place.seg).isSome)
  trapped : t.trapped = s.trapped
  ending : t.ending = s.ending
  mem : t.mem = s.mem
  far : t.farWrites = s.farWrites
  addr : ∀ c cell a, t.scrAddr c cell a = s.scrAddr c cell a
  scr : ∀ a, (∀ i ∈ s.insts, i.2.place.seg ∈ gs → wroteByte s i.2 a = false) → readByte t.scr a = readByte s.scr a

theorem PlanOnly.frame (h : PlanOnly s t) : t.insts = s.insts ∧ t.segs = s.segs ∧ t.trapped = s.trapped ∧ t.ending = s.ending ∧ t.mem = s.mem ∧
    t.farWrites = s.farWrites ∧ t.scr = s.scr := by
  obtain ⟨_, _, _, rfl⟩ := h
  exact ⟨rfl, rfl, rfl, rfl, rfl, rfl, rfl⟩

theorem Dropped.refl (s : State) : Dropped s [] s :=
  ⟨fun _ => by simp, by simp, rfl, rfl, rfl, rfl, fun _ _ _ => rfl, fun _ _ => rfl⟩

/-- What a step of the planning leaves before and after a discard. -/
theorem Dropped.sidesKept {gs : List Nat} (h : Dropped s gs t) (hu : SidesKept t u) : Dropped s gs u := by
  obtain ⟨hi, hg, ht, he, hm, hf, hs⟩ := hu.1.frame
  exact ⟨fun g => hg ▸ h.segs g, hi.trans h.insts, ht.trans h.trapped, he.trans h.ending, hm.trans h.mem, hf.trans h.far,
    fun c k a => (hu.scrAddr c k a).trans (h.addr c k a), fun a ha => hs ▸ h.scr a ha⟩

/-- The numbers of a segment's instances name no other instance. -/
theorem contains_segInsts (hs : sortedA s.insts = true) {g : Nat} {i : Nat × Inst} (hi : i ∈ s.insts) :
    ((s.segInsts g).map (·.1)).contains i.1 = decide (i.2.place.seg = g) := by
  rw [Bool.eq_iff_iff, List.contains_iff_mem, decide_eq_true_eq]
  constructor
  · intro h
    obtain ⟨j, hj, hk⟩ := List.mem_map.mp h
    obtain ⟨hj, hg⟩ := List.mem_filter.mp hj
    have hji := lookupA_of_mem hs (hk ▸ hj : (i.1, j.2) ∈ s.insts)
    rw [lookupA_of_mem hs hi] at hji
    rw [Option.some.inj hji]
    exact of_decide_eq_true hg
  · exact fun h => List.mem_map.mpr ⟨i, List.mem_filter.mpr ⟨hi, decide_eq_true h⟩, rfl⟩

/-- A discard drops its segment, with its instances and what they have staged. -/
theorem discard_dropped (hs : sortedA s.insts = true) (g : Nat) : Dropped s [g] (s.discard g) := by
  unfold State.discard
  split
  next hn =>
    refine ⟨fun h => ?_, ?_, rfl, rfl, rfl, rfl, fun _ _ _ => rfl, fun _ _ => rfl⟩
    · split
      next hg => rw [List.mem_singleton.mp hg, hn]
      · rfl
    · refine (List.filter_eq_self.mpr fun i _ => ?_).symm
      by_cases hi : i.2.place.seg = g
      · simp [hi, hn]
      · simp [hi]
  next x hx =>
    extract_lets mine ids ops waits parked s₁ sends s₂ s₃ s₄ s₅ s₆
    obtain ⟨n, m, he, hm⟩ := foldl_blurWrites mine s
    have hs₁ : s₁ = { s with fresh := n, scr := m } := he
    have h₂ : SidesKept s₁ s₂ := (SidesKept.refl s₁).modCtx fun _ => ⟨rfl, rfl⟩
    have h₄ : SidesKept s₁ s₄ := (h₂.modPart : SidesKept s₁ s₃).foldl fun u _ => (SidesKept.refl u).modCell
    have h₅ : Dropped s [g] s₅ := by
      obtain ⟨hi₄, hg₄, ht₄, he₄, hm₄, hf₄, hc₄⟩ := h₄.1.frame
      rw [hs₁] at hi₄ hg₄ ht₄ he₄ hm₄ hf₄ hc₄
      refine ⟨fun h => ?_, ?_, ht₄, he₄, hm₄, hf₄, fun c k a => ?_, fun a ha => ?_⟩
      · rw [show s₅.segs = delA s₄.segs g from rfl, lookupA_delA, hg₄]
        simp
      · rw [show s₅.insts = s₄.insts.filter fun i => !ids.contains i.1 from rfl, hi₄]
        refine List.filter_congr fun i hi => ?_
        rw [contains_segInsts hs hi]
        by_cases hg : i.2.place.seg = g
        · simp [hg, hx]
        · simp [hg]
      · rw [show s₅.scrAddr c k a = s₄.scrAddr c k a from rfl, h₄.scrAddr, hs₁]
        rfl
      · rw [show s₅.scr = s₄.scr from rfl, hc₄]
        refine hm a fun i hi => ?_
        obtain ⟨hi, hg⟩ := List.mem_filter.mp hi
        exact ha i hi (List.mem_singleton.mpr (of_decide_eq_true hg))
    have h₆ : SidesKept s₅ s₆ := (SidesKept.refl s₅).schedule.nudge.admitSweeps
    exact h₅.sidesKept (h₆.foldl fun u _ => (SidesKept.refl u).wakeLoads)

/-- Discards one after another. -/
theorem foldl_discard_dropped (hs : sortedA s.insts = true) (gs : List Nat) : Dropped s gs (gs.foldl State.discard s) := by
  induction gs generalizing s with
  | nil => exact .refl s
  | cons g gs ih =>
    have h₁ := discard_dropped hs g
    have h₂ := ih (s := s.discard g) (by rw [h₁.insts]; exact sortedA_filter hs _)
    refine ⟨fun k => ?_, ?_, h₂.trapped.trans h₁.trapped, h₂.ending.trans h₁.ending, h₂.mem.trans h₁.mem, h₂.far.trans h₁.far,
      fun c k a => (h₂.addr c k a).trans (h₁.addr c k a), fun a ha => ?_⟩
    · rw [List.foldl_cons, h₂.segs, h₁.segs]
      by_cases hk : k = g
      · simp [hk]
      · simp [hk]
    · rw [List.foldl_cons, h₂.insts, h₁.insts, List.filter_filter]
      refine List.filter_congr fun i _ => ?_
      rw [h₁.segs]
      by_cases hk : i.2.place.seg = g
      · simp [hk]
      · simp [hk]
    · rw [List.foldl_cons]
      refine (h₂.scr a fun i hi hg => ?_).trans (h₁.scr a fun i hi hg => ?_)
      · rw [h₁.insts] at hi
        have hw := ha i (List.mem_filter.mp hi).1 (List.mem_cons_of_mem _ hg)
        unfold wroteByte at hw ⊢
        simpa only [h₁.addr] using hw
      · exact ha i hi (List.mem_cons.mpr (.inl (List.mem_singleton.mp hg)))

end Sys2Proof.Machine
end

section
/-!
The end of a clk (O54). One proof is elaborated at a time: the threads of hundreds of
proofs at once pass the memory that a check of the whole text may take.
-/

set_option Elab.async false

namespace Sys2Proof.Machine

open Sys2Proof.Claims

variable {s t u : State} {id : Nat} {v : Inst}

/-! ## The end of a clk (06 R134; 24 R392) -/

/-- The state that the end of a clk starts from: its traps and statuses are taken. -/
def State.taken (s : State) : State := { s with trapped := [], ending := [] }

/-- What an instance reads as once segments are discarded. -/
theorem Dropped.inst? {gs : List Nat} (h : Dropped s gs t) (hs : sortedA s.insts = true) {j : Nat} {w : Inst} (hw : s.inst? j = some w) :
    t.inst? j = if w.place.seg ∈ gs ∧ (lookupA s.segs w.place.seg).isSome then none else some w := by
  rw [State.inst?, h.insts]
  split
  next hd =>
    refine Option.eq_none_iff_forall_ne_some.mpr fun u hu => ?_
    obtain ⟨hm, hk⟩ := List.mem_filter.mp (mem_of_lookupA hu)
    have hwu : w = u := Option.some.inj (hw.symm.trans (lookupA_of_mem hs hm))
    subst hwu
    simp [hd.1, hd.2] at hk
  next hd =>
    refine lookupA_of_mem (sortedA_filter hs _) (List.mem_filter.mpr ⟨mem_of_lookupA hw, ?_⟩)
    simpa [imp_iff_not_or] using hd

/-- With the clk an uncommitted instance's segment goes with everything it staged. -/
theorem endOfClk_of_uncommitted {x : Segment} (ht : s.trapped = [id]) (he : s.ending = []) (hv : s.inst? id = some v) (hc : v.committed = false)
    (hx : lookupA s.segs v.place.seg = some x) (hs : sortedA s.insts = true) :
    let t := s.endOfClk
    lookupA t.segs v.place.seg = none ∧ (∀ h, h ≠ v.place.seg → lookupA t.segs h = lookupA s.segs h) ∧
      (∀ j w, s.inst? j = some w → t.inst? j = if w.place.seg = v.place.seg then none else some w) ∧
      t.trapped = [] ∧ t.mem = s.mem ∧ t.farWrites = s.farWrites ∧
      ∀ a, (∀ j w, s.inst? j = some w → w.place.seg = v.place.seg → wroteByte s w a = false) → readByte t.scr a = readByte s.scr a := by
  have hend : s.endOfClk = (s.taken.handReleases v.place.ctx x.releases).discard v.place.seg := by
    have hv' : s.taken.inst? id = some v := hv
    have hx' : lookupA s.taken.segs v.place.seg = some x := hx
    unfold State.endOfClk
    rw [ht, he]
    change State.trapEnd s.taken id = _
    simp [State.trapEnd, hv', hc, hx']
  have hrel : SidesKept s.taken (s.taken.handReleases v.place.ctx x.releases) := (SidesKept.refl _).handReleases
  obtain ⟨hi, hg, htr, -, hm, hf, hscr⟩ := hrel.1.frame
  have hd : Dropped (s.taken.handReleases v.place.ctx x.releases) [v.place.seg] s.endOfClk := hend ▸ discard_dropped (hi ▸ hs) _
  refine ⟨?_, fun h hne => ?_, fun j w hw => ?_, hd.trapped.trans htr, hd.mem.trans hm, hd.far.trans hf, fun a ha => ?_⟩
  · rw [hd.segs, if_pos (List.mem_singleton.mpr rfl)]
  · rw [hd.segs, if_neg (by simpa using hne), hg]
    rfl
  · rw [hd.inst? (hi ▸ hs) (j := j) (w := w) (by rw [State.inst?, hi]; exact hw), hg]
    by_cases hseg : w.place.seg = v.place.seg
    · rw [if_pos ⟨by simp [hseg], by rw [hseg, State.taken, hx]; rfl⟩, if_pos hseg]
    · rw [if_neg (by simp [hseg]), if_neg hseg]
  · refine (hd.scr a fun i hi' hseg => ?_).trans (congrArg (readByte · a) hscr)
    rw [hi] at hi'
    have hw := ha i.1 i.2 (lookupA_of_mem hs hi') (List.mem_singleton.mp hseg)
    unfold wroteByte at hw ⊢
    have haddr (c k b : Nat) : s.taken.scrAddr c k b = s.scrAddr c k b := rfl
    simpa only [hrel.scrAddr, haddr] using hw

/-- A segment that goes leaves the instances, memory and scratch. -/
theorem dropSegment_frame (s : State) (g : Nat) : (s.dropSegment g).insts = s.insts ∧ (s.dropSegment g).trapped = s.trapped ∧
    (s.dropSegment g).mem = s.mem ∧ (s.dropSegment g).scr = s.scr ∧ (s.dropSegment g).farWrites = s.farWrites := by
  unfold State.dropSegment
  split
  · exact ⟨rfl, rfl, rfl, rfl, rfl⟩
  next x _ =>
    extract_lets s₁
    have h := ((RootOnly.refl { s₁ with segs := delA s₁.segs g }).schedule (a := s₁.clk) (e := .completionRecordWrite x.launch)).nudge
      (slot := x.slot) |>.sidesKept.1.frame
    obtain ⟨hi, -, ht, -, hm, hf, hs⟩ := h
    exact ⟨hi, ht, hm, hs, hf⟩

/-- In a tail the instance ends alone. -/
theorem endOfClk_of_committed (ht : s.trapped = [id]) (he : s.ending = []) (hv : s.inst? id = some v) (hc : v.committed = true) :
    let t := s.endOfClk
    t.inst? id = none ∧ (∀ j, j ≠ id → t.inst? j = s.inst? j) ∧ t.trapped = [] ∧ t.mem = s.mem ∧ t.scr = s.scr ∧ t.farWrites = s.farWrites := by
  have hend : s.endOfClk = s.taken.endTail id v := by
    have hv' : s.taken.inst? id = some v := hv
    unfold State.endOfClk
    rw [ht, he]
    change State.trapEnd s.taken id = _
    simp [State.trapEnd, hv', hc]
  have hkept : s.endOfClk.insts = delA s.insts id ∧ s.endOfClk.trapped = [] ∧ s.endOfClk.mem = s.mem ∧ s.endOfClk.scr = s.scr ∧
      s.endOfClk.farWrites = s.farWrites := by
    rw [hend]
    unfold State.endTail
    extract_lets s₁ s₂
    have h₂ : s₂.insts = s₁.insts ∧ s₂.trapped = s₁.trapped ∧ s₂.mem = s₁.mem ∧ s₂.scr = s₁.scr ∧ s₂.farWrites = s₁.farWrites := by
      simp only [s₂]
      split
      · exact dropSegment_frame s₁ _
      · exact ⟨rfl, rfl, rfl, rfl, rfl⟩
    obtain ⟨hi₂, ht₂, hm₂, hs₂, hf₂⟩ := h₂
    obtain ⟨hi, -, ht, -, hm, hf, hs⟩ := (SidesKept.refl s₂).wakeLoads (c := v.place.ctx) (k := v.place.cell) |>.1.frame
    exact ⟨hi.trans hi₂, ht.trans ht₂, hm.trans hm₂, hs.trans hs₂, hf.trans hf₂⟩
  obtain ⟨hi, htr, hm, hs, hf⟩ := hkept
  refine ⟨?_, fun j hj => ?_, htr, hm, hs, hf⟩
  · rw [State.inst?, hi, lookupA_delA_self]
  · rw [State.inst?, hi, lookupA_delA, if_neg hj]
    rfl

/-- Of an ended launch the uncommitted segments that are not engaged go. -/
theorem endOfClk_of_ending {l : Nat} (ht : s.trapped = []) (he : s.ending = [l]) (hs : sortedA s.insts = true) (hg : sortedA s.segs = true) :
    let t := s.endOfClk
    (∀ g x, lookupA s.segs g = some x → lookupA t.segs g = if x.launch = l ∧ loose x = true then none else some x) ∧
      t.ending = [] ∧ t.mem = s.mem ∧ t.farWrites = s.farWrites ∧
      ∀ a, (∀ j w x, s.inst? j = some w → segment? s w = some x → x.launch = l → loose x = true → wroteByte s w a = false) →
        readByte t.scr a = readByte s.scr a := by
  obtain ⟨gs, hgs, hend⟩ : ∃ gs : List Nat, (∀ g, g ∈ gs ↔ ∃ x, lookupA s.segs g = some x ∧ x.launch = l ∧ loose x = true) ∧
      s.endOfClk = (gs.foldl State.discard s.taken).schedule s.clk (.completionRecordWrite l) := by
    refine ⟨(s.segs.filter fun g => g.2.launch = l && !g.2.engaged && g.2.phase ≠ .committing && g.2.phase ≠ .tail).map (·.1), fun g => ?_, ?_⟩
    · have hloose (x : Segment) : (x.launch = l && !x.engaged && x.phase ≠ .committing && x.phase ≠ .tail) = true ↔
          x.launch = l ∧ loose x = true := by
        simp [loose, and_assoc]
      rw [List.mem_map]
      constructor
      · rintro ⟨e, he, rfl⟩
        obtain ⟨he, hl⟩ := List.mem_filter.mp he
        exact ⟨e.2, lookupA_of_mem hg he, (hloose e.2).mp hl⟩
      · rintro ⟨x, hx, hl⟩
        exact ⟨(g, x), List.mem_filter.mpr ⟨mem_of_lookupA hx, (hloose x).mpr hl⟩, rfl⟩
    · unfold State.endOfClk
      rw [ht, he]
      rfl
  have hd : Dropped s.taken gs s.endOfClk := hend ▸ (foldl_discard_dropped (s := s.taken) hs gs).sidesKept (SidesKept.refl _).schedule
  refine ⟨fun g x hx => ?_, hd.ending, hd.mem, hd.far, fun a ha => hd.scr a fun i hi hseg => ?_⟩
  · rw [hd.segs]
    by_cases hl : x.launch = l ∧ loose x = true
    · rw [if_pos ((hgs g).mpr ⟨x, hx, hl⟩), if_pos hl]
    · rw [if_neg, if_neg hl]
      · exact hx
      · rintro hin
        obtain ⟨y, hy, hly⟩ := (hgs g).mp hin
        exact hl (Option.some.inj (hx.symm.trans hy) ▸ hly)
  · obtain ⟨x, hx, hl, hlo⟩ := (hgs _).mp hseg
    exact ha i.1 i.2 x (lookupA_of_mem hs hi) hx hl hlo

/-- Settles O54, by what taking a trap leaves, the issue of every lesson instruction, and what a discard drops. -/
theorem trapsTaken : Obligations.TrapsTaken :=
  ⟨fun _ _ _ _ _ hv hn => trapped_spec hv hn, fun _ _ _ _ hl ha hv hc hf => exec_of_freed hl ha hv hc hf,
    fun _ _ _ _ _ _ _ hp ha hv hc ht => exec_of_postCommit hp ha hv hc ht,
    fun _ _ _ _ ht he hv hc hx hs _ => endOfClk_of_uncommitted ht he hv hc hx hs,
    fun _ _ _ ht he hv hc _ => endOfClk_of_committed ht he hv hc, fun _ _ ht he hs hg => endOfClk_of_ending ht he hs hg⟩

end Sys2Proof.Machine
end

section
/-!
What an issue that waits answers; bytes and numbers; the bytes of a side. One proof is elaborated at a time: the threads of hundreds of
proofs at once pass the memory that a check of the whole text may take.
-/

set_option Elab.async false

namespace Sys2Proof.Machine

open Sys2Proof.Claims

variable {s t : State} {id : Nat} {v : Inst}

/-! ## An effect that waits for an event (01 R15; 06 R124) -/

/-- An issue whose effect waits leaves its instance paused. -/
theorem issue_wait {i : Instr} {eff : State → Nat → Inst → Done} {w : Wait} (h : issues i s id v = true)
    (he : eff s id v = .wait t w) : issue i eff s = .next (t.modInst id fun u => pausing i u t.clk w) := by
  rw [issue_eq h, he]
  rfl

/-! ## Bytes and numbers (00 R7) -/

theorem number_eq_wordOfBytes (bs : List Byte) : number bs = wordOfBytes bs := by
  induction bs with
  | nil => rfl
  | cons b bs ih => rw [wordOfBytes, ← ih]; rfl

theorem bytesOf_eq_bytesOfWord (n w : Nat) : bytesOf n w = bytesOfWord n w := by
  induction n generalizing w with
  | zero => rfl
  | succ n ih =>
    have hlow : BitVec.ofNat 8 (w % 256) = BitVec.ofNat 8 w := BitVec.eq_of_toNat_eq (by simp)
    rw [bytesOf, bytesOfWord, ih, hlow]

theorem readBytes_eq_map (m : Memory) (a n : Nat) : readBytes m a n = (List.range n).map fun k => readByte m (a + k) := by
  induction n generalizing a with
  | zero => rfl
  | succ n ih =>
    have h (k : Nat) : a + 1 + k = a + (k + 1) := by omega
    simp [readBytes, ih, List.range_succ_eq_map, h]

/-! ## The bytes of a side (01 R16; 11 R233; 12 R276) -/

theorem scrAddr_add (s : State) (c cell a k : Nat) : s.scrAddr c cell (a + k) = s.scrAddr c cell a + k := by
  simp only [State.scrAddr, scrKey]
  omega

/-- A byte of a context's side as an instance reads it: of its own cell, from its gradient shadow where that holds the granule. -/
def State.sideByte (s : State) (v : Inst) (cell a : Nat) : Byte :=
  if cell = v.place.cell ∧ v.stage.gradGranules.contains (a / 64) then readByte v.stage.grads a
  else readByte s.scr (s.scrAddr v.place.ctx cell a)

theorem sideBytes_eq_map (s : State) (v : Inst) (cell a n : Nat) :
    s.sideBytes v cell a n = (List.range n).map fun k => s.sideByte v cell (a + k) := by
  unfold State.sideBytes State.sideByte
  simp only [readBytes_eq_map, ← scrAddr_add]
  split
  next h =>
    obtain ⟨hc, -⟩ := (Bool.and_eq_true ..).mp h
    refine List.map_congr_left fun k hk => ?_
    have hk : k < n := List.mem_range.mp hk
    simp [of_decide_eq_true hc, hk]
  next h =>
    refine List.map_congr_left fun k _ => (if_neg ?_).symm
    rintro ⟨rfl, hg⟩
    cases hl : v.stage.gradGranules with
    | nil => simp [hl] at hg
    | cons => simp [hl] at h

/-- A slice of the bytes of a side. -/
theorem slice_sideBytes (s : State) (v : Inst) (cell a : Nat) {j m n : Nat} (h : j + m ≤ n) :
    ((s.sideBytes v cell a n).drop j).take m = s.sideBytes v cell (a + j) m := by
  simp only [sideBytes_eq_map]
  refine List.ext_getElem (by simp; omega) fun k _ _ => ?_
  simp [Nat.add_assoc]

/-- An access in the side meets the checks of its address. -/
theorem scratchAt_of_inSide {a : Int} {n align : Nat} (h : inSide a n align = true) : scratchAt a n align = .ok a.toNat := by
  obtain ⟨h, halign⟩ := (Bool.and_eq_true ..).mp h
  obtain ⟨hlo, hhi⟩ := (Bool.and_eq_true ..).mp h
  have hin : ¬(a < 0 ∨ ((40960 : Nat) : Int) < a + n) := by
    have := of_decide_eq_true hlo
    have := of_decide_eq_true hhi
    omega
  unfold scratchAt
  rw [sideBytes, if_neg hin, if_neg (by simpa using of_decide_eq_true halign)]

end Sys2Proof.Machine
end

section
/-!
Unfolding, park records of instances and their slices (O29). One proof is elaborated at a time: the threads of hundreds of
proofs at once pass the memory that a check of the whole text may take.
-/

set_option Elab.async false

namespace Sys2Proof.Machine

open Sys2Proof.Claims

variable {s t : State} {id : Nat} {v : Inst}

/-! ## Unfolding (10 R226; 03 R81) -/

/-- A second request, or one after `need`, raises the need trap. -/
theorem exec_unfold_of_asked {f : RForm} {g : Segment} (hi : issues (.unfold f) s id v = true) (hg : segment? s v = some g)
    (ha : (g.unfolded || v.declared.isSome) = true) : exec (.unfold f) s = .next (trapped s id 0x14 0) := by
  have hg : lookupA s.segs v.place.seg = some g := hg
  rw [exec_unfold, execUnfold]
  exact issue_trap hi (by simp only [hg, ha, if_true]; rfl)

/-- A first request climbs to the partition root, and its instance waits. -/
theorem exec_unfold_of_first {f : RForm} {g : Segment} (hi : issues (.unfold f) s id v = true) (hg : segment? s v = some g)
    (ha : (g.unfolded || v.declared.isSome) = false) :
    ∃ t : State, exec (.unfold f) s = .next t ∧ t.inst? id = some (pausing (.unfold f) v s.clk .unfold) ∧
      segment? t v = some { g with unfolded := true } ∧
      scheduled t (s.clk + if v.place.cellcount ≤ s.perQuarter then 20 else 32)
        (.unfoldRequestArrival id (low32 (v.regs.getX f.a)) (low32 (v.regs.getX f.b))) := by
  obtain ⟨-, hv, -, -⟩ := issues_iff.mp hi
  have hg : lookupA s.segs v.place.seg = some g := hg
  let t := ({ s with segs := putA s.segs v.place.seg { g with unfolded := true } } : State).schedule
    (s.clk + if v.place.cellcount ≤ s.perQuarter then 20 else 32)
    (.unfoldRequestArrival id (low32 (v.regs.getX f.a)) (low32 (v.regs.getX f.b)))
  have ht : t.inst? id = some v := hv
  have hex : exec (.unfold f) s = .next (t.setInst id (pausing (.unfold f) v s.clk .unfold)) := by
    rw [exec_unfold, execUnfold, show s.clk = t.clk from rfl, ← State.modInst_of_some ht fun u => pausing (.unfold f) u t.clk .unfold]
    exact issue_wait hi (by simp only [hg, ha, State.modSeg]; rfl)
  exact ⟨_, hex, State.setInst_inst? .., lookupA_putA_self .., scheduled_schedule ..⟩

/-- Waking the root leaves a partition's requests for allowances. -/
theorem wakeSweep_unfolds {slot : Nat} {p : Part} (h : lookupA s.parts slot = some p) : ((s.wakeSweep slot).part slot).unfolds = p.unfolds := by
  unfold State.wakeSweep
  split
  · rw [part_of_lookupA h]
  · have hp := part_of_lookupA (lookupA_modPart_self h fun p => { p with sweeping := true, gated := false, idleSince := none })
    have hu := congrArg Part.unfolds hp
    exact hu

/-- A request that reaches the root is put behind the partition's others, with its allowance. -/
theorem exec_unfoldRequestArrival_of_alive {q a : Nat} {p : Part} (hv : s.inst? id = some v) (hp : lookupA s.parts v.place.slot = some p) :
    ∃ t : State, exec (.unfoldRequestArrival id q a) s = .next t ∧
      (t.part v.place.slot).unfolds = p.unfolds ++ [(id, s.allowance v.place.ctx q a, s.clk)] := by
  rw [exec_unfoldRequestArrival, execUnfoldRequestArrival]
  simp only [hv]
  exact ⟨_, rfl, wakeSweep_unfolds (lookupA_modPart_self hp _)⟩

/-! ## Park records (10 R227, R228) -/

/-- The header of an instance's record (03 R76). -/
theorem recordHeader_unparked (n : Nat) : recordHeader n 0 false = BitVec.ofNat 64 (n * 2 ^ 48) := by
  rw [recordHeader, bitNat, Nat.zero_mul, Nat.add_zero, if_neg Bool.false_ne_true, Nat.add_zero]

/-- The quoted word of an instance's record (06 R136). -/
theorem quotedWord_unparked (addr : Nat) : quotedWord addr 0 false = BitVec.ofNat 64 (9 * 2 ^ 60 + addr % 2 ^ 48) := by
  rw [quotedWord, bitNat, if_neg Bool.false_ne_true, Nat.zero_mul, Nat.zero_mul, Nat.add_zero]

/-- The words of a record that `park` makes: its header and the words of scratch. -/
theorem parkWords_eq (s : State) (v : Inst) (a n : Nat) :
    (recordHeader n 0 false :: (List.range n).map fun i =>
      BitVec.ofNat 64 (wordOfBytes (((s.sideBytes v v.place.cell a (8 * n)).drop (8 * i)).take 8))) = parkWords s v a n := by
  refine congrArg₂ _ (recordHeader_unparked n) (List.map_congr_left fun k hk => ?_)
  have hk : k < n := List.mem_range.mp hk
  rw [slice_sideBytes s v v.place.cell a (by omega), number_eq_wordOfBytes]

section
variable {f : RForm} {a : Int} {n : Nat} (hi : issues (.park f) s id v = true) (ha : (v.regs.getX f.a).toInt = a)
  (hb : (v.regs.getX f.b).toNat = n) (hpos : 0 < n) (hmax : n ≤ 5119) (hin : inSide a (8 * n) 8 = true)
include hi ha hb hpos hmax hin

/-- Without room `park` answers all ones. -/
theorem exec_park_of_full (hroom : (contextOf s v).parkSpace (8 * n + 8) = none) :
    exec (.park f) s = .next (retired (.park f) s id (withX v f.d (BitVec.allOnes 64)) 64) := by
  have hroom : (s.ctx v.place.ctx).parkSpace (8 * n + 8) = none := hroom
  have hcount : ¬(n = 0 ∨ 5119 < n) := by omega
  rw [exec_park, execPark]
  refine (issue_next (t := s.setInst id (withX v f.d (BitVec.allOnes 64))) (latency := 64) hi ?_).trans ?_
  · simp only [ha, hb, hcount, if_false, scratchAt_of_inSide hin, hroom]
    rfl
  · rw [State.modInst_setInst]
    rfl

/-- With room `park` stages its record at the lowest place and notes it in the park area. -/
theorem exec_park_of_room {addr : Nat} (hroom : (contextOf s v).parkSpace (8 * n + 8) = some addr)
    (hclean : poisoned s v a.toNat (8 * n) = false) (hstage : stageTakes v (.park addr []) = true) :
    ∃ t : State, exec (.park f) s = .next t ∧
      t.inst? id = some (completed (.park f) s.clk (withFar (withX v f.d (BitVec.ofNat 64 (9 * 2 ^ 60 + addr % 2 ^ 48)))
        (.park addr (parkWords s v a.toNat n))) 64) ∧
      (contextOf t v).parks = (contextOf s v).parks ++
        [{ addr, bytes := 8 * n + 8, staged := true, launch := v.place.launch, seg := v.place.seg, manager := false }] := by
  have hroom : (s.ctx v.place.ctx).parkSpace (8 * n + 8) = some addr := hroom
  have hclean : s.poisonedAt v.place.ctx v.place.cell (a.toNat / 64) ((a.toNat + 8 * n - 1) / 64) = false := hclean
  have hcount : ¬(n = 0 ∨ 5119 < n) := by omega
  let w := withFar (withX v f.d (quotedWord addr 0 false)) (.park addr (parkWords s v a.toNat n))
  have hstage : (s.setInst id { v with regs := v.regs.setX f.d (quotedWord addr 0 false) }).stageFar id v
      (.park addr (parkWords s v a.toNat n)) = .ok (s.setInst id w) := by
    refine (stageFar_eq (v := withX v f.d (quotedWord addr 0 false)) (State.setInst_inst? ..) _).trans ?_
    rw [State.setInst_setInst]
    exact if_pos hstage
  let t := (s.setInst id w).modCtx v.place.ctx fun x => { x with parks := x.parks ++
    [{ addr, bytes := 8 * n + 8, staged := true, launch := v.place.launch, seg := v.place.seg, manager := false }] }
  have hex : exec (.park f) s = .next (t.modInst id fun w => completed (.park f) t.clk w 64) := by
    rw [exec_park, execPark]
    refine issue_next hi ?_
    simp only [ha, hb, hcount, if_false, scratchAt_of_inSide hin, hroom, hclean, parkWords_eq, hstage, Bool.false_eq_true]
    rfl
  have hw : t.inst? id = some w := State.setInst_inst? ..
  rw [State.modInst_of_some hw] at hex
  refine ⟨_, hex, ?_, ?_⟩
  · rw [State.setInst_inst?, ← quotedWord_unparked]
    rfl
  · have hctx := congrArg Ctx.parks (ctx_modCtx_self (s.setInst id w) v.place.ctx fun x => { x with parks := x.parks ++
      [{ addr, bytes := 8 * n + 8, staged := true, launch := v.place.launch, seg := v.place.seg, manager := false }] })
    exact hctx

end

/-! ## Slices of records (10 R229) -/

/-- Symbols that are staged one after another stand at rising indices. -/
theorem stageSymbols_eq (v : Inst) (i : Nat) (ws : List Word) : stageSymbols v i ws = stagedAt v i ws := by
  induction ws generalizing v i with
  | nil => rfl
  | cons w ws ih =>
    have hshift (m : Assoc Word) (p : Word × Nat) : putA m (i + (p.2 + 1)) p.1 = putA m (i + 1 + p.2) p.1 := by
      rw [Nat.add_assoc, Nat.add_comm 1]
    have hidx : ws.zipIdx 1 = ws.zipIdx.map fun p => (p.1, p.2 + 1) := List.zipIdx_succ
    simp [stageSymbols, ih, stagedAt, hidx, List.foldl_map, hshift]

/-- The length of a record (03 R76). -/
theorem bits_recordLength (m : Memory) (a : Nat) : bits (readNat m a 8) 63 48 = readNat m a 8 / 2 ^ 48 := by
  have := readNat_lt m a 8
  simp only [bits]
  omega

/-- A fault of a slice of `m` words is met neither when there is nothing to take nor when there is no fault. -/
theorem sliceFault_of {m : Nat} {p : Bool} (h : m = 0 ∨ p = false) : ¬(decide (m > 0) && p) = true := by
  rcases h with rfl | rfl
  · simp
  · simp

/-- `fetch` takes the slice of a record, once its checks hold. -/
theorem exec_fetch_of_fetched {f : RForm} {ws : List Word} (hf : fetched s v f = some ws) (hi : issues (.fetch f) s id v = true) :
    exec (.fetch f) s = .next (retired (.fetch f) s id (withX (stagedAt v (v.regs.getX f.b).toNat ws) f.d (BitVec.ofNat 64 ws.length))
      (400 + (ws.length + 7) / 8)) := by
  unfold fetched at hf
  extract_lets w b c a n head len m src ws' at hf
  split at hf
  next hc =>
    obtain ⟨hkind, hsym, hparked, hbn, hoff, hstaged, hfetch, hex, hclean, hhead, hslice, hok⟩ := hc
    obtain rfl : ws' = ws := Option.some.inj hf
    have hword : ¬(symKind (v.regs.getX f.a) ≠ 9 ∨ (!symbolOk v.place.cellcount (v.regs.getX f.a)) = true ∨ bit w 48 = true) := by
      rw [symKind_eq_kind, bit_eq_true_iff, hparked]
      simp [show kind (v.regs.getX f.a) = 9 from hkind, hsym]
    have hknown : (s.offsetsKnown v).isNone = false := Option.isNone_eq_false_iff.mpr hoff
    have hstaged : ((s.ctx v.place.ctx).parks.any fun r => r.staged && decide (r.addr = a)) = false := hstaged
    have hbase : bits head 39 1 = 0 := hhead
    have hread : m = 0 ∨ (!s.fetchable v.place.ctx src (8 * m)) = false := hslice.imp_right fun ⟨h, _, _⟩ => by rw [h]; rfl
    have hthere : m = 0 ∨ (!farExists src (8 * m)) = false := hslice.imp_right fun ⟨_, h, _⟩ => by rw [h]; rfl
    have hsound : m = 0 ∨ s.farPoisoned src (8 * m) = false := hslice.imp_right fun ⟨_, _, h⟩ => h
    have hm : ws'.length = m := by simp [ws']
    rw [exec_fetch, execFetch]
    refine (issue_next (t := s.setInst id (withX (stagedAt v b ws') f.d (BitVec.ofNat 64 ws'.length)))
      (latency := 400 + (ws'.length + 7) / 8) hi ?_).trans (by rw [State.modInst_setInst]; rfl)
    extract_lets w₁ a₁ e₁ head₁ len₁ m₁ src₁ ws₁ u₁
    have ha : a₁ = a := bits_low w 47
    have hhead₁ : head₁ = head := congrArg (readNat s.mem · 8) ha
    have hlen : len₁ = len := (congrArg (bits · 63 48) hhead₁).trans (bits_recordLength ..)
    have hm₁ : m₁ = m := by simp only [m₁, m, hlen]
    have hsrc : src₁ = src := congrArg (· + 8 + 8 * c) ha
    have hws : ws₁ = ws' := (congrArg₂ (readWords s.mem) hsrc hm₁).trans (readWords_eq_map ..)
    have hu : u₁ = stagedAt v b ws' := (congrArg (stageSymbols v b) hws).trans (stageSymbols_eq v b ws')
    rw [ha, hhead₁, hsrc, hws, hm₁, if_neg hword, if_neg hbn.not_ge, if_neg (by simp [hknown]), if_neg (by simp [hstaged]),
      if_neg (by simp [hfetch]), if_neg (by simp [hex]), if_neg (by simp [hclean]), if_neg (not_not.mpr hbase),
      if_neg (sliceFault_of hread), if_neg (sliceFault_of hthere), if_neg (sliceFault_of hsound), if_neg (by simpa using hok), hm, ← hu]
    rfl
  next => cases hf

/-- Settles O29, by what each of the four forms answers. -/
theorem unfoldParkFetch : Obligations.UnfoldParkFetch := by
  refine ⟨fun f g s id v _ hi hg => ?_, fun _ _ _ _ _ _ hv hp => exec_unfoldRequestArrival_of_alive hv hp,
    fun f s id v _ hi => ?_, fun _ _ _ _ _ hf _ hi => exec_fetch_of_fetched hf hi⟩
  · split
    next ha => exact exec_unfold_of_asked hi hg ha
    next ha => exact exec_unfold_of_first hi hg (Bool.eq_false_iff.mpr ha)
  · intro n a hpos hmax hin
    split
    next hroom => exact exec_park_of_full hi rfl rfl hpos hmax hin hroom
    next addr hroom => exact fun hclean hstage => exec_park_of_room hi rfl rfl hpos hmax hin hroom hclean hstage

end Sys2Proof.Machine
end

section
/-!
The ends of storage moves: seats and rows. One proof is elaborated at a time: the threads of hundreds of
proofs at once pass the memory that a check of the whole text may take.
-/

set_option Elab.async false

namespace Sys2Proof.Machine

open Sys2Proof.Claims

variable {s t : State}

/-! ## What unfreezing, mapping and filling seats leave (03 R70, R75, R77) -/

/-- Freezing changes the row alone. -/
theorem freeze_eq (x : Ctx) (on : Bool) (seats : List Nat) : x.freeze on seats = { x with row := (x.freeze on seats).row } := by
  unfold Ctx.freeze
  induction seats generalizing x with
  | nil => rfl
  | cons p seats ih => exact ih _

/-- Unfreezing leaves the symbols. -/
theorem sym_freeze (x : Ctx) (on : Bool) (seats : List Nat) (q : Nat) : ((x.freeze on seats).seat q).sym = (x.seat q).sym := by
  rw [seat_freeze]
  split
  · rfl
  · rfl

theorem sortedA_freeze {x : Ctx} (h : sortedA x.row = true) (on : Bool) (seats : List Nat) : sortedA (x.freeze on seats).row = true := by
  unfold Ctx.freeze
  induction seats generalizing x with
  | nil => exact h
  | cons p seats ih => exact ih (sortedA_setD h ..)

/-- A seat below every seat of a row is free. -/
theorem seatIn_of_below {r : Assoc SeatState} {p : Nat} (h : ∀ e ∈ r, p < e.1) : seatIn r p = SeatState.free := by
  induction r with
  | nil => rfl
  | cons e r ih =>
    have he : p < e.1 := h e (List.mem_cons_self ..)
    rw [seatIn_cons, if_neg he.ne]
    exact ih fun e h' => h e (List.mem_cons_of_mem _ h')

/-- The seats of a row in order, changed: an empty seat that stays empty needs no entry. -/
theorem seat_mapSeats {x : Ctx} (h : sortedA x.row = true) {f : SeatState → SeatState} (hf : f SeatState.free = SeatState.free) (q : Nat) :
    (x.mapSeats f).seat q = f (x.seat q) := by
  have key (r : Assoc SeatState) (hr : sortedA r = true) :
      seatIn (r.foldr (fun p m => if f p.2 = SeatState.free then m else (p.1, f p.2) :: m) []) q = f (seatIn r q) := by
    induction r with
    | nil => exact hf.symm
    | cons e r ih =>
      replace ih := ih (sortedA_tail hr)
      rw [List.foldr_cons, seatIn_cons]
      by_cases hq : q = e.1
      · subst hq
        split
        next hfree => rw [ih, seatIn_of_below (sortedA_above hr), hf, if_pos rfl, hfree]
        next => rw [seatIn_cons, if_pos rfl, if_pos rfl]
      · rw [if_neg hq]
        split
        · exact ih
        · rw [seatIn_cons, if_neg hq, ih]
  exact key x.row h

/-- A run of seats that are frozen or unfrozen. -/
theorem seat_freeze_range (x : Ctx) (on : Bool) (a n q : Nat) :
    (x.freeze on ((List.range n).map (a + ·))).seat q = if a ≤ q ∧ q < a + n then { x.seat q with frozen := on } else x.seat q := by
  rw [seat_freeze]
  refine if_congr ?_ rfl rfl
  rw [List.contains_iff_mem, List.mem_map]
  constructor
  · rintro ⟨k, hk, rfl⟩
    have := List.mem_range.mp hk
    omega
  · exact fun h => ⟨q - a, List.mem_range.mpr (by omega), by omega⟩

/-- Seats that are given one state after another. -/
theorem seat_foldl_const (v : SeatState) (a n : Nat) (x : Ctx) (q : Nat) :
    (((List.range n).map (a + ·)).foldl (fun x p => x.setSeat p v) x).seat q = if a ≤ q ∧ q < a + n then v else x.seat q := by
  rw [List.foldl_map]
  exact seat_foldl_setSeat (f := fun _ => v) x n q

/-- Seats that are filled with a run of words, from a seat on. -/
theorem seat_foldl_zipIdx (g : Word → SeatState) (ws : List Word) (a i : Nat) (x : Ctx) (q : Nat) :
    ((ws.zipIdx i).foldl (fun x w => x.setSeat (a + w.2) (g w.1)) x).seat q =
      if a + i ≤ q ∧ q < a + i + ws.length then g (ws.getD (q - (a + i)) 0#64) else x.seat q := by
  induction ws generalizing i x with
  | nil => rw [if_neg (by simp)]; rfl
  | cons w ws ih =>
    rw [List.zipIdx_cons, List.foldl_cons, ih, seat_setSeat]
    by_cases hq : q = a + i
    · subst hq
      simp
    · rw [if_neg hq]
      by_cases hin : a + (i + 1) ≤ q ∧ q < a + (i + 1) + ws.length
      · obtain ⟨k, hk⟩ : ∃ k, q - (a + i) = k + 1 := ⟨q - (a + i) - 1, by omega⟩
        rw [if_pos hin, if_pos (by rw [List.length_cons]; omega), hk, show q - (a + (i + 1)) = k by omega, List.getD_cons_succ]
      · rw [if_neg hin, if_neg (by rw [List.length_cons]; omega)]

/-- Setting seats leaves the park area. -/
theorem parks_foldl_setSeat {α : Type} (l : List α) (p : α → Nat) (v : α → SeatState) (x : Ctx) :
    (l.foldl (fun x e => x.setSeat (p e) (v e)) x).parks = x.parks := by
  induction l generalizing x with
  | nil => rfl
  | cons e l ih => exact ih _

/-! ## The end of a storage move (03 R70) -/

/-- The end of a move unfreezes its seats, and changes beside them the partition and the agenda alone. -/
theorem endMove_frame (s : State) (slot c : Nat) (m : Move) : RootOnly (s.modCtx c fun x => x.freeze false m.seats) (s.endMove slot c m) :=
  (RootOnly.refl _).modPart.wakeSweep.nudge

theorem ctx_endMove (s : State) (slot c : Nat) (m : Move) : (s.endMove slot c m).ctx c = (s.ctx c).freeze false m.seats := by
  obtain ⟨hc, -⟩ := (endMove_frame s slot c m).frame
  rw [State.ctx, hc, ← State.ctx, ctx_modCtx_self]

/-- No commit step waits for frozen seats: none begins. -/
theorem resumeCommits_of_none {c : Nat} (h : ∀ g ∈ s.segs, g.2.ctx = c → g.2.phase ≠ .waitingWave) : s.resumeCommits c = s := by
  have hnone : (s.segs.filter fun g => g.2.ctx = c && g.2.phase = .waitingWave) = [] := by
    refine List.filter_eq_nil_iff.mpr fun g hg hw => ?_
    obtain ⟨hc, hp⟩ := (Bool.and_eq_true ..).mp hw
    exact h g hg (of_decide_eq_true hc) (of_decide_eq_true hp)
  rw [State.resumeCommits, hnone, List.mergeSort_nil, List.foldl_nil]

end Sys2Proof.Machine
end

section
/-!
The end of a park and of an unpark. One proof is elaborated at a time: the threads of hundreds of
proofs at once pass the memory that a check of the whole text may take.
-/

set_option Elab.async false

namespace Sys2Proof.Machine

open Sys2Proof.Claims

variable {s t : State} {slot c a : Nat} {p : Part}

/-! ## Park records of the storage manager (03 R74 to R76) -/

/-- The symbols from a seat to a seat, as the statements pick them. -/
theorem symbolsIn_eq (x : Ctx) (a b : Nat) :
    x.symbolsIn a b = (x.row.filter fun q => a ≤ q.1 && q.1 ≤ b && kind q.2.sym ≠ 0).map fun q => q.2.sym := by
  simp only [Ctx.symbolsIn, symKind_eq_kind]

/-- The header of a record of the storage manager (03 R76). -/
theorem recordHeader_parked (n l : Nat) : recordHeader n l true = BitVec.ofNat 64 (n * 2 ^ 48 + l * 2 ^ 40 + 1) := rfl

/-- The parked symbol of a record (06 R136). -/
theorem quotedWord_parked (addr l : Nat) : quotedWord addr l true = BitVec.ofNat 64 (9 * 2 ^ 60 + l * 2 ^ 52 + 2 ^ 48 + addr % 2 ^ 48) := by
  rw [quotedWord, bitNat, if_pos rfl, Nat.one_mul]

/-- Words as the model and the statements lay them out. -/
theorem wordBytes_eq (ws : List Word) : (ws.flatMap fun w => bytesOfWord 8 w.toNat) = wordBytes ws := by
  simp only [wordBytes, bytesOf_eq_bytesOfWord]

/-- Far bytes that are written are performed. -/
theorem performed_of_mem {addr : Nat} {bs : List Byte} (h : t.mem = writeBytes s.mem addr bs) : performed s t addr bs := fun b => by
  rw [h, readByte_writeBytes]
  rfl

/-- The record of a candidate from seat `a` to seat `b` (03 R76): its symbols with their levels counted from the candidate's. -/
def parkedRecord (x : Ctx) (a b : Nat) : List Word :=
  recordHeader (x.symbolsIn a b).length (level (x.seat a).sym) true ::
    (x.symbolsIn a b).map fun w => replaced w 59 52 (level w - level (x.seat a).sym)

/-- The state that the end of a park leaves: its record is written, and of the candidate one quoted symbol is left (03 R74, R75). -/
def State.parked (s : State) (slot c a b addr g : Nat) : State :=
  ((s.pokeFar addr (wordBytes (parkedRecord (s.ctx c) a b))).endMove slot c (.park a b addr g)).modCtx c fun x =>
    ((Move.park a b addr g).seats.foldl (fun x p => x.setSeat p SeatState.free) x).setSeat a
      { SeatState.free with sym := quotedWord addr (level ((s.ctx c).seat a).sym) true, launch := ((s.ctx c).seat a).launch }

theorem exec_parkWriteComplete_eq_parked {b addr g : Nat} (hp : lookupA s.parts slot = some p) (hr : p.running = some c)
    (hm : p.moves.find? (fun m => match m with | .park .. => true | _ => false) = some (.park a b addr g))
    (hk : kind ((s.ctx c).seat a).sym = 1) (hex : farExists addr (8 * ((s.ctx c).symbolsIn a b).length + 8) = true) :
    exec (.parkWriteComplete slot) s = .next (s.parked slot c a b addr g) := by
  rw [exec_parkWriteComplete, execParkWriteComplete, part_of_lookupA hp, hr]
  generalize hf : List.find? _ p.moves = move
  obtain rfl : move = some (.park a b addr g) := hf.symm.trans hm
  refine (if_neg (not_not.mpr ((symKind_eq_kind _).trans hk))).trans ((if_neg (by simp [hex])).trans ?_)
  rw [State.parked, parkedRecord, ← wordBytes_eq]
  rfl

/-- What the end of a park leaves of the seats. -/
theorem seat_parked (s : State) (slot c : Nat) {a b : Nat} (addr g : Nat) (hab : a ≤ b) (q : Nat) :
    ((s.parked slot c a b addr g).ctx c).seat q =
      if q = a then { SeatState.free with
        sym := quotedWord addr (level ((s.ctx c).seat a).sym) true, launch := ((s.ctx c).seat a).launch }
      else if a ≤ q ∧ q ≤ b then SeatState.free else (s.ctx c).seat q := by
  rw [State.parked, ctx_modCtx_self, seat_setSeat, Move.seats, seat_foldl_const, ctx_endMove, Move.seats, seat_freeze_range]
  refine if_congr Iff.rfl rfl ?_
  by_cases hq : a ≤ q ∧ q ≤ b
  · rw [if_pos hq, if_pos (by omega)]
  · rw [if_neg hq, if_neg (by omega), if_neg (by omega)]
    rfl

/-- What the end of a park leaves beside the seats. -/
theorem parked_frame (s : State) (slot c a b addr g : Nat) :
    (s.parked slot c a b addr g).insts = s.insts ∧ (s.parked slot c a b addr g).segs = s.segs ∧ (s.parked slot c a b addr g).scr = s.scr ∧
      performed s (s.parked slot c a b addr g) addr (wordBytes (parkedRecord (s.ctx c) a b)) := by
  have h := endMove_frame (s.pokeFar addr (wordBytes (parkedRecord (s.ctx c) a b))) slot c (.park a b addr g)
  obtain ⟨-, hi, hg, hm, -⟩ := h.frame
  refine ⟨?_, ?_, ?_, performed_of_mem ?_⟩
  · rw [State.parked, State.modCtx_insts, hi]
    rfl
  · rw [State.parked, State.modCtx_segs, hg]
    rfl
  · rw [State.parked, State.modCtx_scr, h.scr]
    rfl
  · rw [State.parked, State.modCtx_mem, hm]
    rfl

/-! ## Unparking (03 R76, R77; 06 R139) -/

/-- The seat that an unpark fills with a word of a record whose parked symbol was `q`. -/
def unparkedSeat (q : SeatState) (w : Word) : SeatState :=
  if symKind w = 0 then SeatState.free else { SeatState.free with sym := raiseLevel (symLevel q.sym) w, launch := q.launch }

/-- The state that the end of an unpark leaves: the words of the record at `addr` stand from seat `a` on. -/
def State.unparked (s : State) (slot c a n addr : Nat) : State :=
  ((s.endMove slot c (.unpark a n)).modCtx c Ctx.unreserve).modCtx c fun x =>
    let x := (readWords s.mem (addr + 8) n).zipIdx.foldl (fun x w => x.setSeat (a + w.2) (unparkedSeat ((s.ctx c).seat a) w.1)) x
    { x with parks := x.parks.filter fun r => r.addr ≠ addr }

theorem exec_unparkComplete_eq_unparked {n addr : Nat} (hp : lookupA s.parts slot = some p) (hr : p.running = some c)
    (hm : p.moves.find? (fun m => match m with | .unpark .. => true | _ => false) = some (.unpark a n))
    (hk : kind ((s.ctx c).seat a).sym = 9) (hparked : ((s.ctx c).seat a).sym.toNat / 2 ^ 48 % 2 = 1)
    (haddr : ((s.ctx c).seat a).sym.toNat % 2 ^ 48 = addr) (hex : farExists addr (8 * n + 8) = true)
    (hclean : s.farPoisoned addr (8 * n + 8) = false) (hhead : readNat s.mem addr 8 / 2 % 2 ^ 39 = 0)
    (hok : (readWords s.mem (addr + 8) n).all (symbolOk p.cellcount) = true) :
    exec (.unparkComplete slot) s = .next (s.unparked slot c a n addr) := by
  have hquote : (symKind ((s.ctx c).seat a).sym = 9 && bit ((s.ctx c).seat a).sym.toNat 48) = true := by
    rw [symKind_eq_kind, hk, (bit_eq_true_iff ..).mpr hparked]
    rfl
  obtain rfl : bits ((s.ctx c).seat a).sym.toNat 47 0 = addr := (bits_low _ 47).trans haddr
  have hbase : bits (readNat s.mem (bits ((s.ctx c).seat a).sym.toNat 47 0) 8) 39 1 = 0 := hhead
  have hbad : ((readWords s.mem (bits ((s.ctx c).seat a).sym.toNat 47 0 + 8) n).any fun w => !symbolOk p.cellcount w) = false := by simpa using hok
  rw [exec_unparkComplete, execUnparkComplete, part_of_lookupA hp, hr]
  generalize hf : List.find? _ p.moves = move
  obtain rfl : move = some (.unpark a n) := hf.symm.trans hm
  refine (if_neg ?_).trans ((if_neg ?_).trans ((if_neg ?_).trans ((if_neg ?_).trans rfl)))
  · simp [hquote]
  · simp [hex]
  · simp [hclean]
  · simp [hbase, hbad]

/-- What the end of an unpark leaves beside the seats. -/
theorem unparked_frame (s : State) (slot c a n addr : Nat) :
    (s.unparked slot c a n addr).insts = s.insts ∧ (s.unparked slot c a n addr).segs = s.segs ∧ (s.unparked slot c a n addr).mem = s.mem ∧
      (s.unparked slot c a n addr).scr = s.scr := by
  have h := endMove_frame s slot c (.unpark a n)
  obtain ⟨-, hi, hg, hm, -⟩ := h.frame
  simp only [State.unparked, State.modCtx_insts, State.modCtx_segs, State.modCtx_mem, State.modCtx_scr, hi, hg, hm, h.scr, and_self]

/-- The park area once a record has been read back. -/
theorem parks_unparked (s : State) (slot c a n addr : Nat) :
    ((s.unparked slot c a n addr).ctx c).parks = (s.ctx c).parks.filter fun r => r.addr ≠ addr := by
  rw [State.unparked, ctx_modCtx_self, ctx_modCtx_self, ctx_endMove, freeze_eq]
  simp only [parks_foldl_setSeat]
  rfl

/-- A reservation that is given up leaves the symbol of its seat. -/
theorem sym_unreserve {x : Ctx} (h : sortedA x.row = true) (q : Nat) : (x.unreserve.seat q).sym = (x.seat q).sym := by
  rw [Ctx.unreserve, seat_mapSeats (f := fun p => if p.reserved = some 0 then { p with reserved := none } else p) h rfl]
  split
  · rfl
  · rfl

/-- The symbols that the end of an unpark leaves. -/
theorem sym_unparked (hrow : sortedA (s.ctx c).row = true) (slot a n addr q : Nat) :
    (((s.unparked slot c a n addr).ctx c).seat q).sym =
      if a ≤ q ∧ q < a + n then (unparkedSeat ((s.ctx c).seat a) ((readWords s.mem (addr + 8) n).getD (q - a) 0#64)).sym
      else ((s.ctx c).seat q).sym := by
  have hlen : (readWords s.mem (addr + 8) n).length = n := by rw [readWords_eq_map]; simp
  have hseat := seat_foldl_zipIdx (unparkedSeat ((s.ctx c).seat a)) (readWords s.mem (addr + 8) n) a 0
    ((s.ctx c).freeze false (Move.unpark a n).seats).unreserve q
  simp only [hlen, Nat.add_zero] at hseat
  rw [State.unparked, ctx_modCtx_self, ctx_modCtx_self, ctx_endMove]
  refine (congrArg SeatState.sym hseat).trans ?_
  by_cases hq : a ≤ q ∧ q < a + n
  · rw [if_pos hq, if_pos hq]
  · rw [if_neg hq, if_neg hq, sym_unreserve (sortedA_freeze hrow ..), sym_freeze]

/-- A well-formed symbol of a record is raised by the level of its parked symbol. -/
theorem unparkedSeat_sym {n : Nat} {w : Word} (h : symbolOk n w = true) (q : SeatState) : (unparkedSeat q w).sym = raiseLevel (level q.sym) w := by
  unfold unparkedSeat raiseLevel
  split
  next hk =>
    have hw : w.toNat = 0 ∧ flagsOk w = true := by simpa [symbolOk, payloadOk, hk] using h
    exact (BitVec.eq_of_toNat_eq hw.1).symm
  next hk => rfl

end Sys2Proof.Machine
end

section
/-!
A tile's header and its copy (O45). One proof is elaborated at a time: the threads of hundreds of
proofs at once pass the memory that a check of the whole text may take.
-/

set_option Elab.async false

namespace Sys2Proof.Machine

open Sys2Proof.Claims

variable {s t : State} {slot c a : Nat} {p : Part}

/-! ## Headers and handles (06 R140, R141) -/

theorem tyOfCode_code (t : Ty) : Ty.ofCode t.code = some t := by cases t <;> rfl

theorem tyCode_lt (t : Ty) : t.code < 32 := by cases t <;> decide

/-- A new header as a number. -/
theorem newHeader_toNat {t : Ty} {rows cols base count : Nat} (band : BitVec 16) (hrows : rows ≤ 256) (hcols : cols ≤ 256) (hbase : base < 1024)
    (hcount : count < 1024) : (newHeader t rows cols base count band).toNat =
      2 ^ 63 + t.code * 2 ^ 52 + (rows - 1) * 2 ^ 44 + (cols - 1) * 2 ^ 36 + base * 2 ^ 26 + count * 2 ^ 16 + band.toNat := by
  have ht := tyCode_lt t
  have hb := band.isLt
  rw [newHeader, BitVec.toNat_ofNat, Nat.mod_eq_of_lt]
  omega

/-- A header that is new but for its dirty bit reads as it was made. -/
theorem ofWords_of_toNat {t : Ty} {rows cols base count d : Nat} {band : BitVec 16} {w₀ w₁ : Word} (hrows : 1 ≤ rows ∧ rows ≤ 256)
    (hcols : 1 ≤ cols ∧ cols ≤ 256) (hbase : base < 1024) (hcount : count < 1024) (hd : d < 2)
    (hw : w₀.toNat = 2 ^ 63 + d * 2 ^ 62 + t.code * 2 ^ 52 + (rows - 1) * 2 ^ 44 + (cols - 1) * 2 ^ 36 + base * 2 ^ 26 + count * 2 ^ 16 + band.toNat) :
    let h := HdrView.ofWords w₀ w₁
    h.valid = true ∧ h.dirty = decide (d = 1) ∧ h.ty = t ∧ h.rows = rows ∧ h.cols = cols ∧ h.base = base ∧ h.band = band := by
  have ht := tyCode_lt t
  have hb := band.isLt
  have hcode : bits w₀.toNat 56 52 = t.code := by simp only [bits]; omega
  have hband : w₀.toNat % 2 ^ 16 = band.toNat := by omega
  refine ⟨?_, ?_, ?_, ?_, ?_, ?_, ?_⟩
  · simp only [HdrView.ofWords, bit]
    exact decide_eq_true (by omega)
  · simp only [HdrView.ofWords, bit]
    exact decide_eq_decide.mpr (by omega)
  · simp only [HdrView.ofWords, hcode, tyOfCode_code, Option.getD_some]
  · simp only [HdrView.ofWords, bits]
    omega
  · simp only [HdrView.ofWords, bits]
    omega
  · simp only [HdrView.ofWords, bits]
    omega
  · exact BitVec.eq_of_toNat_eq (by simpa [HdrView.ofWords] using hband)

/-- The fields of a header lie in their ranges. -/
theorem ofWords_range (w₀ w₁ : Word) : let h := HdrView.ofWords w₀ w₁
    (1 ≤ h.rows ∧ h.rows ≤ 256) ∧ (1 ≤ h.cols ∧ h.cols ≤ 256) ∧ h.owner < 256 := by
  simp only [HdrView.ofWords, bits]
  omega

/-- The low field of a symbol, replaced. -/
theorem setBits_low (w : Word) (n : Nat) : (setBits w 19 0 n).toNat = w.toNat / 2 ^ 20 * 2 ^ 20 + n % 2 ^ 20 := by
  have := w.isLt
  simp only [setBits, bits, BitVec.toNat_ofNat]
  omega

/-- The lowest free place lies in its ranges (09 R201). -/
theorem freePlace_lt {held : List (Nat × Nat × Nat)} {count i b : Nat} (h : freePlace held count = some (i, b)) : i < 64 ∧ b + count ≤ 640 := by
  unfold freePlace at h
  dsimp only at h
  split at h
  next i' b' hi hb =>
    cases h
    have hi := List.mem_range.mp (List.mem_of_find?_eq_some hi)
    have hb := List.mem_range.mp (List.mem_of_find?_eq_some hb)
    omega
  next => cases h

/-- With nothing held the first header and the first granules are free. -/
theorem freePlace_nil {count : Nat} (h : count ≤ 640) : freePlace [] count = some (0, 0) := by
  have hbase : (List.range (641 - count)).find? (fun _ => true) = some 0 := by
    rw [show 641 - count = 640 - count + 1 by omega, List.range_succ_eq_map]
    rfl
  have hindex : (List.range 64).find? (fun _ => true) = some 0 := rfl
  simp [freePlace, hbase, hindex]

end Sys2Proof.Machine
end

section
/-!
The end of a tidy copy (O45). One proof is elaborated at a time: the threads of hundreds of
proofs at once pass the memory that a check of the whole text may take.
-/

set_option Elab.async false

namespace Sys2Proof.Machine

open Sys2Proof.Claims

variable {s t : State} {slot c a : Nat} {p : Part}

/-! ## What the end of a move leaves of tiles and scratch -/

theorem endMove_sidesKept (s : State) (slot c : Nat) (m : Move) : SidesKept s (s.endMove slot c m) :=
  ((SidesKept.refl s).modCtx fun x => by rw [freeze_eq]; exact ⟨rfl, rfl⟩).trans (endMove_frame s slot c m).sidesKept

theorem cell_endMove (s : State) (slot c : Nat) (m : Move) (k : Nat) : (s.endMove slot c m).cell c k = s.cell c k := by
  rw [State.cell, ctx_endMove, freeze_eq]
  rfl

theorem committedTile_endMove (s : State) (slot c : Nat) (m : Move) (h : Nat) : (s.endMove slot c m).committedTile c h = s.committedTile c h := by
  simp only [State.committedTile, cell_endMove]

theorem poisonedAt_endMove (s : State) (slot c : Nat) (m : Move) (k lo hi : Nat) :
    (s.endMove slot c m).poisonedAt c k lo hi = s.poisonedAt c k lo hi := by
  have hp : (s.endMove slot c m).poison = s.poison := by
    obtain ⟨_, _, h⟩ := endMove_frame s slot c m
    rw [h]
    rfl
  simp only [State.poisonedAt, State.poisonKey, (endMove_sidesKept s slot c m).scrAddr, hp]

theorem cellHeld_endMove (s : State) (slot c : Nat) (m : Move) (k : Nat) : (s.endMove slot c m).cellHeld c k = s.cellHeld c k := by
  obtain ⟨-, hi, -⟩ := (endMove_frame s slot c m).frame
  simp only [State.cellHeld, cell_endMove, hi, State.modCtx_insts]

/-! ## Tidying a tile (03 R80) -/

/-- The header write that makes the copy of a tile. -/
def copyDelta (s : State) (c cell idx i b : Nat) (h : HdrView) : HdrDelta :=
  { HdrDelta.none i with
    alloc := some (newHeader h.ty h.rows h.cols b h.granules h.band)
    setDirty := h.dirty
    producer := some (getD Producer.none (s.cell c cell).prods idx) }

/-- The header write that frees a tile. -/
def freedDelta (idx : Nat) : HdrDelta := { HdrDelta.none idx with freed := true }

/-- The state once the tile `idx` of a cell is copied to the place `i`, `b` of the cell `a`: the symbol of seat `a` names the copy, and the
old header is free. -/
def State.tidied (s : State) (c a cell idx i b : Nat) (h : HdrView) : State :=
  ((((s.modCell c a fun x => x.applyDelta c (copyDelta s c cell idx i b h)).pokeSide c a (b * 64)
    (readBytes s.scr (s.scrAddr c cell (h.base * 64)) (h.granules * 64))).modCell c cell fun x =>
      x.applyDelta c (freedDelta idx)).modCtx c fun x =>
        x.setSeat a { x.seat a with sym := setBits (x.seat a).sym 19 0 (handleOf a x.home i) })

theorem exec_tidyCopyComplete_eq_tidied {old cell idx i b : Nat} {h : HdrView} (hp : lookupA s.parts slot = some p) (hr : p.running = some c)
    (hm : p.moves.find? (fun m => match m with | .tidy .. => true | _ => false) = some (.tidy a old))
    (htile : s.committedTile c old = some (cell, idx, h)) (hk : kind ((s.ctx c).seat a).sym = 6)
    (hold : ((s.ctx c).seat a).sym.toNat % 2 ^ 20 = old) (hclean : s.poisonedAt c cell h.base (h.base + h.count - 1) = false)
    (hfree : freePlace (s.cellHeld c a) h.granules = some (i, b)) (hg : ∀ g ∈ s.segs, g.2.ctx = c → g.2.phase ≠ .waitingWave) :
    exec (.tidyCopyComplete slot) s = .next ((s.endMove slot c (.tidy a old)).tidied c a cell idx i b h) := by
  obtain ⟨-, -, hsegs, -⟩ := (endMove_frame s slot c (.tidy a old)).frame
  have hresume : (s.endMove slot c (.tidy a old)).resumeCommits c = s.endMove slot c (.tidy a old) :=
    resumeCommits_of_none (by rw [hsegs]; exact hg)
  have hsym : (((s.endMove slot c (.tidy a old)).ctx c).seat a).sym = ((s.ctx c).seat a).sym := by rw [ctx_endMove, sym_freeze]
  have hnames : (symKind ((s.ctx c).seat a).sym ≠ 6 || bits ((s.ctx c).seat a).sym.toNat 19 0 ≠ old) = false := by
    rw [symKind_eq_kind, hk, bits_low, hold]
    simp
  rw [exec_tidyCopyComplete, execTidyCopyComplete, part_of_lookupA hp, hr]
  generalize hf : List.find? _ p.moves = move
  obtain rfl : move = some (.tidy a old) := hf.symm.trans hm
  simp only [hresume, committedTile_endMove, htile, hsym, hnames, poisonedAt_endMove, hclean, cellHeld_endMove, hfree, Bool.false_eq_true,
    if_false]
  rfl

@[simp] theorem ctx_pokeSide (s : State) (c k x j : Nat) (bs : List Byte) : (s.pokeSide c k x bs).ctx j = s.ctx j := rfl

@[simp] theorem cell_pokeSide (s : State) (c k x e j : Nat) (bs : List Byte) : (s.pokeSide c k x bs).cell e j = s.cell e j := rfl

@[simp] theorem insts_pokeSide (s : State) (c k x : Nat) (bs : List Byte) : (s.pokeSide c k x bs).insts = s.insts := rfl

@[simp] theorem mem_pokeSide (s : State) (c k x : Nat) (bs : List Byte) : (s.pokeSide c k x bs).mem = s.mem := rfl

@[simp] theorem scr_pokeSide (s : State) (c k x : Nat) (bs : List Byte) :
    (s.pokeSide c k x bs).scr = writeBytes s.scr (s.scrAddr c k x) bs := rfl

@[simp] theorem scrAddr_pokeSide (s : State) (c k x e j y : Nat) (bs : List Byte) : (s.pokeSide c k x bs).scrAddr e j y = s.scrAddr e j y := rfl

@[simp] theorem scrAddr_modCell (s : State) (c k e j y : Nat) (f : CellCtx → CellCtx) : (s.modCell c k f).scrAddr e j y = s.scrAddr e j y :=
  (SidesKept.refl s).modCell.scrAddr ..

@[simp] theorem seat_modCell (s : State) (c k q : Nat) (f : CellCtx → CellCtx) : ((s.modCell c k f).ctx c).seat q = (s.ctx c).seat q := by
  rw [State.modCell, ctx_modCtx_self]
  rfl

@[simp] theorem home_modCell (s : State) (c k : Nat) (f : CellCtx → CellCtx) : ((s.modCell c k f).ctx c).home = (s.ctx c).home := by
  rw [State.modCell, ctx_modCtx_self]

/-- Setting a seat leaves the cells. -/
theorem cell_modCtx_setSeat (s : State) (c p k : Nat) (v : Ctx → SeatState) : (s.modCtx c fun x => x.setSeat p (v x)).cell c k = s.cell c k := by
  rw [State.cell, ctx_modCtx_self]
  rfl

theorem scrAddr_modCtx_setSeat (s : State) (c p e k y : Nat) (v : Ctx → SeatState) :
    (s.modCtx c fun x => x.setSeat p (v x)).scrAddr e k y = s.scrAddr e k y := by
  have h : SidesKept s (s.modCtx c fun x => x.setSeat p (v x)) := (SidesKept.refl s).modCtx fun _ => ⟨rfl, rfl⟩
  exact h.scrAddr e k y

section
variable (s : State) (c a cell idx i b : Nat) (h : HdrView)

theorem tidied_frame : (s.tidied c a cell idx i b h).insts = s.insts ∧ (s.tidied c a cell idx i b h).mem = s.mem := by
  simp [State.tidied]

/-- The symbol of the tidied seat keeps all but its handle. -/
theorem sym_tidied : (((s.tidied c a cell idx i b h).ctx c).seat a).sym =
    setBits ((s.ctx c).seat a).sym 19 0 (handleOf a (s.ctx c).home i) := by
  rw [State.tidied, ctx_modCtx_self, seat_setSeat, if_pos rfl]
  simp

theorem scrAddr_tidied (k x : Nat) : (s.tidied c a cell idx i b h).scrAddr c k x = s.scrAddr c k x := by
  rw [State.tidied, scrAddr_modCtx_setSeat]
  simp

/-- The copy stands at its place. -/
theorem readByte_tidied {k : Nat} (hk : k < 64 * h.granules) :
    readByte (s.tidied c a cell idx i b h).scr (s.scrAddr c a (64 * b + k)) = readByte s.scr (s.scrAddr c cell (64 * h.base + k)) := by
  have hscr : (s.tidied c a cell idx i b h).scr = writeBytes s.scr (s.scrAddr c a (b * 64))
      (readBytes s.scr (s.scrAddr c cell (h.base * 64)) (h.granules * 64)) := by
    simp [State.tidied]
  rw [hscr, readByte_writeBytes, length_readBytes, Nat.mul_comm 64 b, Nat.mul_comm 64 h.base, scrAddr_add, scrAddr_add,
    if_pos (by omega), Nat.add_sub_cancel_left, readBytes_eq_map, List.getD_eq_getElem _ _ (by simp; omega)]
  simp

variable (hne : cell ≠ a)
include hne

theorem cell_tidied_copy : (s.tidied c a cell idx i b h).cell c a = (s.cell c a).applyDelta c (copyDelta s c cell idx i b h) := by
  rw [State.tidied, cell_modCtx_setSeat, cell_modCell, if_neg hne.symm, cell_pokeSide, cell_modCell, if_pos rfl]

theorem cell_tidied_old : (s.tidied c a cell idx i b h).cell c cell = (s.cell c cell).applyDelta c (freedDelta idx) := by
  rw [State.tidied, cell_modCtx_setSeat, cell_modCell, if_pos rfl, cell_pokeSide, cell_modCell, if_neg hne]

end

end Sys2Proof.Machine
end

section
/-!
What the ends of storage moves leave, and the statement on them (O45). One proof is elaborated at a time: the threads of hundreds of
proofs at once pass the memory that a check of the whole text may take.
-/

set_option Elab.async false

namespace Sys2Proof.Machine

open Sys2Proof.Claims

variable {s : State} {slot c a : Nat} {p : Part}

/-! ## The two tiles of a tidy copy (03 R80) -/

/-- A header of a cell after a header write. -/
theorem hdrs_applyDelta (x : CellCtx) (owner : Nat) (δ : HdrDelta) (k : Nat) : getD (0#64, 0#64) (x.applyDelta owner δ).hdrs k =
    if k = δ.index then δ.apply owner (getD (0#64, 0#64) x.hdrs δ.index) else getD (0#64, 0#64) x.hdrs k := getD_setD ..

/-- A header that is freed names no tile. -/
theorem valid_of_freed (idx owner : Nat) (w : Word × Word) :
    (HdrView.ofWords ((freedDelta idx).apply owner w).1 ((freedDelta idx).apply owner w).2).valid = false := by
  have := w.1.isLt
  have hfree : ((freedDelta idx).apply owner w).1 = setBits w.1 63 63 0 := rfl
  rw [hfree]
  simp only [HdrView.ofWords, bit, setBits, bits, BitVec.toNat_ofNat]
  exact decide_eq_false (by omega)

/-- The header that makes a copy reads as the tile's, at the new base. -/
theorem ofWords_copyDelta {cell idx i b : Nat} {h : HdrView} {w₀ w₁ : Word} (hh : h = HdrView.ofWords w₀ w₁) (hc : c < 256)
    (hb : b + h.granules ≤ 640) (w : Word × Word) :
    let u := HdrView.ofWords ((copyDelta s c cell idx i b h).apply c w).1 ((copyDelta s c cell idx i b h).apply c w).2
    u.valid = true ∧ u.owner = c ∧ u.ty = h.ty ∧ u.rows = h.rows ∧ u.cols = h.cols ∧ u.band = h.band ∧ u.dirty = h.dirty ∧ u.base = b := by
  obtain ⟨hrows, hcols, -⟩ := ofWords_range w₀ w₁
  rw [← hh] at hrows hcols
  have hnew := newHeader_toNat (t := h.ty) h.band hrows.2 hcols.2 (base := b) (count := h.granules) (by omega) (by omega)
  have hword : ((copyDelta s c cell idx i b h).apply c w).1.toNat = 2 ^ 63 + bitNat h.dirty * 2 ^ 62 + h.ty.code * 2 ^ 52 + (h.rows - 1) * 2 ^ 44 +
      (h.cols - 1) * 2 ^ 36 + b * 2 ^ 26 + h.granules * 2 ^ 16 + h.band.toNat := by
    cases hd : h.dirty with
    | false =>
      have hfirst : ((copyDelta s c cell idx i b h).apply c w).1 = newHeader h.ty h.rows h.cols b h.granules h.band := by
        simp [copyDelta, HdrDelta.apply, HdrDelta.none, hd]
      rw [hfirst, hnew, bitNat, if_neg Bool.false_ne_true, Nat.zero_mul, Nat.add_zero]
    | true =>
      have hfirst : ((copyDelta s c cell idx i b h).apply c w).1 = setBits (newHeader h.ty h.rows h.cols b h.granules h.band) 62 62 1 := by
        simp [copyDelta, HdrDelta.apply, HdrDelta.none, hd]
      have := tyCode_lt h.ty
      have := h.band.isLt
      rw [hfirst, bitNat, if_pos rfl]
      simp only [setBits, bits, BitVec.toNat_ofNat, hnew]
      omega
  have howner : ((copyDelta s c cell idx i b h).apply c w).2 = BitVec.ofNat 64 (c * 2 ^ 56) := rfl
  obtain ⟨hvalid, hdirty, hty, hr, hcl, hbase, hband⟩ := ofWords_of_toNat (w₁ := ((copyDelta s c cell idx i b h).apply c w).2) hrows hcols
    (by omega) (by omega) (by cases h.dirty <;> decide) hword
  refine ⟨hvalid, ?_, hty, hr, hcl, hband, ?_, hbase⟩
  · rw [howner]
    simp only [HdrView.ofWords, bits, BitVec.toNat_ofNat]
    omega
  · rw [hdirty]
    cases h.dirty <;> rfl

/-- A handle of a side that a cell has names its cell and its header. -/
theorem bits_handleOf {side i : Nat} (hi : i < 64) (hside : side < 2) : bits (handleOf a side i) 19 7 = a % 8192 ∧ bits (handleOf a side i) 5 0 = i := by
  simp only [bits, handleOf]
  omega

/-- The tile that a handle names is read from its header. -/
theorem committedTile_of_header {n cell i : Nat} (hcell : bits n 19 7 = cell) (hi : bits n 5 0 = i)
    {u : HdrView} (hu : u = HdrView.ofWords (getD (0#64, 0#64) (s.cell c cell).hdrs i).1 (getD (0#64, 0#64) (s.cell c cell).hdrs i).2) :
    s.committedTile c n = if u.valid && u.owner = c then some (cell, i, u) else none := by
  subst hu hcell hi
  rfl

/-- A committed tile is read from the header that its handle names, and its owner is a context number. -/
theorem committedTile_spec {n cell i : Nat} {h : HdrView} (ht : s.committedTile c n = some (cell, i, h)) :
    bits n 19 7 = cell ∧ bits n 5 0 = i ∧ c < 256 ∧
      h = HdrView.ofWords (getD (0#64, 0#64) (s.cell c cell).hdrs i).1 (getD (0#64, 0#64) (s.cell c cell).hdrs i).2 := by
  unfold State.committedTile at ht
  dsimp only at ht
  split at ht
  next hv =>
    cases ht
    obtain ⟨-, -, howner⟩ := ofWords_range (getD (0#64, 0#64) (s.cell c (bits n 19 7)).hdrs (bits n 5 0)).1
      (getD (0#64, 0#64) (s.cell c (bits n 19 7)).hdrs (bits n 5 0)).2
    have hc := of_decide_eq_true ((Bool.and_eq_true ..).mp hv).2
    exact ⟨rfl, rfl, by omega, rfl⟩
  next => cases ht

section
variable {old cell idx i b : Nat} {h : HdrView} (ht : s.committedTile c old = some (cell, idx, h)) (hne : cell ≠ a)
include ht hne

/-- The old handle of a tidied tile names no tile. -/
theorem committedTile_tidied_old (i b : Nat) : (s.tidied c a cell idx i b h).committedTile c old = none := by
  obtain ⟨hcell, hidx, -⟩ := committedTile_spec ht
  have hword : getD (0#64, 0#64) ((s.tidied c a cell idx i b h).cell c cell).hdrs idx =
      (freedDelta idx).apply c (getD (0#64, 0#64) (s.cell c cell).hdrs idx) := by
    rw [cell_tidied_old _ _ _ _ _ _ _ _ hne, hdrs_applyDelta]
    exact if_pos rfl
  rw [committedTile_of_header hcell hidx (congrArg (fun w : Word × Word => HdrView.ofWords w.1 w.2) hword).symm, valid_of_freed]
  rfl

/-- The handle of a tidied seat names the copy. -/
theorem committedTile_tidied_copy (ha : a < 8192) (hside : (s.ctx c).home < 2) (hi : i < 64) (hb : b + h.granules ≤ 640) :
    ∃ u : HdrView, (s.tidied c a cell idx i b h).committedTile c (handleOf a (s.ctx c).home i) = some (a, i, u) ∧
      u.ty = h.ty ∧ u.rows = h.rows ∧ u.cols = h.cols ∧ u.band = h.band ∧ u.dirty = h.dirty ∧ u.base = b := by
  obtain ⟨-, -, hc, hh⟩ := committedTile_spec ht
  obtain ⟨hcell, hidx⟩ := bits_handleOf (a := a) hi hside
  rw [Nat.mod_eq_of_lt ha] at hcell
  have hword : getD (0#64, 0#64) ((s.tidied c a cell idx i b h).cell c a).hdrs i =
      (copyDelta s c cell idx i b h).apply c (getD (0#64, 0#64) (s.cell c a).hdrs i) := by
    rw [cell_tidied_copy _ _ _ _ _ _ _ _ hne, hdrs_applyDelta]
    exact if_pos rfl
  obtain ⟨hvalid, howner, hu⟩ := ofWords_copyDelta (s := s) (cell := cell) (idx := idx) (i := i) hh hc hb (getD (0#64, 0#64) (s.cell c a).hdrs i)
  refine ⟨_, ?_, hu⟩
  rw [committedTile_of_header hcell hidx (congrArg (fun w : Word × Word => HdrView.ofWords w.1 w.2) hword).symm, hvalid, howner]
  simp

end

/-! ## What the three events leave -/

/-- The end of a park writes its record, and one quoted symbol is left of the candidate. -/
theorem exec_parkWriteComplete_of_far {b addr g : Nat} (hp : lookupA s.parts slot = some p) (hr : p.running = some c)
    (hm : p.moves.find? (fun m => match m with | .park .. => true | _ => false) = some (.park a b addr g)) (hab : a ≤ b)
    (hk : kind ((s.ctx c).seat a).sym = 1) :
    let l := level ((s.ctx c).seat a).sym
    let ws := ((s.ctx c).row.filter fun q => a ≤ q.1 && q.1 ≤ b && kind q.2.sym ≠ 0).map fun q => q.2.sym
    farExists addr (8 * ws.length + 8) = true →
    ∃ t : State, exec (.parkWriteComplete slot) s = .next t ∧ t.insts = s.insts ∧ t.segs = s.segs ∧ t.scr = s.scr ∧
      performed s t addr (wordBytes (BitVec.ofNat 64 (ws.length * 2 ^ 48 + l * 2 ^ 40 + 1) :: ws.map fun w => replaced w 59 52 (level w - l))) ∧
      ∀ q, (t.ctx c).seat q =
        if q = a then { SeatState.free with
          sym := BitVec.ofNat 64 (9 * 2 ^ 60 + l * 2 ^ 52 + 2 ^ 48 + addr % 2 ^ 48), launch := ((s.ctx c).seat a).launch }
        else if a ≤ q ∧ q ≤ b then SeatState.free else (s.ctx c).seat q := by
  intro l ws hex
  have hws : (s.ctx c).symbolsIn a b = ws := symbolsIn_eq ..
  have hrec : parkedRecord (s.ctx c) a b =
      BitVec.ofNat 64 (ws.length * 2 ^ 48 + l * 2 ^ 40 + 1) :: ws.map fun w => replaced w 59 52 (level w - l) := by
    rw [parkedRecord, hws, recordHeader_parked]
  obtain ⟨hi, hg, hscr, hmem⟩ := parked_frame s slot c a b addr g
  rw [hrec] at hmem
  refine ⟨_, exec_parkWriteComplete_eq_parked hp hr hm hk (hws.symm ▸ hex), hi, hg, hscr, hmem, fun q => ?_⟩
  rw [seat_parked s slot c addr g hab q, quotedWord_parked]

/-- The end of an unpark puts the symbols of the record back, raised by the level of the parked symbol, and gives up the record. -/
theorem exec_unparkComplete_of_record {n : Nat} (hp : lookupA s.parts slot = some p) (hr : p.running = some c)
    (hm : p.moves.find? (fun m => match m with | .unpark .. => true | _ => false) = some (.unpark a n))
    (hrow : sortedA (s.ctx c).row = true) :
    let q := (s.ctx c).seat a
    let addr := q.sym.toNat % 2 ^ 48
    let ws := (List.range n).map fun k => BitVec.ofNat 64 (readNat s.mem (addr + 8 + 8 * k) 8)
    kind q.sym = 9 → q.sym.toNat / 2 ^ 48 % 2 = 1 → farExists addr (8 * n + 8) = true → s.farPoisoned addr (8 * n + 8) = false →
    readNat s.mem addr 8 / 2 % 2 ^ 39 = 0 → ws.all (symbolOk p.cellcount) = true →
    ∃ t : State, exec (.unparkComplete slot) s = .next t ∧ t.insts = s.insts ∧ t.segs = s.segs ∧ t.mem = s.mem ∧ t.scr = s.scr ∧
      (∀ k, k < n → ((t.ctx c).seat (a + k)).sym = raiseLevel (level q.sym) (ws.getD k 0#64)) ∧
      (∀ k, k < a ∨ (a + n ≤ k ∧ a < k) → ((t.ctx c).seat k).sym = ((s.ctx c).seat k).sym) ∧
      (t.ctx c).parks = (s.ctx c).parks.filter fun r => r.addr ≠ addr := by
  intro q addr ws hk hparked hex hclean hhead hok
  have hws : readWords s.mem (addr + 8) n = ws := readWords_eq_map ..
  obtain ⟨hi, hg, hmem, hscr⟩ := unparked_frame s slot c a n addr
  refine ⟨_, exec_unparkComplete_eq_unparked hp hr hm hk hparked rfl hex hclean hhead (hws.symm ▸ hok), hi, hg, hmem, hscr, fun k hkn => ?_,
    fun k hout => ?_, parks_unparked ..⟩
  · have hlen : k < ws.length := by simpa [ws] using hkn
    rw [sym_unparked hrow, if_pos (by omega), Nat.add_sub_cancel_left, hws]
    refine unparkedSeat_sym (List.all_eq_true.mp hok _ ?_) q
    rw [List.getD_eq_getElem _ _ hlen]
    exact List.getElem_mem hlen
  · rw [sym_unparked hrow, if_neg (by omega)]

/-- The symbol that the end of a tidy copy leaves holds the handle of the copy, whatever the context's home side. -/
theorem sym_tidied_endMove (s : State) (slot c a old cell idx i b : Nat) (h : HdrView) :
    ((((s.endMove slot c (.tidy a old)).tidied c a cell idx i b h).ctx c).seat a).sym =
      setBits ((s.ctx c).seat a).sym 19 0 (handleOf a (s.ctx c).home i) := by
  rw [sym_tidied, ctx_endMove, sym_freeze, freeze_eq]

/-- The end of a tidy copy, on either side of the cells, brings a tile under its symbol and frees the old header. -/
theorem exec_tidyCopyComplete_of_side {old cell idx i b : Nat} {h : HdrView} (hp : lookupA s.parts slot = some p) (hr : p.running = some c)
    (hm : p.moves.find? (fun m => match m with | .tidy .. => true | _ => false) = some (.tidy a old))
    (htile : s.committedTile c old = some (cell, idx, h)) (hne : cell ≠ a) (ha : a < 8192) (hk : kind ((s.ctx c).seat a).sym = 6)
    (hold : ((s.ctx c).seat a).sym.toNat % 2 ^ 20 = old) (hclean : s.poisonedAt c cell h.base (h.base + h.count - 1) = false)
    (hfree : freePlace (s.cellHeld c a) h.granules = some (i, b)) (hg : ∀ g ∈ s.segs, g.2.ctx = c → g.2.phase ≠ .waitingWave)
    (hside : (s.ctx c).home < 2) :
    ∃ (t : State) (u : HdrView), exec (.tidyCopyComplete slot) s = .next t ∧ t.insts = s.insts ∧ t.mem = s.mem ∧
      ((t.ctx c).seat a).sym.toNat / 2 ^ 20 = ((s.ctx c).seat a).sym.toNat / 2 ^ 20 ∧
      t.committedTile c (((t.ctx c).seat a).sym.toNat % 2 ^ 20) = some (a, i, u) ∧
      u.ty = h.ty ∧ u.rows = h.rows ∧ u.cols = h.cols ∧ u.band = h.band ∧ u.dirty = h.dirty ∧ u.base = b ∧
      t.committedTile c old = none ∧
      ∀ k, k < 64 * h.granules → readByte t.scr (t.scrAddr c a (64 * b + k)) = readByte s.scr (s.scrAddr c cell (64 * h.base + k)) := by
  obtain ⟨-, hins, -, hmem, -⟩ := (endMove_frame s slot c (.tidy a old)).frame
  have hscr := (endMove_frame s slot c (.tidy a old)).scr
  have hkept := endMove_sidesKept s slot c (.tidy a old)
  have hhome : ((s.endMove slot c (.tidy a old)).ctx c).home = (s.ctx c).home := by rw [ctx_endMove, freeze_eq]
  have hsym := sym_tidied_endMove s slot c a old cell idx i b h
  obtain ⟨hi, hb⟩ := freePlace_lt hfree
  have hlt : handleOf a (s.ctx c).home i < 2 ^ 20 := by unfold handleOf; omega
  have htile' := (committedTile_endMove s slot c (.tidy a old) old).trans htile
  obtain ⟨u, hu, hty, hrows, hcols, hband, hdirty, hbase⟩ := committedTile_tidied_copy (i := i) (b := b) htile' hne ha (hhome ▸ hside) hi hb
  rw [hhome] at hu
  obtain ⟨hti, htm⟩ := tidied_frame (s.endMove slot c (.tidy a old)) c a cell idx i b h
  refine ⟨_, u, exec_tidyCopyComplete_eq_tidied hp hr hm htile hk hold hclean hfree hg, hti.trans hins, htm.trans hmem, ?_, ?_, hty, hrows,
    hcols, hband, hdirty, hbase, committedTile_tidied_old htile' hne i b, fun k hk => ?_⟩
  · rw [hsym, setBits_low]
    omega
  · rw [hsym, setBits_low, Nat.mod_eq_of_lt hlt]
    convert hu using 2
    omega
  · rw [scrAddr_tidied, readByte_tidied _ _ _ _ _ _ _ _ hk, hkept.scrAddr, hscr]
    rfl

/-! ## A tidy copy beside the two sides of a cell (06 R140; 23 R382) -/

/-- A row whose seat 1 holds the handle of tile 3 of cell 5, which is being tidied into cell 1. Its context has side 2 as its home, where
a cell has sides 0 and 1 only. -/
def tidyingSideTwo : State :=
  { State.reset with
    ctxs := [(0, { Ctx.absentCtx with
      home := 2
      row := [(1, { SeatState.free with sym := BitVec.ofNat 64 (6 * 2 ^ 60 + handleOf 5 0 3) })]
      cells := [(5, { CellCtx.empty with hdrs := [(3, newHeader .bf16 2 4 7 1 0x3F80#16, 0#64)] })] })]
    parts := [(0, { Part.empty 8 0 with running := some 0, moves := [.tidy 1 (handleOf 5 0 3)] })] }

/-- The tile that is being tidied. -/
theorem committedTile_tidyingSideTwo : tidyingSideTwo.committedTile 0 (handleOf 5 0 3) =
    some (5, 3, HdrView.ofWords (newHeader .bf16 2 4 7 1 0x3F80#16) 0#64) := by decide

/-- Refutes O45: its last clause leaves a context's home side free. In `tidyingSideTwo` every premise of that clause holds; the copy goes to
cell 1, and the handle that is left for it, with side 2, is 1 * 128 + 2 * 64, which names cell 2. On the two sides that a cell has the clause
holds (`exec_tidyCopyComplete_of_side`), as do the first two (`exec_parkWriteComplete_of_far`, `exec_unparkComplete_of_record`). -/
theorem not_storageMoves : ¬ Obligations.StorageMoves := by
  unfold Obligations.StorageMoves
  rintro ⟨-, -, htidy⟩
  have hheld : tidyingSideTwo.cellHeld 0 1 = [] := by decide
  have hfree : freePlace (tidyingSideTwo.cellHeld 0 1) (HdrView.ofWords (newHeader .bf16 2 4 7 1 0x3F80#16) 0#64).granules = some (0, 0) := by
    rw [hheld]
    exact freePlace_nil (by decide)
  obtain ⟨t, u, ht, -, -, -, hu, -⟩ := htidy 0 0 1 (handleOf 5 0 3) 5 3 0 0 tidyingSideTwo _ _ rfl rfl rfl committedTile_tidyingSideTwo
    (by decide) (by decide) (by decide) (by decide) (by decide) hfree (by decide)
  have hex := exec_tidyCopyComplete_eq_tidied (slot := 0) (s := tidyingSideTwo) rfl rfl rfl committedTile_tidyingSideTwo (by decide)
    (by decide) (by decide) hfree (by decide)
  obtain rfl := Host.Outcome.next.inj (hex.symm.trans ht)
  have hcell := (committedTile_spec hu).1
  rw [sym_tidied_endMove, setBits_low] at hcell
  revert hcell
  decide

end Sys2Proof.Machine
end

section
/-!
Ranking by magnitude (04 R99): the order of `outranks` is a strict order of the decoded data, so of four of them exactly two have fewer
than two before them, and `keepTwo` answers these.
-/

namespace Sys2Proof.Machine

open Sys2Proof.Claims

/-! ## Ranking (04 R99) -/

/-- How many of the first `n` data have a smaller key than datum `i`. -/
def smallerBelow {α : Type} [LinearOrder α] (f : ℕ → α) (n i : ℕ) : ℕ := ((Finset.range n).filter fun j => f j < f i).card

section
variable {α : Type} [LinearOrder α] {f : ℕ → α} {n : ℕ}

theorem smallerBelow_lt_of_lt {i j : ℕ} (hi : i < n) (h : f i < f j) : smallerBelow f n i < smallerBelow f n j := by
  refine Finset.card_lt_card ((Finset.ssubset_iff_of_subset fun l hl => ?_).mpr ⟨i, by simp [hi, h], by simp⟩)
  obtain ⟨hl, hli⟩ := Finset.mem_filter.mp hl
  exact Finset.mem_filter.mpr ⟨hl, hli.trans h⟩

theorem smallerBelow_lt {i : ℕ} (hi : i < n) : smallerBelow f n i < n := by
  have h : smallerBelow f n i < (Finset.range n).card :=
    Finset.card_lt_card ((Finset.ssubset_iff_of_subset (Finset.filter_subset ..)).mpr ⟨i, by simp [hi], by simp⟩)
  rwa [Finset.card_range] at h

/-- Data with distinct keys take the positions 0 to n − 1. -/
theorem image_smallerBelow (hf : Function.Injective f) :
    Set.InjOn (smallerBelow f n) (Finset.range n) ∧ (Finset.range n).image (smallerBelow f n) = Finset.range n := by
  have hinj : Set.InjOn (smallerBelow f n) (Finset.range n) := fun i hi j hj h => by
    rcases lt_trichotomy (f i) (f j) with hlt | heq | hlt
    · exact absurd h (smallerBelow_lt_of_lt (by simpa using hi) hlt).ne
    · exact hf heq
    · exact absurd h (smallerBelow_lt_of_lt (by simpa using hj) hlt).ne'
  refine ⟨hinj, Finset.eq_of_subset_of_card_le (fun x hx => ?_) (Finset.card_image_of_injOn hinj).ge⟩
  obtain ⟨i, hi, rfl⟩ := Finset.mem_image.mp hx
  exact Finset.mem_range.mpr (smallerBelow_lt (Finset.mem_range.mp hi))

/-- Of `n` data with distinct keys, exactly `k` have fewer than `k` before them. -/
theorem card_filter_smallerBelow_lt (hf : Function.Injective f) {k : ℕ} (hk : k ≤ n) :
    ((Finset.range n).filter fun i => smallerBelow f n i < k).card = k := by
  obtain ⟨hinj, himage⟩ := image_smallerBelow (n := n) hf
  calc _ = (((Finset.range n).filter fun i => smallerBelow f n i < k).image (smallerBelow f n)).card :=
        (Finset.card_image_of_injOn (hinj.mono fun i hi => (Finset.mem_filter.mp hi).1)).symm
    _ = (((Finset.range n).image (smallerBelow f n)).filter (· < k)).card := by rw [Finset.filter_image]
    _ = (Finset.range k).card := by
      rw [himage]
      exact congrArg _ (Finset.ext fun x => by simp only [Finset.mem_filter, Finset.mem_range]; omega)
    _ = k := Finset.card_range k

end

/-- A datum whose fraction has a positive denominator. -/
def Fp.Proper : Fp → Prop
  | .fin r => 0 < r.den
  | _ => True

/-- The magnitude by which R99 ranks: a NaN above the infinities, and those above every finite value. -/
def Fp.rank : Fp → WithTop (WithTop ℚ)
  | .nan => ⊤
  | .inf _ => ((⊤ : WithTop ℚ) : WithTop (WithTop ℚ))
  | .fin r => ((((r.num : ℚ) / r.den : ℚ) : WithTop ℚ) : WithTop (WithTop ℚ))

theorem outranks_iff {a b : Fp} (ha : a.Proper) (hb : b.Proper) : outranks a b = true ↔ b.rank < a.rank := by
  cases a with
  | nan => cases b <;> simp [outranks, Fp.rank]
  | inf => cases b <;> simp [outranks, Fp.rank]
  | fin x =>
    cases b with
    | nan => simp [outranks, Fp.rank]
    | inf => simp [outranks, Fp.rank, WithTop.coe_lt_coe]
    | fin y =>
      have hx : (0 : ℚ) < x.den := Nat.cast_pos.mpr ha
      have hy : (0 : ℚ) < y.den := Nat.cast_pos.mpr hb
      have hq : (y.num : ℚ) * x.den < x.num * y.den ↔ (y.num : ℤ) * x.den < x.num * y.den := by exact_mod_cast Iff.rfl
      simp [outranks, Fp.rank, div_lt_div_iff₀ hy hx, Frac.lt, Frac.abs, Frac.snum, hq]

/-- The order of R99 among numbered data: the higher rank first, and of equal ranks the lower number. -/
def rankKey (value : ℕ → Fp) (i : ℕ) : (WithTop (WithTop ℚ))ᵒᵈ ×ₗ ℕ := toLex (OrderDual.toDual (value i).rank, i)

theorem rankKey_injective (value : ℕ → Fp) : Function.Injective (rankKey value) := fun _ _ h => congrArg (fun p => (ofLex p).2) h

/-- Whether datum j goes before datum i. -/
def goesBefore (value : ℕ → Fp) (j i : ℕ) : Bool :=
  decide (j ≠ i) && (outranks (value j) (value i) || (!outranks (value i) (value j) && decide (j < i)))

theorem goesBefore_iff {value : ℕ → Fp} (hv : ∀ i, (value i).Proper) {j i : ℕ} :
    goesBefore value j i = true ↔ rankKey value j < rankKey value i := by
  have h₁ := outranks_iff (hv j) (hv i)
  have h₂ := outranks_iff (hv i) (hv j)
  simp only [goesBefore, rankKey, Prod.Lex.toLex_lt_toLex, OrderDual.toDual_lt_toDual, EmbeddingLike.apply_eq_iff_eq, Bool.and_eq_true,
    Bool.or_eq_true, Bool.not_eq_true', decide_eq_true_eq, ← Bool.not_eq_true, h₁, h₂, not_lt]
  constructor
  · rintro ⟨-, h | ⟨hle, hlt⟩⟩
    · exact .inl h
    · exact (lt_or_eq_of_le hle).imp_right fun h => ⟨h.symm, hlt⟩
  · rintro (h | ⟨heq, hlt⟩)
    · exact ⟨fun he => (he ▸ h).false, .inl h⟩
    · exact ⟨hlt.ne, .inr ⟨heq.ge, hlt⟩⟩

/-- The numbers, of four data, that have fewer than two before them. -/
def firstTwo (value : ℕ → Fp) : List ℕ :=
  (List.range 4).filter fun i => decide (((List.range 4).filter fun j => goesBefore value j i).length < 2)

theorem length_firstTwo {value : ℕ → Fp} (hv : ∀ i, (value i).Proper) : (firstTwo value).length = 2 := by
  have hcount (i : ℕ) : ((List.range 4).filter fun j => goesBefore value j i).length = smallerBelow (rankKey value) 4 i := by
    rw [List.filter_congr fun j _ => Bool.eq_iff_iff.mpr ((goesBefore_iff hv).trans (decide_eq_true_iff).symm)]
    rfl
  simp only [firstTwo, hcount]
  exact card_filter_smallerBelow_lt (rankKey_injective value) (by decide)

/-- `keepTwo` answers the two of four data that have fewer than two before them. -/
theorem keepTwo_eq (value : ℕ → Fp) :
    keepTwo ((List.range 4).map value) = ((firstTwo value).getD 0 0, (firstTwo value).getD 1 1) := by
  have hat {i : ℕ} (hi : i ∈ List.range 4) : ((List.range 4).map value).getD i .nan = value i := by
    simp [List.getD, List.mem_range.mp hi]
  have hkept : ((List.range 4).filter fun i => decide (((List.range 4).filter fun j => decide (j ≠ i) &&
      (outranks (((List.range 4).map value).getD j .nan) (((List.range 4).map value).getD i .nan) ||
        (!outranks (((List.range 4).map value).getD i .nan) (((List.range 4).map value).getD j .nan) && decide (j < i)))).length < 2)) =
      firstTwo value :=
    List.filter_congr fun i hi => by
      rw [List.filter_congr fun j hj => by rw [hat hi, hat hj]]
      rfl
  simp only [keepTwo, hkept]

/-- The two numbers that `keepTwo` answers. -/
theorem keepTwo_spec {value : ℕ → Fp} (hv : ∀ i, (value i).Proper) :
    let p := keepTwo ((List.range 4).map value)
    p.1 < 4 ∧ p.2 < 4 ∧ ∀ i < 4, (i = p.2 ∨ i = p.1) ↔ ((List.range 4).filter fun j => goesBefore value j i).length < 2 := by
  obtain ⟨a, b, hab⟩ := List.length_eq_two.mp (length_firstTwo hv)
  have hmem (i : ℕ) : i ∈ firstTwo value ↔ i < 4 ∧ ((List.range 4).filter fun j => goesBefore value j i).length < 2 := by
    simp [firstTwo]
  rw [keepTwo_eq, hab]
  rw [hab] at hmem
  refine ⟨((hmem a).mp (by simp)).1, ((hmem b).mp (by simp)).1, fun i hi => ?_⟩
  have := hmem i
  simp only [List.mem_cons, List.not_mem_nil, or_false, hi, true_and] at this
  rw [← this]
  exact or_comm

/-! ## Decoded data (04 R84 to R90) -/

theorem Frac.scaled_den_pos (neg : Bool) (n : ℕ) (e : ℤ) : 0 < (Frac.scaled neg n e).den := by
  unfold Frac.scaled
  split
  · exact Nat.one_pos
  · exact Nat.two_pow_pos _

theorem FFmt.magnitude_proper (f : FFmt) (neg : Bool) (c : ℕ) : (Fp.fin (f.magnitude neg c)).Proper := by
  unfold FFmt.magnitude
  extract_lets
  split
  · exact Frac.scaled_den_pos ..
  · exact Frac.scaled_den_pos ..

theorem decodeFp_proper (t : Ty) (code : ℕ) : (decodeFp t code).Proper := by
  unfold decodeFp
  extract_lets f c neg
  split
  · split
    · trivial
    · split
      · trivial
      · exact FFmt.magnitude_proper ..
  · split
    · trivial
    · exact FFmt.magnitude_proper ..

theorem Fp.proper_ite {c : Prop} [Decidable c] {a b : Fp} (ha : a.Proper) (hb : b.Proper) : (if c then a else b).Proper := by
  split
  · exact ha
  · exact hb

theorem Fp.mul_proper {a b : Fp} (ha : a.Proper) (hb : b.Proper) : (a.mul b).Proper := by
  cases a with
  | nan => trivial
  | inf x =>
    cases b with
    | nan | inf => trivial
    | fin r => exact Fp.proper_ite trivial trivial
  | fin x =>
    cases b with
    | nan => trivial
    | inf y => exact Fp.proper_ite trivial trivial
    | fin y => exact Nat.mul_pos ha hb

theorem scaleValue_proper {c : ℕ} {r : Frac} (h : scaleValue c = some r) : (Fp.fin r).Proper := by
  unfold scaleValue at h
  split at h
  · cases h
  · split at h
    · cases h
      exact Nat.succ_pos _
    · cases h
      exact Frac.scaled_den_pos ..

theorem weightValue_proper (t : Ty) (code scale : ℕ) (band : BitVec 16) : (weightValue t code scale band).Proper := by
  unfold weightValue
  split
  · unfold e2m1Value
    split
    · trivial
    next r hr => exact Fp.mul_proper (Fp.mul_proper (decodeFp_proper ..) (scaleValue_proper hr)) (decodeFp_proper ..)
  · exact decodeFp_proper ..

end Sys2Proof.Machine
end

section
/-!
Weight entries read element by element (09 R189 to R192): what packing and the parts of a 2:4 image leave at each place.
-/

namespace Sys2Proof.Machine

open Sys2Proof.Claims

variable {t : Ty} {band : BitVec 16} {bs : List Byte}

/-! ## Packed elements (00 R7; 04 R84; 09 R189) -/

theorem wordOfBytes_bytesOfWord (n w : ℕ) : wordOfBytes (bytesOfWord n w) = w % 256 ^ n := by
  induction n generalizing w with
  | zero => simp [bytesOfWord, wordOfBytes, Nat.mod_one]
  | succ n ih =>
    have hb : (BitVec.ofNat 8 w).toNat = w % 256 := BitVec.toNat_ofNat ..
    rw [bytesOfWord, wordOfBytes, ih, hb, pow_succ', Nat.mod_mul]

@[simp] theorem length_bytesOfWord (n w : ℕ) : (bytesOfWord n w).length = n := by
  induction n generalizing w with
  | zero => rfl
  | succ n ih => simp [bytesOfWord, ih]

/-- An element of pieces of one length joined. -/
theorem getD_flatMap {α β : Type} {f : α → List β} {m : ℕ} (hf : ∀ a, (f a).length = m) {l : List α} {i r : ℕ} (hi : i < l.length)
    (hr : r < m) (d : β) : (l.flatMap f).getD (m * i + r) d = (f l[i]).getD r d := by
  induction l generalizing i with
  | nil => exact absurd hi (Nat.not_lt_zero i)
  | cons a l ih =>
    rw [List.flatMap_cons]
    cases i with
    | zero =>
      rw [Nat.mul_zero, Nat.zero_add]
      exact List.getD_append _ _ _ _ (by rwa [hf])
    | succ i =>
      have hoff : m * (i + 1) + r = m + (m * i + r) := by ring
      rw [List.getD_append_right _ _ _ _ (by rw [hf]; omega), hf, hoff, Nat.add_sub_cancel_left]
      exact ih (by simpa using hi)

theorem length_flatMap_of_length {α β : Type} {f : α → List β} {m : ℕ} (hf : ∀ a, (f a).length = m) (l : List α) :
    (l.flatMap f).length = l.length * m := by
  simp [List.length_flatMap, hf]

theorem getD_map_range {α : Type} {f : ℕ → α} {n i : ℕ} (hi : i < n) (d : α) : ((List.range n).map f).getD i d = f i := by
  simp [List.getD, hi]

/-- Apart from e2m1, a weight's element takes whole bytes. -/
theorem width_of_matType (ht : t ∈ matTypes) (h : t ≠ .e2m1) : Ty.width t = 8 * (Ty.width t / 8) ∧ 0 < Ty.width t / 8 := by
  revert t
  decide

theorem elementCode_e2m1 (bs : List Byte) (k : ℕ) :
    elementCode .e2m1 bs k = (bs.getD (k / 2) 0#8).toNat / (if k % 2 = 0 then 1 else 16) % 16 := rfl

theorem elementCode_of_ne (h : t ≠ .e2m1) (bs : List Byte) (k : ℕ) :
    elementCode t bs k = wordOfBytes ((List.range (Ty.width t / 8)).map fun b => bs.getD (k * (Ty.width t / 8) + b) 0#8) := if_neg h

theorem elementCode_lt (ht : t ∈ matTypes) (bs : List Byte) (k : ℕ) : elementCode t bs k < 2 ^ Ty.width t := by
  by_cases h : t = .e2m1
  · subst h
    exact Nat.mod_lt _ (by decide)
  · obtain ⟨hw, -⟩ := width_of_matType ht h
    have hlt := wordOfBytes_lt ((List.range (Ty.width t / 8)).map fun b => bs.getD (k * (Ty.width t / 8) + b) 0#8)
    rwa [← elementCode_of_ne h, List.length_map, List.length_range, ← hw] at hlt

/-- 128 codes packed. -/
def packCodes (t : Ty) (codes : List ℕ) : List Byte :=
  if t = .e2m1 then (List.range 64).map fun i => BitVec.ofNat 8 (codes.getD (2 * i) 0 + 16 * codes.getD (2 * i + 1) 0)
  else codes.flatMap fun c => bytesOfWord (Ty.width t / 8) c

theorem length_packCodes (ht : t ∈ matTypes) {codes : List ℕ} (hn : codes.length = 128) :
    (packCodes t codes).length = 128 * Ty.width t / 8 := by
  unfold packCodes
  split
  next h => subst h; simp [Ty.width]
  next h =>
    obtain ⟨hw, -⟩ := width_of_matType ht h
    rw [length_flatMap_of_length fun _ => length_bytesOfWord .., hn]
    omega

/-- A packed element reads as its code. -/
theorem elementCode_packCodes (ht : t ∈ matTypes) {codes : List ℕ} (hn : codes.length = 128)
    (hc : ∀ c ∈ codes, c < 2 ^ Ty.width t) (rest : List Byte) {e : ℕ} (he : e < 128) :
    elementCode t (packCodes t codes ++ rest) e = codes.getD e 0 := by
  have hlt (i : ℕ) : codes.getD i 0 < 2 ^ Ty.width t := by
    by_cases hi : i < codes.length
    · exact List.getD_eq_getElem codes 0 hi ▸ hc _ (List.getElem_mem hi)
    · rw [List.getD_eq_default _ _ (Nat.le_of_not_lt hi)]
      exact Nat.two_pow_pos _
  have hlen := length_packCodes ht hn
  by_cases h : t = .e2m1
  · subst h
    have h₀ : codes.getD (2 * (e / 2)) 0 < 16 := hlt _
    have h₁ : codes.getD (2 * (e / 2) + 1) 0 < 16 := hlt _
    have hin : e / 2 < (packCodes .e2m1 codes).length := by rw [hlen]; change _ < 64; omega
    rw [elementCode_e2m1, List.getD_append _ _ _ _ hin, packCodes, if_pos rfl, getD_map_range (by omega), BitVec.toNat_ofNat]
    rcases Nat.mod_two_eq_zero_or_one e with hp | hp
    · rw [if_pos hp]
      rw [show 2 * (e / 2) = e by omega] at *
      omega
    · rw [if_neg (by omega)]
      rw [show 2 * (e / 2) + 1 = e by omega] at *
      omega
  · obtain ⟨hw, -⟩ := width_of_matType ht h
    have hbytes : ((List.range (Ty.width t / 8)).map fun b => (packCodes t codes ++ rest).getD (e * (Ty.width t / 8) + b) 0#8) =
        bytesOfWord (Ty.width t / 8) (codes.getD e 0) := by
      refine List.ext_getElem (by simp) fun b _ hb' => ?_
      have hb : b < Ty.width t / 8 := by simpa using hb'
      have hin : e * (Ty.width t / 8) + b < (packCodes t codes).length := by
        have := Nat.mul_le_mul_right (Ty.width t / 8) (show e + 1 ≤ 128 from he)
        rw [Nat.succ_mul] at this
        omega
      rw [List.getElem_map, List.getElem_range, List.getD_append _ _ _ _ hin, packCodes, if_neg h, Nat.mul_comm,
        getD_flatMap (fun _ => length_bytesOfWord ..) (hn ▸ he) hb, ← List.getD_eq_getElem _ 0 (hn ▸ he), List.getD_eq_getElem _ _ hb']
    rw [elementCode_of_ne h, hbytes, wordOfBytes_bytesOfWord, Nat.mod_eq_of_lt]
    calc codes.getD e 0 < 2 ^ Ty.width t := hlt e
      _ = 256 ^ (Ty.width t / 8) := by rw [show 256 = 2 ^ 8 from rfl, ← pow_mul, ← hw]

/-- Apart from e2m1, a weight's value has no scale. -/
theorem weightValue_of_ne (h : t ≠ .e2m1) (code scale : ℕ) : weightValue t code scale band = decodeFp t code := if_neg h

/-! ## Dense entries (09 R189) -/

theorem getD_take {α : Type} {l : List α} {n i : ℕ} (h : i < n) (d : α) : (l.take n).getD i d = l.getD i d := by
  rw [List.getD_eq_getElem?_getD, List.getD_eq_getElem?_getD, List.getElem?_take_of_lt h]

theorem elementCode_denseBytes {e : ℕ} (he : e < 256) : elementCode t (denseBytes t bs) e = elementCode t bs e := by
  unfold elementCode denseBytes
  split
  · rw [getD_take (by omega)]
  · refine congrArg wordOfBytes (List.map_congr_left fun b hb => getD_take ?_ _)
    have hb := List.mem_range.mp hb
    have := Nat.mul_le_mul_right (Ty.width t / 8) (show e + 1 ≤ 256 from he)
    rw [Nat.succ_mul] at this
    omega

/-- A dense entry's element is the tile's. -/
theorem value_dense {w : WEntry} (hcomp : w.comp = false) (hdata : w.data = denseBytes w.ty bs) {k j : ℕ} (hk : k < 16) (hj : j < 16) :
    w.value k j = denseValue w.ty w.band bs k j := by
  unfold WEntry.value denseValue
  simp only [hcomp, Bool.not_false, if_true, hdata, elementCode_denseBytes (t := w.ty) (bs := bs) (show 16 * k + j < 256 by omega)]
  by_cases h : w.ty = .e2m1
  · rw [denseBytes, if_pos h, getD_take (by omega)]
  · simp only [weightValue_of_ne h]

/-! ## Compressed entries (09 R190 to R192) -/

theorem denseValue_proper (k j : ℕ) : (denseValue t band bs k j).Proper := weightValue_proper ..

/-- The rows, within group q of column j, that the image keeps. -/
def keptRows (t : Ty) (band : BitVec 16) (bs : List Byte) (q j : ℕ) : ℕ × ℕ :=
  keepTwo ((List.range 4).map fun i => denseValue t band bs (4 * q + i) j)

/-- The codes of the kept weights of group q of column j. -/
def keptPair (t : Ty) (band : BitVec 16) (bs : List Byte) (q j : ℕ) : List ℕ :=
  [elementCode t bs (16 * (4 * q + (keptRows t band bs q j).1) + j), elementCode t bs (16 * (4 * q + (keptRows t band bs q j).2) + j)]

/-- The codes of the kept weights, column by column. -/
def keptCodes (t : Ty) (band : BitVec 16) (bs : List Byte) : List ℕ :=
  (List.range 16).flatMap fun j => (List.range 4).flatMap fun q => keptPair t band bs q j

/-- The metadata nibble of group i % 4 of column i / 4. -/
def keptNibble (t : Ty) (band : BitVec 16) (bs : List Byte) (i : ℕ) : ℕ :=
  (keptRows t band bs (i % 4) (i / 4)).1 + 4 * (keptRows t band bs (i % 4) (i / 4)).2

/-- The metadata bytes of an image, a nibble for each group (R190). -/
def imageMetadata (t : Ty) (band : BitVec 16) (bs : List Byte) : List Byte :=
  (List.range 32).map fun i => BitVec.ofNat 8 (keptNibble t band bs (2 * i) + 16 * keptNibble t band bs (2 * i + 1))

/-- The scale bytes of an e2m1 image (R190). -/
def imageScales (t : Ty) (bs : List Byte) : List Byte := if t = .e2m1 then (List.range 32).map fun i => bs.getD (128 + i) 0#8 else []

/-- The parts of an image (R190). -/
theorem compressImage_eq :
    compressImage t band bs = packCodes t (keptCodes t band bs) ++ imageMetadata t band bs ++ imageScales t bs := rfl

theorem keptRows_lt (q j : ℕ) : (keptRows t band bs q j).1 < 4 ∧ (keptRows t band bs q j).2 < 4 := by
  obtain ⟨h₁, h₂, -⟩ := keepTwo_spec (value := fun i => denseValue t band bs (4 * q + i) j) fun _ => denseValue_proper ..
  exact ⟨h₁, h₂⟩

/-- A row is kept when fewer than two of its group rank before it. -/
theorem keptRows_iff {k j : ℕ} : (k % 4 = (keptRows t band bs (k / 4) j).2 ∨ k % 4 = (keptRows t band bs (k / 4) j).1) ↔
    ranksBefore (denseValue t band bs) k j < 2 := by
  obtain ⟨-, -, h⟩ := keepTwo_spec (value := fun i => denseValue t band bs (4 * (k / 4) + i) j) fun _ => denseValue_proper ..
  refine (h (k % 4) (Nat.mod_lt _ (by decide))).trans ?_
  have hcount : ((List.range 4).filter fun i => goesBefore (fun i => denseValue t band bs (4 * (k / 4) + i) j) i (k % 4)).length =
      ranksBefore (denseValue t band bs) k j := by
    refine congrArg List.length (List.filter_congr fun i _ => ?_)
    have hrow : k / 4 * 4 + i = 4 * (k / 4) + i := by omega
    have hself : 4 * (k / 4) + k % 4 = k := Nat.div_add_mod k 4
    have hne : i ≠ k % 4 ↔ 4 * (k / 4) + i ≠ k := by omega
    have hlt : i < k % 4 ↔ 4 * (k / 4) + i < k := by omega
    simp only [goesBefore, hrow, hself, hne, hlt]
  rw [hcount]

theorem length_keptCodes : (keptCodes t band bs).length = 128 := by
  rw [keptCodes, length_flatMap_of_length (m := 8) fun j => by rw [length_flatMap_of_length (m := 2) fun _ => rfl]; rfl]
  rfl

theorem keptCodes_lt (ht : t ∈ matTypes) : ∀ c ∈ keptCodes t band bs, c < 2 ^ Ty.width t := by
  intro c hc
  simp only [keptCodes, keptPair, List.mem_flatMap, List.mem_cons, List.not_mem_nil, or_false] at hc
  obtain ⟨j, -, q, -, rfl | rfl⟩ := hc
  · exact elementCode_lt ht ..
  · exact elementCode_lt ht ..

/-- The two codes of a group stand next to each other. -/
theorem getD_keptCodes {q j r : ℕ} (hj : j < 16) (hq : q < 4) (hr : r < 2) :
    (keptCodes t band bs).getD (8 * j + 2 * q + r) 0 = (keptPair t band bs q j).getD r 0 := by
  have hinner (j : ℕ) : ((List.range 4).flatMap fun q => keptPair t band bs q j).length = 8 :=
    length_flatMap_of_length (m := 2) (fun _ => rfl) _
  rw [keptCodes, Nat.add_assoc, getD_flatMap hinner (by simpa using hj) (by omega), List.getElem_range,
    getD_flatMap (m := 2) (fun _ => rfl) (by simpa using hq) hr, List.getElem_range]

/-- A kept weight's code in the image. -/
theorem elementCode_compressImage (ht : t ∈ matTypes) {q j r : ℕ} (hj : j < 16) (hq : q < 4) (hr : r < 2) :
    elementCode t (compressImage t band bs) (8 * j + 2 * q + r) = (keptPair t band bs q j).getD r 0 := by
  rw [compressImage_eq, List.append_assoc, elementCode_packCodes ht length_keptCodes (keptCodes_lt ht) _ (by omega), getD_keptCodes hj hq hr]

/-- The metadata nibble of a group, as it stands in the image. -/
theorem nibble_compressImage (ht : t ∈ matTypes) {q j : ℕ} (hj : j < 16) (hq : q < 4) :
    ((compressImage t band bs).getD (128 * Ty.width t / 8 + (4 * j + q) / 2) 0#8).toNat / (if q % 2 = 0 then 1 else 16) % 16 =
      (keptRows t band bs q j).1 + 4 * (keptRows t band bs q j).2 := by
  have hlen := length_packCodes ht (length_keptCodes (t := t) (band := band) (bs := bs))
  have hlt (i : ℕ) : keptNibble t band bs i < 16 := by
    obtain ⟨h₁, h₂⟩ := keptRows_lt (t := t) (band := band) (bs := bs) (i % 4) (i / 4)
    rw [keptNibble]
    omega
  have hnib : keptNibble t band bs (4 * j + q) = (keptRows t band bs q j).1 + 4 * (keptRows t band bs q j).2 := by
    rw [keptNibble, show (4 * j + q) % 4 = q by omega, show (4 * j + q) / 4 = j by omega]
  have h₀ := hlt (2 * ((4 * j + q) / 2))
  have h₁ := hlt (2 * ((4 * j + q) / 2) + 1)
  rw [compressImage_eq, List.append_assoc, List.getD_append_right _ _ _ _ (by omega), hlen, Nat.add_sub_cancel_left,
    List.getD_append _ _ _ _ (by simp only [imageMetadata, List.length_map, List.length_range]; omega), imageMetadata,
    getD_map_range (by omega), BitVec.toNat_ofNat, ← hnib]
  rcases Nat.mod_two_eq_zero_or_one q with hp | hp
  · rw [if_pos hp, show 2 * ((4 * j + q) / 2) = 4 * j + q by omega] at *
    omega
  · rw [if_neg (by omega)]
    rw [show 2 * ((4 * j + q) / 2) + 1 = 4 * j + q by omega] at h₁ ⊢
    omega

/-- The scale bytes stand behind the metadata. -/
theorem scale_compressImage {i : ℕ} (hi : i < 32) : (compressImage .e2m1 band bs).getD (96 + i) 0#8 = bs.getD (128 + i) 0#8 := by
  have hlen := length_packCodes (t := .e2m1) (by decide) (length_keptCodes (t := .e2m1) (band := band) (bs := bs))
  have hmeta : (imageMetadata .e2m1 band bs).length = 32 := by simp [imageMetadata]
  have h64 : 128 * Ty.width .e2m1 / 8 = 64 := rfl
  rw [compressImage_eq, List.getD_append_right _ _ _ _ (by rw [List.length_append]; omega), List.length_append, hlen, hmeta, imageScales,
    if_pos rfl, show 96 + i - (128 * Ty.width .e2m1 / 8 + 32) = i by omega, getD_map_range hi]

/-- A kept weight reads from the image as from the tile. -/
theorem weightValue_compressImage (ht : t ∈ matTypes) {k j c : ℕ} (hk : k < 16) (hj : j < 16)
    (hc : c = elementCode t bs (16 * k + j)) :
    weightValue t c ((compressImage t band bs).getD (96 + 2 * k + j / 8) 0#8).toNat band = denseValue t band bs k j := by
  subst hc
  unfold denseValue
  by_cases h : t = .e2m1
  · subst h
    rw [Nat.add_assoc, scale_compressImage (by omega), ← Nat.add_assoc]
  · simp only [weightValue_of_ne h]

/-- A compressed entry reads as the tile at the kept rows, and +0 elsewhere. -/
theorem value_compressed {w : WEntry} (ht : w.ty ∈ matTypes) (hcomp : w.comp = true)
    (hdata : w.data = compressImage w.ty w.band bs) {k j : ℕ} (hk : k < 16) (hj : j < 16) :
    w.value k j = if ranksBefore (denseValue w.ty w.band bs) k j < 2 then denseValue w.ty w.band bs k j else .fin (Frac.ofInt 0) := by
  obtain ⟨h₁, h₂⟩ := keptRows_lt (t := w.ty) (band := w.band) (bs := bs) (k / 4) j
  have hkept := keptRows_iff (t := w.ty) (band := w.band) (bs := bs) (k := k) (j := j)
  have hrow : 4 * (k / 4) + k % 4 = k := Nat.div_add_mod k 4
  have hhigh := elementCode_compressImage (band := w.band) (bs := bs) ht hj (show k / 4 < 4 by omega) (show 1 < 2 by omega)
  have hlow := elementCode_compressImage (band := w.band) (bs := bs) ht hj (show k / 4 < 4 by omega) (show 0 < 2 by omega)
  unfold WEntry.value
  simp only [hcomp, hdata, Bool.not_true, Bool.false_eq_true, if_false, nibble_compressImage ht hj (show k / 4 < 4 by omega)]
  rw [show ((keptRows w.ty w.band bs (k / 4) j).1 + 4 * (keptRows w.ty w.band bs (k / 4) j).2) / 4 % 4 =
      (keptRows w.ty w.band bs (k / 4) j).2 by omega,
    show ((keptRows w.ty w.band bs (k / 4) j).1 + 4 * (keptRows w.ty w.band bs (k / 4) j).2) % 4 =
      (keptRows w.ty w.band bs (k / 4) j).1 by omega]
  by_cases hsnd : (keptRows w.ty w.band bs (k / 4) j).2 = k % 4
  · rw [if_pos hsnd, if_pos (hkept.mp (.inl hsnd.symm))]
    exact weightValue_compressImage ht hk hj (hhigh.trans (by simp [keptPair, hsnd, hrow]))
  · rw [if_neg hsnd]
    by_cases hfst : (keptRows w.ty w.band bs (k / 4) j).1 = k % 4
    · rw [if_pos hfst, if_pos (hkept.mp (.inr hfst.symm))]
      exact weightValue_compressImage ht hk hj (hlow.trans (by simp [keptPair, hfst, hrow]))
    · rw [if_neg hfst, if_neg fun hr => (hkept.mpr hr).elim (fun h => hsnd h.symm) fun h => hfst h.symm]

/-- Settles O18: the image keeps, of each group, the two rows that rank first, and each stands in it with its own row. -/
theorem compressedWeights : Obligations.CompressedWeights := by
  unfold Obligations.CompressedWeights
  intro t band bs k j ht hk hj
  exact ⟨value_dense (bs := bs) rfl rfl hk hj, value_compressed (bs := bs) ht rfl rfl hk hj⟩

end Sys2Proof.Machine
end

section
/-!
Writes of the accumulators (09 R193, R197): `mma` outside a gang, `accwr` and `acczero` each stage their copybook entry, write a list of
elements, and leave the accumulators alone from there; the clause of O19 that an integer weight format breaks.
-/

namespace Sys2Proof.Machine

open Sys2Proof.Claims

variable {s t u : State} {id : Nat} {v w : Inst}

/-! ## Going on (06 R124; 07 R153) -/

/-- An instance that stands at the same instruction with the same registers. -/
def sameThread (v w : Inst) : Prop := w.regs = v.regs ∧ w.pc = v.pc ∧ w.place = v.place ∧ w.committed = v.committed

theorem sameThread.refl (v : Inst) : sameThread v v := ⟨rfl, rfl, rfl, rfl⟩

theorem sameThread.trans {x : Inst} (h₁ : sameThread v w) (h₂ : sameThread w x) : sameThread v x := by
  obtain ⟨hregs, hpc, hplace, hcommitted⟩ := h₁
  obtain ⟨hregs', hpc', hplace', hcommitted'⟩ := h₂
  exact ⟨hregs'.trans hregs, hpc'.trans hpc, hplace'.trans hplace, hcommitted'.trans hcommitted⟩

theorem goesOn_completed {i : Instr} (h : sameThread v w) (clk latency : Nat) : goesOn i clk v (completed i clk w latency) := by
  obtain ⟨hregs, hpc, hplace, hcommitted⟩ := h
  unfold goesOn completed Inst.advance Inst.retire
  rw [hregs, hpc]
  dsimp only
  split
  · exact ⟨rfl, rfl, rfl, hplace, hcommitted⟩
  · exact ⟨rfl, rfl, rfl, hplace, hcommitted⟩

theorem completed_kept (i : Instr) (clk latency : Nat) (w : Inst) : (completed i clk w latency).stage = w.stage ∧
    (completed i clk w latency).place = w.place ∧ (completed i clk w latency).committed = w.committed := by
  unfold completed Inst.advance Inst.retire
  dsimp only
  split
  · exact ⟨rfl, rfl, rfl⟩
  · exact ⟨rfl, rfl, rfl⟩

/-! ## Steps that leave the accumulators, memory and the stages -/

/-- `t` has the clk, the memory, the scratch and the committed accumulators of `s`, and its instances stand where they stood, with their
stages. -/
structure AccKept (s t : State) : Prop where
  clk : t.clk = s.clk
  mem : t.mem = s.mem
  scr : t.scr = s.scr
  acc : ∀ c k, (t.cell c k).acc = (s.cell c k).acc
  inst : ∀ j v, s.inst? j = some v → ∃ w, t.inst? j = some w ∧ sameThread v w ∧ w.stage = v.stage

theorem AccKept.refl (s : State) : AccKept s s := ⟨rfl, rfl, rfl, fun _ _ => rfl, fun _ v h => ⟨v, h, .refl v, rfl⟩⟩

theorem AccKept.trans (h₁ : AccKept s t) (h₂ : AccKept t u) : AccKept s u where
  clk := h₂.clk.trans h₁.clk
  mem := h₂.mem.trans h₁.mem
  scr := h₂.scr.trans h₁.scr
  acc c k := (h₂.acc c k).trans (h₁.acc c k)
  inst j v hv := by
    obtain ⟨w, hw, hthread, hstage⟩ := h₁.inst j v hv
    obtain ⟨x, hx, hthread', hstage'⟩ := h₂.inst j w hw
    exact ⟨x, hx, hthread.trans hthread', hstage'.trans hstage⟩

theorem AccKept.foldl {α : Type} (h : AccKept s t) {l : List α} {f : State → α → State} (hf : ∀ u a, AccKept u (f u a)) :
    AccKept s (l.foldl f t) := by
  induction l generalizing t with
  | nil => exact h
  | cons a l ih => exact ih (h.trans (hf _ _))

theorem cell_modCell_of_ne (s : State) {c d : Nat} (h : d ≠ c) (k j : Nat) (f : CellCtx → CellCtx) :
    (s.modCell c k f).cell d j = s.cell d j := by
  unfold State.cell State.modCell
  rw [ctx_modCtx, if_neg h]

theorem AccKept.modCell (h : AccKept s t) {c k : Nat} {f : CellCtx → CellCtx} (hf : ∀ x, (f x).acc = x.acc := by exact fun _ => rfl) :
    AccKept s (t.modCell c k f) := by
  refine h.trans ⟨rfl, rfl, rfl, fun d j => ?_, fun _ v hv => ⟨v, hv, .refl v, rfl⟩⟩
  by_cases hd : d = c
  · subst hd
    rw [cell_modCell]
    split
    next hj => rw [hj, hf]
    · rfl
  · rw [cell_modCell_of_ne _ hd]

theorem AccKept.modInst (h : AccKept s t) {j : Nat} {f : Inst → Inst}
    (hf : ∀ v, sameThread v (f v) ∧ (f v).stage = v.stage := by exact fun v => ⟨.refl v, rfl⟩) :
    AccKept s (t.modInst j f) := by
  refine h.trans ?_
  unfold State.modInst
  split
  next v hv =>
    refine ⟨rfl, rfl, rfl, fun _ _ => rfl, fun i w hw => ?_⟩
    by_cases hi : i = j
    · subst hi
      obtain rfl : v = w := Option.some.inj (hv.symm.trans hw)
      exact ⟨f v, State.setInst_inst? .., hf v⟩
    · exact ⟨w, (State.setInst_inst?_of_ne _ _ _ _ hi).trans hw, .refl w, rfl⟩
  · exact .refl t

theorem AccKept.schedule (h : AccKept s t) {a : Nat} {e : Instr} : AccKept s (t.schedule a e) :=
  h.trans ⟨rfl, rfl, rfl, fun _ _ => rfl, fun _ v hv => ⟨v, hv, .refl v, rfl⟩⟩

theorem AccKept.modLimiter (h : AccKept s t) {q : Nat} {f : Limiter → Limiter} : AccKept s (t.modLimiter q f) :=
  h.trans ⟨rfl, rfl, rfl, fun _ _ => rfl, fun _ v hv => ⟨v, hv, .refl v, rfl⟩⟩

theorem AccKept.mxStarted (h : AccKept s t) {c k first : Nat} {o : MxOp} : AccKept s (t.mxStarted c k o first) :=
  h.modInst.schedule

theorem AccKept.kickMx (h : AccKept s t) {c k : Nat} : AccKept s (t.kickMx c k) :=
  h.modCell.foldl fun u _ => (AccKept.refl u).mxStarted

theorem AccKept.either {c : Prop} [Decidable c] {a b : State} (ha : AccKept s a) (hb : AccKept s b) : AccKept s (if c then a else b) := by
  split
  · exact ha
  · exact hb

theorem AccKept.requestUnits (h : AccKept s t) {slot ready : Nat} {us : List (Nat × Nat)} : AccKept s (t.requestUnits slot us ready) :=
  AccKept.either h.modLimiter (AccKept.schedule h.modLimiter)

theorem AccKept.pushMx (h : AccKept s t) {slot c k : Nat} {o : MxOp} : AccKept s (t.pushMx slot c k o) := by
  unfold State.pushMx
  extract_lets x live s₁ s₂
  have h₁ : AccKept s s₁ := h.modCell
  have h₂ : AccKept s s₂ := h₁.modLimiter
  exact .either (.either h₂ h₂.requestUnits) (.either h₁ h₁.kickMx)

theorem AccKept.count (h : AccKept s t) {c k n : Nat} {i : Fin 8} : AccKept s (t.count c k i n) := h.modCell

theorem AccKept.accElem (h : AccKept s t) (v : Inst) : t.accElem v = s.accElem v := by
  funext a row col
  unfold State.accElem
  rw [h.acc]

/-- The accumulators as an instance reads them do not depend on the instances that are set. -/
theorem accElem_setInst (s : State) (i : Nat) (v w : Inst) : (s.setInst i w).accElem v = s.accElem v := rfl

/-! ## Elements written to an accumulator (01 R20) -/

/-- The datum that a list of writes leaves under number k, the last of them. -/
def lastWritten {α : Type} : List (Nat × α) → Nat → Option α
  | [], _ => none
  | p :: es, k => (lastWritten es k).or (if k = p.1 then some p.2 else none)

theorem lookupA_foldl_putA {α : Type} (es : List (Nat × α)) (m : Assoc α) (k : Nat) :
    lookupA (es.foldl (fun m e => putA m e.1 e.2) m) k = (lastWritten es k).or (lookupA m k) := by
  induction es generalizing m with
  | nil => rfl
  | cons p es ih =>
    rw [List.foldl_cons, ih, lookupA_putA, lastWritten, Option.or_assoc]
    split
    · rfl
    · rfl

theorem getD_foldl_setD {α : Type} [DecidableEq α] (d : α) (es : List (Nat × α)) (m : Assoc α) (k : Nat) :
    getD d (es.foldl (fun m e => setD d m e.1 e.2) m) k = (lastWritten es k).getD (getD d m k) := by
  induction es generalizing m with
  | nil => rfl
  | cons p es ih =>
    rw [List.foldl_cons, ih, getD_setD, lastWritten]
    cases lastWritten es k with
    | some x => rfl
    | none => split <;> rfl

/-- Data written at an offset. -/
theorem lastWritten_map {α : Type} (l : List Nat) (o : Nat) (x : Nat → α) (k : Nat) :
    lastWritten (l.map fun j => (o + j, x j)) k = if o ≤ k ∧ k - o ∈ l then some (x (k - o)) else none := by
  induction l with
  | nil => simp [lastWritten]
  | cons j l ih =>
    rw [List.map_cons, lastWritten, ih]
    by_cases hj : k = o + j
    · have hmem : o ≤ k ∧ k - o ∈ j :: l := by simp [hj]
      have hat : k - o = j := by omega
      rw [if_pos hj, if_pos hmem, hat]
      split
      · rfl
      · rfl
    · have hmem : (o ≤ k ∧ k - o ∈ j :: l) ↔ o ≤ k ∧ k - o ∈ l :=
        and_congr_right fun h => List.mem_cons.trans (or_iff_right (by omega))
      simp only [if_neg hj, Option.or_none, hmem]

/-- Writing elements: an element of an accumulator is then the one last written there, or the one from before. -/
theorem accElem_setAcc (hv : s.inst? id = some v) (es : List (Nat × Lane)) :
    ∃ u, (s.setAcc id v es).inst? id = some u ∧ sameThread v u ∧ ∀ b row col,
      (s.setAcc id v es).accElem u b row col = (lastWritten es (b * 256 + row * 16 + col)).getD (s.accElem v b row col) := by
  unfold State.setAcc
  cases hc : v.committed with
  | true =>
    refine ⟨v, hv, ⟨rfl, rfl, rfl, rfl⟩, fun b row col => ?_⟩
    simp only [State.accElem, hc, if_true, cell_modCell, getD_foldl_setD]
  | false =>
    rw [if_neg (by simp), State.modInst_of_some hv]
    refine ⟨_, State.setInst_inst? .., ⟨rfl, rfl, rfl, rfl⟩, fun b row col => ?_⟩
    simp only [State.accElem, hc, Bool.false_eq_true, if_false, lookupA_foldl_putA]
    cases lastWritten es (b * 256 + row * 16 + col) with
    | some x => rfl
    | none => rfl

/-! ## The copybook lane (19 R343 to R345) -/

theorem Stage.putEntry_acc {st st' : Stage} {e : EntryInfo} {ops : List CbOperand} {raw : Word} {dest : Option Nat}
    (h : st.putEntry v e ops raw dest = .ok st') : st'.acc = st.acc := by
  unfold Stage.putEntry at h
  split at h
  · cases h
  · cases h; rfl

theorem State.sourceOperand_acc {st st' : Stage} {handle : Nat} {isWeight : Bool} {o : CbOperand}
    (h : s.sourceOperand v st handle isWeight = .ok (o, st')) : st'.acc = st.acc := by
  unfold State.sourceOperand at h
  split at h
  · split at h
    · cases h; rfl
    · cases h
  · dsimp only at h
    split at h
    · cases h; rfl
    · split at h
      · cases h; rfl
      · cases h; rfl
      · split at h
        · cases h
        · cases h; rfl

theorem State.sourceOperands_acc {hs : List (Nat × Bool)} {st st' : Stage} {os : List CbOperand}
    (h : s.sourceOperands v st hs = .ok (os, st')) : st'.acc = st.acc := by
  induction hs generalizing st os with
  | nil => cases h; rfl
  | cons a hs ih =>
    unfold State.sourceOperands at h
    split at h
    · cases h
    next o st₁ ho =>
      split at h
      · cases h
      next os₁ st₂ hs₂ =>
        cases h
        exact (ih hs₂).trans (State.sourceOperand_acc ho)

/-- Recording an instruction stages no accumulator element. -/
theorem State.log_acc {e : EntryInfo} {dest : Option Nat} {srcs : List (Nat × Bool)} {raw : Word} {st : Stage} {p : Producer}
    (h : s.log v e dest srcs raw = .ok (st, p)) : st.acc = v.stage.acc := by
  unfold State.log at h
  split at h
  · cases h; rfl
  · split at h
    · cases h
    next os st₁ hs =>
      dsimp only at h
      split at h
      · cases h
      next st₂ hp =>
        cases h
        exact (Stage.putEntry_acc hp).trans (State.sourceOperands_acc hs)

/-! ## Counting granules (12 R282) -/

section
variable {c k n : Nat} {i : Fin 8}

theorem ctx_count (s : State) (d : Nat) : ((s.count c k i n).ctx d).home = (s.ctx d).home ∧ ((s.count c k i n).ctx d).slot = (s.ctx d).slot ∧
    ((s.count c k i n).ctx d).side = (s.ctx d).side ∧ ((s.count c k i n).ctx d).blockAddr = (s.ctx d).blockAddr := by
  unfold State.count State.modCell
  rw [ctx_modCtx]
  split
  next h => exact h ▸ ⟨rfl, rfl, rfl, rfl⟩
  · exact ⟨rfl, rfl, rfl, rfl⟩

theorem cell_count (s : State) (d j : Nat) : ((s.count c k i n).cell d j).hdrs = (s.cell d j).hdrs ∧
    ((s.count c k i n).cell d j).prods = (s.cell d j).prods := by
  unfold State.count
  by_cases hd : d = c
  · subst hd
    rw [cell_modCell]
    split
    next h => exact h ▸ ⟨rfl, rfl⟩
    · exact ⟨rfl, rfl⟩
  · rw [cell_modCell_of_ne _ hd]
    exact ⟨rfl, rfl⟩

theorem tile_count (s : State) (v : Inst) (w : Word) : (s.count c k i n).tile v w = s.tile v w := by
  simp only [State.tile, State.ownHeader, (ctx_count s _).1, (cell_count s _ _).1]
  rfl

theorem tileBytes_count (s : State) (v : Inst) (t : Tile) : (s.count c k i n).tileBytes v t = s.tileBytes v t := by
  have hscr (d e a : Nat) : (s.count c k i n).scrAddr d e a = s.scrAddr d e a := by
    obtain ⟨-, hslot, hside, -⟩ := ctx_count (c := c) (k := k) (n := n) (i := i) s d
    unfold State.scrAddr
    rw [hslot, hside]
    rfl
  simp only [State.tileBytes, State.sideBytes, hscr]
  rfl

theorem tileHandle_count (s : State) (v : Inst) (t : Tile) : (s.count c k i n).tileHandle v t = s.tileHandle v t := by
  rw [State.tileHandle, (ctx_count s _).1]
  rfl

theorem log_count (s : State) (v : Inst) (e : EntryInfo) (dest : Option Nat) (srcs : List (Nat × Bool)) (raw : Word) :
    (s.count c k i n).log v e dest srcs raw = s.log v e dest srcs raw := by
  have hunlogged (d : Nat) : (s.count c k i n).unlogged d = s.unlogged d := by
    simp only [State.unlogged, State.anyOpen, (ctx_count s _).2.2.2]
    rfl
  have hsource (st : Stage) (h : Nat) (b : Bool) : (s.count c k i n).sourceOperand v st h b = s.sourceOperand v st h b := by
    simp only [State.sourceOperand, tile_count, State.producerOf, (cell_count s _ _).2, State.saveCopy, tileBytes_count]
    rfl
  have hsources (st : Stage) : (s.count c k i n).sourceOperands v st srcs = s.sourceOperands v st srcs := by
    induction srcs generalizing st with
    | nil => rfl
    | cons a srcs ih => simp only [State.sourceOperands, hsource, ih]
  simp only [State.log, hunlogged, hsources]
  rfl

/-- The state once the granules of a tile of another cell are counted. -/
def State.countedTile (s : State) (v : Inst) (t : Tile) : State :=
  if t.cell = v.place.cell then s else s.count v.place.ctx v.place.cell 6 (storedGranules t.hdr.ty t.hdr.rows t.hdr.cols)

theorem readTiles_of_readable {t : Tile} (h : readable s v t = true) (k : State → Done) :
    readTiles s v [] [t] k = k (s.countedTile v t) := by
  obtain ⟨hpending, hpoisoned⟩ : s.tilePending v t = false ∧ s.tilePoisoned v t = false := by simpa [readable] using h
  simp only [readTiles, List.nil_append, List.any_cons, List.any_nil, hpending, hpoisoned, Bool.or_self, Bool.false_eq_true, if_false,
    List.foldl_cons, List.foldl_nil]
  rfl

theorem AccKept.countedTile (s : State) (v : Inst) (t : Tile) : AccKept s (s.countedTile v t) := .either (.refl s) (AccKept.refl s).count

/-- Counting granules changes nothing that a copybook entry says, nor any tile. -/
theorem countedTile_reads (s : State) (v : Inst) (t : Tile) : (s.countedTile v t).log v = s.log v ∧
    (s.countedTile v t).tileBytes v = s.tileBytes v ∧ (s.countedTile v t).tileHandle v = s.tileHandle v := by
  unfold State.countedTile
  split
  · exact ⟨rfl, rfl, rfl⟩
  · refine ⟨?_, ?_, ?_⟩
    · funext e dest srcs raw
      exact log_count ..
    · exact funext fun t => tileBytes_count ..
    · exact funext fun t => tileHandle_count ..

end

/-! ## The matrix multiply (04 R100; 09 R193) -/

theorem dotFrom_eq_foldl (x w : Nat → Fp) (n k acc : Nat) :
    dotFrom x w n k acc = (List.range' k n).foldl (fun acc k => f32Bits ((f32 acc).add ((x k).mul (w k)))) acc := by
  induction n generalizing k acc with
  | zero => rfl
  | succ n ih => rw [dotFrom, ih, List.range'_succ, List.foldl_cons]

theorem dotFrom_eq_sumOfProducts (x w : Nat → Fp) (start : Nat) : dotFrom x w 16 0 start = sumOfProducts x w start := by
  rw [dotFrom_eq_foldl, sumOfProducts, List.range_eq_range']

/-- Writing all elements of an accumulator. -/
theorem lastWritten_accumulator (a b : Nat) (x : Nat → Lane) {row col : Nat} (hrow : row < 16) (hcol : col < 16) :
    lastWritten ((List.range 256).map fun e => (a * 256 + e, x e)) (b * 256 + row * 16 + col) =
      if b = a then some (x (row * 16 + col)) else none := by
  rw [lastWritten_map]
  by_cases hb : b = a
  · subst hb
    have hat : b * 256 + row * 16 + col - b * 256 = row * 16 + col := by omega
    rw [if_pos ⟨by omega, List.mem_range.mpr (by omega)⟩, if_pos rfl, hat]
  · rw [if_neg hb, if_neg]
    rintro ⟨hle, hmem⟩
    have := List.mem_range.mp hmem
    omega

/-- Writing some elements of a row of an accumulator. -/
theorem lastWritten_accumulatorRow (a b n : Nat) (hn : n < 16) {l : List Nat} (hl : ∀ j ∈ l, j < 16) (x : Nat → Lane) {row col : Nat}
    (hrow : row < 16) (hcol : col < 16) :
    lastWritten (l.map fun j => (a * 256 + n * 16 + j, x j)) (b * 256 + row * 16 + col) =
      if b = a then (if row = n ∧ col ∈ l then some (x col) else none) else none := by
  rw [lastWritten_map]
  by_cases hat : b = a ∧ row = n
  · obtain ⟨rfl, rfl⟩ := hat
    simp
  · have hno : ¬(a * 256 + n * 16 ≤ b * 256 + row * 16 + col ∧ b * 256 + row * 16 + col - (a * 256 + n * 16) ∈ l) := by
      rintro ⟨hle, hmem⟩
      have := hl _ hmem
      omega
    rw [if_neg hno]
    split
    next hb => rw [if_neg fun h => hat ⟨hb, h.1⟩]
    · rfl

/-! ## The format that an `mma` names (06 R133; 09 R193) -/

/-- The primary opcode and the type of an R word (06 R121). -/
theorem bits_word_r (f : RForm) {p : Nat} (hp : p < 256) :
    bits (Form.word p (.r f)) 63 56 = p ∧ bits (Form.word p (.r f)) 48 44 = f.ty.code := by
  have hcode : f.ty.code < 32 := by cases f.ty <;> decide
  dsimp only [bits, Form.word, packHigh, bitNat]
  constructor
  · split_ifs <;> omega
  · split_ifs <;> omega

/-- A word whose type its row does not list shows it (06 R133). -/
theorem typeNotAccepted_mem {w : Nat} {fm : Fmt} {t : Ty} (hf : fmtOf (bits w 63 56) = some fm) (ht : Ty.ofCode (bits w 48 44) = some t)
    (hrow : (rowOf (bits w 63 56) w).types.isEmpty = false) (hmem : t ∉ (rowOf (bits w 63 56) w).types) :
    IllegalCause.typeNotAccepted ∈ staticCauses w := by
  simp only [staticCauses, hf, ht, hrow, Bool.false_eq_true, if_false, List.contains_iff_mem, hmem, List.mem_append, List.mem_singleton,
    true_or, or_true]

/-- A legal `mma` names a format of the matrix unit (09 R193). -/
theorem type_of_legal_mma {f : RForm} (h : legal (.mma f) = true) : f.ty ∈ matTypes := by
  obtain ⟨hp, ht⟩ := bits_word_r f (p := 0x73) (by decide)
  have hcauses : staticCauses (Form.word 0x73 (.r f)) = [] := List.isEmpty_iff.mp h
  have hrow : (rowOf (bits (Form.word 0x73 (.r f)) 63 56) (Form.word 0x73 (.r f))).types = matTypes := by
    rw [hp]
    rfl
  by_contra hty
  have hmem := typeNotAccepted_mem (w := Form.word 0x73 (.r f)) (fm := .r) (t := f.ty) (by rw [hp]; rfl) (by rw [ht, tyOfCode_code])
    (by rw [hrow]; rfl) (by rwa [hrow])
  rw [hcauses] at hmem
  exact List.not_mem_nil hmem
/-- Formats of the matrix unit of one width are of one rate class (09 R193). -/
theorem rateClass_eq_of_rate : ∀ a ∈ matTypes, ∀ b ∈ matTypes, rate a = rate b → rateClass a = rateClass b := by decide

/-! ## The three forms -/

/-- What the write of an accumulator answers: its instance goes on, memory stands, and every element of every accumulator is as stated. -/
def AccWritten (i : Instr) (s : State) (id : Nat) (v : Inst) (a : Nat) (new : Nat → Nat → Option Lane) : Prop :=
  ∃ (t : State) (u : Inst), exec i s = .next t ∧ t.inst? id = some u ∧ goesOn i s.clk v u ∧ t.mem = s.mem ∧ t.scr = s.scr ∧
    ∀ b row col, row < 16 → col < 16 → t.accElem u b row col = (if b = a then new row col else none).getD (s.accElem v b row col)

theorem setAcc_frame (s : State) (id : Nat) (v : Inst) (es : List (Nat × Lane)) :
    (s.setAcc id v es).clk = s.clk ∧ (s.setAcc id v es).mem = s.mem ∧ (s.setAcc id v es).scr = s.scr := by
  unfold State.setAcc
  split
  · exact ⟨rfl, rfl, rfl⟩
  · unfold State.modInst
    split
    · exact ⟨rfl, rfl, rfl⟩
    · exact ⟨rfl, rfl, rfl⟩

theorem accElem_congr (h : sameThread v w) (hacc : w.stage.acc = v.stage.acc) (s : State) (b row col : Nat) :
    s.accElem w b row col = s.accElem v b row col := by
  obtain ⟨-, -, hplace, hcommitted⟩ := h
  unfold State.accElem
  rw [hplace, hcommitted, hacc]

/-- An effect that sets the instance with its entry staged, writes elements, and then leaves the accumulators alone. -/
theorem accWritten_of_effect {i : Instr} {eff : State → Nat → Inst → Done} {a : Nat} {new : Nat → Nat → Option Lane} {r : State}
    {es : List (Nat × Lane)} (hex : exec i s = issue i eff s) (hi : issues i s id v = true) (hr : AccKept s r) (hw : sameThread v w)
    (hwacc : w.stage.acc = v.stage.acc)
    (heff : ∃ t latency, eff s id v = .next t latency ∧ AccKept ((r.setInst id w).setAcc id w es) t)
    (hes : ∀ b row col, row < 16 → col < 16 → lastWritten es (b * 256 + row * 16 + col) = if b = a then new row col else none) :
    AccWritten i s id v a new := by
  obtain ⟨t, latency, heff, ht⟩ := heff
  obtain ⟨u, hu, hthread, hacc⟩ := accElem_setAcc (State.setInst_inst? r id w) es
  obtain ⟨hclk, hmem, hscr⟩ := setAcc_frame (r.setInst id w) id w es
  obtain ⟨x, hx, hthread', hstage⟩ := ht.inst id u hu
  obtain ⟨hcstage, hcplace, hccommitted⟩ := completed_kept i t.clk latency x
  have htclk : t.clk = s.clk := (ht.clk.trans hclk).trans hr.clk
  refine ⟨_, completed i t.clk x latency, hex.trans (issue_next hi heff), ?_, ?_, ?_, ?_, fun b row col hrow hcol => ?_⟩
  · rw [State.modInst_of_some hx, State.setInst_inst?]
  · rw [htclk]
    exact goesOn_completed ((hw.trans hthread).trans hthread') _ _
  · rw [State.modInst_of_some hx]
    exact (ht.mem.trans hmem).trans hr.mem
  · rw [State.modInst_of_some hx]
    exact (ht.scr.trans hscr).trans hr.scr
  · rw [State.modInst_of_some hx]
    calc _ = t.accElem x b row col := by
          unfold State.accElem
          rw [hcstage, hcplace, hccommitted]
          rfl
      _ = ((r.setInst id w).setAcc id w es).accElem u b row col := by rw [ht.accElem, accElem_congr hthread' (congrArg Stage.acc hstage)]
      _ = (lastWritten es (b * 256 + row * 16 + col)).getD (r.accElem w b row col) := hacc b row col
      _ = _ := by rw [hr.accElem, accElem_congr hw hwacc, hes b row col hrow hcol]

theorem accWritten_acczero {f : RForm} {st : Stage} {p : Producer} (hlog : logOf s v (.acczero f) = .ok (st, p))
    (hi : issues (.acczero f) s id v = true) : AccWritten (.acczero f) s id v f.d fun _ _ => some 0#32 := by
  have hlog : s.log v ⟨1, 0x78, f.fn % 256, f.d, 0, 0, false, false⟩ none [] 0#64 = .ok (st, p) := hlog
  refine accWritten_of_effect (w := { v with stage := st }) (exec_acczero f s) hi (.refl s) (.refl v) (State.log_acc hlog) ⟨_, 2, ?_, .refl _⟩
    fun b row col hrow hcol => lastWritten_accumulator f.d b (fun _ => 0#32) hrow hcol
  simp only [hlog]

theorem accWritten_accwr {f : RForm} {a : Nat} {new : Nat → Nat → Option Lane} {st : Stage} {p : Producer}
    (hw : accWrite s v (.accwr f) = some (a, new)) (hlog : logOf s v (.accwr f) = .ok (st, p)) (hi : issues (.accwr f) s id v = true) :
    AccWritten (.accwr f) s id v a new := by
  obtain ⟨hn, heq⟩ := Option.ite_none_right_eq_some.mp hw
  obtain ⟨rfl, rfl⟩ := Prod.mk.inj (Option.some.inj heq)
  have hsel (j : Nat) : v.regs.selects f.mask f.neg j = selected v.regs f.mask f.neg j := by
    unfold Regs.selects selected
    cases f.neg <;> simp
  have hlanes : ((List.range 16).filter fun j => v.regs.selects f.mask f.neg j && (v.regs.getV f.a).ok j) =
      (List.range 16).filter fun j => selected v.regs f.mask f.neg j && (v.regs.getV f.a).ok j := by simp only [hsel]
  have hlog : s.log v ⟨1, 0x77, (v.regs.getX f.b).toNat, f.d, 0, 0, false, false⟩ none [] (BitVec.ofNat 64
      (((List.range 16).filter fun j => selected v.regs f.mask f.neg j && (v.regs.getV f.a).ok j).foldl (fun m j => m + 2 ^ j) 0)) =
      .ok (st, p) := hlog
  have hlt : ∀ j ∈ (List.range 16).filter fun j => selected v.regs f.mask f.neg j && (v.regs.getV f.a).ok j, j < 16 := fun j hj =>
    List.mem_range.mp (List.mem_filter.mp hj).1
  refine accWritten_of_effect (w := { v with stage := st }) (exec_accwr f s) hi (.refl s) (.refl v) (State.log_acc hlog) ⟨_, 2, ?_, .refl _⟩
    fun b row col hrow hcol => (lastWritten_accumulatorRow f.d b _ hn hlt (v.regs.getV f.a).lane hrow hcol).trans ?_
  · simp only [hlanes, hlog, if_neg (show ¬15 < (v.regs.getX f.b).toNat by omega)]
  · simp [hcol, and_assoc]

/-- The conditions under which `mma` outside a gang runs (R193), and what it writes. -/
theorem accWrite_mma {f : RForm} {a : Nat} {new : Nat → Nat → Option Lane} (h : accWrite s v (.mma f) = some (a, new)) :
    ∃ t, s.tile v (v.regs.getX f.a) = .ok t ∧ v.gang = none ∧ readable s v t = true ∧ t.hdr.ty = f.ty ∧ t.hdr.rows = 16 ∧
      t.hdr.cols = 16 ∧
      (s.weight v (f.b * 8 + f.fn % 8)).valid = true ∧ rate (s.weight v (f.b * 8 + f.fn % 8)).ty = rate f.ty ∧
      (cellOf s v).mxFull s.clk = false ∧ a = f.d ∧
      new = fun row col => some (BitVec.ofNat 32 (sumOfProducts (tileFp t.hdr (s.tileBytes v t) row)
        (fun k => (s.weight v (f.b * 8 + f.fn % 8)).value k col) (if bit f.fn 3 then 0 else (s.accElem v f.d row col).toNat))) := by
  simp only [accWrite] at h
  split at h
  next t ht =>
    obtain ⟨hc, heq⟩ := Option.ite_none_right_eq_some.mp h
    simp only [Bool.and_eq_true, Bool.not_eq_true', decide_eq_true_eq, Option.isNone_iff_eq_none, isTile] at hc
    obtain ⟨⟨⟨⟨⟨hgang, hread⟩, ⟨hty, hrows⟩, hcols⟩, hvalid⟩, hrate⟩, hfull⟩ := hc
    obtain ⟨ha, hnew⟩ := Prod.mk.inj (Option.some.inj heq)
    refine ⟨t, ht, hgang, hread, hty, hrows, hcols, hvalid, hrate, hfull, ha.symm, hnew.symm.trans ?_⟩
    funext row col
    simp only [tileFp, hcols, Nat.mul_comm row 16, bit, decide_eq_true_eq]
    rfl
  · cases h

theorem accWritten_mma {f : RForm} {a : Nat} {new : Nat → Nat → Option Lane} {st : Stage} {p : Producer}
    (hw : accWrite s v (.mma f) = some (a, new)) (hlog : logOf s v (.mma f) = .ok (st, p)) (hi : issues (.mma f) s id v = true)
    (hl : legal (.mma f) = true) (hweight : (s.weight v (f.b * 8 + f.fn % 8)).ty ∈ matTypes) : AccWritten (.mma f) s id v a new := by
  obtain ⟨t, ht, hgang, hread, hty, hrows, hcols, hvalid, hrate, hfull, rfl, rfl⟩ := accWrite_mma hw
  obtain ⟨hclog, hcbytes, hchandle⟩ := countedTile_reads s v t
  have hkept := AccKept.countedTile s v t
  have hentry : s.log v ⟨1, 0x73, f.fn % 256, f.d, f.b, f.fn % 8, (s.weight v (f.b * 8 + f.fn % 8)).comp, false⟩ none
      [(s.tileHandle v t, false), ((s.weight v (f.b * 8 + f.fn % 8)).source, true)] 0#64 = .ok (st, p) := by
    simp only [logOf, ht] at hlog
    exact hlog
  have hclass := rateClass_eq_of_rate _ hweight _ (type_of_legal_mma hl) hrate
  have hcauses : operandTrap ((decide (t.hdr.ty ≠ f.ty), 1) :: (decide (t.hdr.rows ≠ 16) || decide (t.hdr.cols ≠ 16), 2) ::
      [(!(s.weight v (f.b * 8 + f.fn % 8)).valid, 4), (decide (rateClass (s.weight v (f.b * 8 + f.fn % 8)).ty ≠ rateClass f.ty), 5)]) =
      none := by
    simp [operandTrap, hty, hrows, hcols, hvalid, hclass]
  have hfull : (s.cell v.place.ctx v.place.cell).mxFull s.clk = false := hfull
  refine accWritten_of_effect (w := { v with stage := st, gang := none }) (r := s.countedTile v t) (exec_mma f s) hi hkept (.refl v)
    (State.log_acc hentry) (es := mmaElements (s.accElem v f.d) (bit f.fn 3) f.d (tileFp t.hdr (s.tileBytes v t))
      (s.weight v (f.b * 8 + f.fn % 8)).value) ?effect fun b row col hrow hcol => ?element
  case effect =>
    refine ⟨?_, 1, ?next, ?kept⟩
    case next =>
      simp only [hgang, ht, hcauses, hfull, Bool.false_and, Bool.false_eq_true, if_false, readTiles_of_readable hread, hclog, hchandle,
        hcbytes, hentry, Option.isSome_none, accElem_setInst, hkept.accElem]
      rfl
    case kept => exact .pushMx (.modInst (.refl _))
  case element =>
    have hrowOf : (row * 16 + col) / 16 = row := by omega
    have hcolOf : (row * 16 + col) % 16 = col := by omega
    refine (lastWritten_accumulator f.d b _ hrow hcol).trans ?_
    simp only [hrowOf, hcolOf, dotFrom_eq_sumOfProducts]

/-- What O19 says holds where the weight entry that an `mma` names is of a format of the matrix unit, as every entry is that a form loads
(09 R189, R191, R192). -/
theorem accWritten_of_matType {i : Instr} {a : Nat} {new : Nat → Nat → Option Lane} {st : Stage} {p : Producer}
    (hw : accWrite s v i = some (a, new)) (hlog : logOf s v i = .ok (st, p)) (hl : legal i = true) (hi : issues i s id v = true)
    (hweight : ∀ f, i = .mma f → (s.weight v (f.b * 8 + f.fn % 8)).ty ∈ matTypes) : AccWritten i s id v a new := by
  cases i with
  | mma f => exact accWritten_mma hw hlog hi hl (hweight f rfl)
  | accwr f => exact accWritten_accwr hw hlog hi
  | acczero f =>
    obtain ⟨rfl, rfl⟩ := Prod.mk.inj (Option.some.inj hw)
    exact accWritten_acczero hlog hi
  | _ => cases hw

/-! ## A weight entry outside the rate classes (09 R189, R193) -/

section
open Sys2Proof.Tests

/-- `mma.e4m3` of the tile that x4 names and of weight entry 0. -/
def byteMma : Instr := .mma (fr .e4m3 0 4 0)

/-- A cell with an e4m3 tile, which x4 names, and a valid weight entry 0 of format i8. -/
def withByteWeight : State :=
  xs ((running byteMma).modCell 0 0 fun x => { x with
    hdrs := [(4, tileHeader .e4m3 16 16 30 4)]
    weights := [(0, { WEntry.invalid with valid := true, ty := .i8 })] }) [(4, 4)]

theorem accWrite_withByteWeight : ∃ w, accWrite withByteWeight (the withByteWeight) byteMma = some w :=
  Option.isSome_iff_exists.mp (by decide)

theorem logOf_withByteWeight : logOf withByteWeight (the withByteWeight) byteMma = .ok ((the withByteWeight).stage, .none) := by decide

/-- The `mma` stops with the tile-operand trap of a weight of another rate class. -/
theorem exec_withByteWeight : seen (exec byteMma withByteWeight) (fun t => (t.inst? 1).map Inst.status) = some (some .trapped) := by decide

/-- Refutes O19: it compares the widths of the two formats where R193 and `mma` compare their rate classes. In `withByteWeight` an e4m3
tile meets a weight entry of format i8, of the same width and of no 8-bit rate class, so that every premise holds and the `mma` traps. No
form loads such an entry, and where the entry is of a format of the matrix unit the statement holds (`accWritten_of_matType`). -/
theorem not_accumulatorWrites : ¬ Obligations.AccumulatorWrites := by
  unfold Obligations.AccumulatorWrites
  intro h
  obtain ⟨⟨a, new⟩, hw⟩ := accWrite_withByteWeight
  obtain ⟨t, u, ht, hu, ⟨-, -, hrun, -, -⟩, -⟩ :=
    h byteMma a new _ _ withByteWeight 1 (the withByteWeight) hw logOf_withByteWeight (by decide) (by decide)
  have hstop := exec_withByteWeight
  simp [ht, seen, hu, hrun] at hstop

end

end Sys2Proof.Machine
end

section
/-!
Instruction words: the fields of a form read back from its word, and a word without causes as the word of its fields (O56, O57).
-/

set_option Elab.async false

namespace Sys2Proof

open Laws.Opcode (fmt)
open Machine (tyOfCode_code tyCode_lt bits_low)

variable {w p n hi lo : Nat} {i : Instr} {fm : Fmt}

/-! ## Fields and the bits below them (00 R7) -/

/-- The low bits of a word are a field above the bits below it. -/
theorem mod_eq_bits (w : Nat) (h : lo ≤ hi + 1) : w % 2 ^ (hi + 1) = bits w hi lo * 2 ^ lo + w % 2 ^ lo := by
  obtain ⟨k, hk⟩ := Nat.exists_eq_add_of_le h
  rw [bits, hk, Nat.add_sub_cancel_left, pow_add, Nat.mod_mul, mul_comm, add_comm]

theorem bitNat_lt (b : Bool) : bitNat b < 2 := by cases b <;> decide

theorem bitNat_false : bitNat false = 0 := rfl

theorem bitNat_bit (w n : Nat) : bitNat (bit w n) = bits w n n := by
  have hbits : bits w n n = w / 2 ^ n % 2 := by rw [bits, Nat.add_sub_cancel_left, pow_one]
  rcases Nat.mod_two_eq_zero_or_one (w / 2 ^ n) with h | h
  · rw [hbits, bit, h]
    rfl
  · rw [hbits, bit, h]
    rfl

theorem mod_eq_bit (w n : Nat) : w % 2 ^ (n + 1) = bitNat (bit w n) * 2 ^ n + w % 2 ^ n := by
  rw [bitNat_bit]
  exact mod_eq_bits w (Nat.le_succ n)

theorem bit_of_bitNat {b : Bool} (h : w / 2 ^ n % 2 = bitNat b) : bit w n = b := by
  rw [bit, h]
  cases b <;> rfl

theorem bits_lt (w hi lo : Nat) : bits w hi lo < 2 ^ (hi + 1 - lo) := Nat.mod_lt _ (Nat.two_pow_pos _)

/-- The upper part of a field of zeros. -/
theorem bits_eq_zero_of_le {k : Nat} (h : bits w hi lo = 0) (hk : lo ≤ k) : bits w hi k = 0 := by
  obtain ⟨j, rfl⟩ := Nat.exists_eq_add_of_le hk
  rcases le_or_gt (hi + 1) (lo + j) with hle | hlt
  · rw [bits, Nat.sub_eq_zero_of_le hle, pow_zero, Nat.mod_one]
  · have hwidth : hi + 1 - lo = j + (hi + 1 - (lo + j)) := by omega
    rw [bits, hwidth, pow_add] at h
    rw [bits, pow_add, ← Nat.div_div_eq_div_mul, ← Nat.mod_mul_right_div_self, h, Nat.zero_div]

theorem fin_of_val {h : 0 < n} {v : Nat} {x : Fin n} (hv : v = x.val) : fin n v h = x :=
  Fin.ext ((congrArg (· % n) hv).trans (Nat.mod_eq_of_lt x.isLt))

theorem val_fin_bits {h : 0 < n} (hn : 2 ^ (hi + 1 - lo) ≤ n) : (fin n (bits w hi lo) h).val = bits w hi lo :=
  Nat.mod_eq_of_lt (lt_of_lt_of_le (bits_lt w hi lo) hn)

/-! ## Type codes (06 R122) -/

theorem tyOf_of_code {t : Ty} (h : bits w 48 44 = t.code) : tyOf w = t := by
  rw [tyOf, h, tyOfCode_code]
  rfl

theorem code_of_ofCode {c : Nat} {t : Ty} (h : Ty.ofCode c = some t) : t.code = c := by
  unfold Ty.ofCode at h
  split at h
  case h_16 => cases h
  all_goals
    cases h
    rfl

/-! ## The fields of a word that a form gives (06 R121, R126) -/

theorem RForm.ofWord_word (p : Nat) (f : RForm) : RForm.ofWord (Form.word p (.r f)) = f := by
  obtain ⟨mask, neg, la, lb, lc, ty, d, a, b, c, fn⟩ := f
  have hneg := bitNat_lt neg
  have hla := bitNat_lt la
  have hlb := bitNat_lt lb
  have hlc := bitNat_lt lc
  have hty := tyCode_lt ty
  rw [RForm.ofWord, RForm.mk.injEq]
  refine ⟨fin_of_val ?_, bit_of_bitNat ?_, bit_of_bitNat ?_, bit_of_bitNat ?_, bit_of_bitNat ?_, tyOf_of_code ?_, fin_of_val ?_,
    fin_of_val ?_, fin_of_val ?_, fin_of_val ?_, fin_of_val ?_⟩
  all_goals
    simp only [bits, Form.word, packHigh]
    omega

theorem IForm.ofWord_word (p : Nat) (f : IForm) : IForm.ofWord (Form.word p (.i f)) = f := by
  obtain ⟨mask, neg, la, ty, d, a, imm⟩ := f
  have hneg := bitNat_lt neg
  have hla := bitNat_lt la
  have hty := tyCode_lt ty
  rw [IForm.ofWord, IForm.mk.injEq]
  refine ⟨fin_of_val ?_, bit_of_bitNat ?_, bit_of_bitNat ?_, tyOf_of_code ?_, fin_of_val ?_, fin_of_val ?_, fin_of_val ?_⟩
  all_goals
    simp only [bits, Form.word, packHigh, bitNat_false]
    omega

theorem MForm.ofWord_word (p : Nat) (f : MForm) : MForm.ofWord (Form.word p (.m f)) = f := by
  obtain ⟨mask, neg, la, lb, ty, d, a, off⟩ := f
  have hneg := bitNat_lt neg
  have hla := bitNat_lt la
  have hlb := bitNat_lt lb
  have hty := tyCode_lt ty
  rw [MForm.ofWord, MForm.mk.injEq]
  refine ⟨fin_of_val ?_, bit_of_bitNat ?_, bit_of_bitNat ?_, bit_of_bitNat ?_, tyOf_of_code ?_, fin_of_val ?_, fin_of_val ?_, fin_of_val ?_⟩
  all_goals
    simp only [bits, Form.word, packHigh, bitNat_false]
    omega

theorem LForm.ofWord_word (p : Nat) (f : LForm) : LForm.ofWord (Form.word p (.l f)) = f := by
  obtain ⟨la, lb, ty, a, b, cond, ctr, off⟩ := f
  have hla := bitNat_lt la
  have hlb := bitNat_lt lb
  have hty := tyCode_lt ty
  rw [LForm.ofWord, LForm.mk.injEq]
  refine ⟨bit_of_bitNat ?_, bit_of_bitNat ?_, tyOf_of_code ?_, fin_of_val ?_, fin_of_val ?_, fin_of_val ?_, fin_of_val ?_, fin_of_val ?_⟩
  all_goals
    simp only [bits, Form.word, packHigh, bitNat_false]
    omega

theorem QForm.ofWord_word (p : Nat) (f : QForm) : QForm.ofWord (Form.word p (.q f)) = f := by
  obtain ⟨mask, neg, la, lb, ty, d, a, b, comb, dir, ord, fn⟩ := f
  have hneg := bitNat_lt neg
  have hla := bitNat_lt la
  have hlb := bitNat_lt lb
  have hdir := bitNat_lt dir
  have hord := bitNat_lt ord
  have hty := tyCode_lt ty
  rw [QForm.ofWord, QForm.mk.injEq]
  refine ⟨fin_of_val ?_, bit_of_bitNat ?_, bit_of_bitNat ?_, bit_of_bitNat ?_, tyOf_of_code ?_, fin_of_val ?_, fin_of_val ?_, fin_of_val ?_,
    fin_of_val ?_, bit_of_bitNat ?_, bit_of_bitNat ?_, fin_of_val ?_⟩
  all_goals
    simp only [bits, Form.word, packHigh, bitNat_false]
    omega

theorem ZForm.ofWord_word (p : Nat) (f : ZForm) : ZForm.ofWord (Form.word p (.z f)) = f := by
  obtain ⟨la, d, a, code⟩ := f
  have hla := bitNat_lt la
  rw [ZForm.ofWord, ZForm.mk.injEq]
  refine ⟨bit_of_bitNat ?_, fin_of_val ?_, fin_of_val ?_, fin_of_val ?_⟩
  all_goals
    simp only [bits, Form.word, packHigh, bitNat_false, Ty.code]
    omega

/-- The fields of a word in a format. -/
def Form.ofWord : Fmt → Nat → Form
  | .r, w => .r (RForm.ofWord w)
  | .i, w => .i (IForm.ofWord w)
  | .m, w => .m (MForm.ofWord w)
  | .l, w => .l (LForm.ofWord w)
  | .q, w => .q (QForm.ofWord w)
  | .z, w => .z (ZForm.ofWord w)

theorem Form.ofWord_word (p : Nat) (f : Form) : Form.ofWord (fmt f) (f.word p) = f := by
  cases f with
  | r f => exact congrArg Form.r (RForm.ofWord_word p f)
  | i f => exact congrArg Form.i (IForm.ofWord_word p f)
  | m f => exact congrArg Form.m (MForm.ofWord_word p f)
  | l f => exact congrArg Form.l (LForm.ofWord_word p f)
  | q f => exact congrArg Form.q (QForm.ofWord_word p f)
  | z f => exact congrArg Form.z (ZForm.ofWord_word p f)

theorem packHigh_bounds (p : Nat) {mask : Nat} (hmask : mask < 8) (neg la lb lc : Bool) (t : Ty) :
    p * 2 ^ 56 ≤ packHigh p mask neg la lb lc t ∧ packHigh p mask neg la lb lc t + 2 ^ 44 ≤ (p + 1) * 2 ^ 56 := by
  have hneg := bitNat_lt neg
  have hla := bitNat_lt la
  have hlb := bitNat_lt lb
  have hlc := bitNat_lt lc
  have hty := tyCode_lt t
  unfold packHigh
  omega

/-- The primary opcode stands above every field. -/
theorem Form.word_bounds (p : Nat) (f : Form) : p * 2 ^ 56 ≤ f.word p ∧ f.word p < (p + 1) * 2 ^ 56 := by
  cases f with
  | r f =>
    have := packHigh_bounds p f.mask.isLt f.neg f.la f.lb f.lc f.ty
    rw [Form.word]
    omega
  | i f =>
    have := packHigh_bounds p f.mask.isLt f.neg f.la false false f.ty
    rw [Form.word]
    omega
  | m f =>
    have := packHigh_bounds p f.mask.isLt f.neg f.la f.lb false f.ty
    rw [Form.word]
    omega
  | l f =>
    have := packHigh_bounds p (Nat.zero_lt_succ 7) false f.la f.lb false f.ty
    rw [Form.word]
    omega
  | q f =>
    have := packHigh_bounds p f.mask.isLt f.neg f.la f.lb false f.ty
    have hdir := bitNat_lt f.dir
    have hord := bitNat_lt f.ord
    rw [Form.word]
    omega
  | z f =>
    have := packHigh_bounds p (Nat.zero_lt_succ 7) false f.la false false .i32
    rw [Form.word]
    omega

theorem Form.word_lt (hp : p < 256) (f : Form) : f.word p < 2 ^ 64 := by
  have := f.word_bounds p
  omega

theorem Form.bits_word (hp : p < 256) (f : Form) : bits (f.word p) 63 56 = p := by
  have := f.word_bounds p
  unfold bits
  omega

/-! ## The word of a word's fields -/

/-- What a word without causes shows of its fields, by 06 R133. -/
structure Clean (fm : Fmt) (w : Nat) : Prop where
  format : fmtOf (bits w 63 56) = some fm
  function : badFunction (bits w 63 56) w = false
  type : ∃ t, Ty.ofCode (bits w 48 44) = some t
  untyped : (rowOf (bits w 63 56) w).types = [] → bits w 48 44 = 0
  reserved : badReserved (bits w 63 56) w = false
  register : ∀ r ∈ regFields (bits w 63 56) w, r.1 = none → r.2 = 0
  lastA : (lastAllowed (bits w 63 56) w).1 = false → bit w 51 = false
  lastB : (lastAllowed (bits w 63 56) w).2.1 = false → bit w 50 = false
  lastC : (lastAllowed (bits w 63 56) w).2.2 = false → bit w 49 = false
  mask : (rowOf (bits w 63 56) w).mask = false ∨ fm = .l ∨ fm = .z → bits w 55 52 = 0

theorem causeIf_eq_nil {b : Prop} [Decidable b] {c : IllegalCause} : (if b then [c] else []) = [] ↔ ¬b := by simp

theorem clean_of_staticCauses (hf : fmtOf (bits w 63 56) = some fm) (h : staticCauses w = []) : Clean fm w := by
  simp only [staticCauses, hf, List.append_eq_nil_iff, causeIf_eq_nil, Bool.or_eq_true, not_or, Bool.not_eq_true] at h
  obtain ⟨⟨⟨⟨⟨⟨hfunction, htype⟩, hreserved, hregister⟩, -⟩, ⟨hla, hlb⟩, hlc⟩, hmask⟩, -⟩ := h
  have ht : ∃ t, Ty.ofCode (bits w 48 44) = some t ∧ ((rowOf (bits w 63 56) w).types = [] → bits w 48 44 = 0) := by
    split at htype
    next => cases htype
    next t ht => exact ⟨t, ht, fun hempty => by simpa [hempty] using htype⟩
  obtain ⟨t, ht, huntyped⟩ := ht
  refine ⟨hf, hfunction, ⟨t, ht⟩, huntyped, hreserved, fun r hr hnone => ?_, fun h => ?_, fun h => ?_, fun h => ?_, fun h => ?_⟩
  · simpa [hnone] using List.any_eq_false.mp hregister r hr
  · simpa [h] using hla
  · simpa [h] using hlb
  · simpa [h] using hlc
  · rcases h with h | h | h
    · simpa [h] using hmask
    · simpa [h] using hmask
    · simpa [h] using hmask

theorem Clean.code_tyOf (h : Clean fm w) : (tyOf w).code = bits w 48 44 := by
  obtain ⟨t, ht⟩ := h.type
  rw [tyOf, ht]
  exact code_of_ofCode ht

theorem Clean.packHigh_add (h : Clean fm w) (hw : w < 2 ^ 64) :
    packHigh (bits w 63 56) (bits w 55 53) (bit w 52) (bit w 51) (bit w 50) (bit w 49) (tyOf w) + w % 2 ^ 44 = w := by
  have hword : w % 2 ^ 64 = bits w 63 56 * 2 ^ 56 + w % 2 ^ 56 := mod_eq_bits w (by decide)
  have hmask : w % 2 ^ 56 = bits w 55 53 * 2 ^ 53 + w % 2 ^ 53 := mod_eq_bits w (by decide)
  have hneg : w % 2 ^ 53 = bitNat (bit w 52) * 2 ^ 52 + w % 2 ^ 52 := mod_eq_bit w 52
  have hla : w % 2 ^ 52 = bitNat (bit w 51) * 2 ^ 51 + w % 2 ^ 51 := mod_eq_bit w 51
  have hlb : w % 2 ^ 51 = bitNat (bit w 50) * 2 ^ 50 + w % 2 ^ 50 := mod_eq_bit w 50
  have hlc : w % 2 ^ 50 = bitNat (bit w 49) * 2 ^ 49 + w % 2 ^ 49 := mod_eq_bit w 49
  have hty : w % 2 ^ 49 = bits w 48 44 * 2 ^ 44 + w % 2 ^ 44 := mod_eq_bits w (by decide)
  rw [Nat.mod_eq_of_lt hw] at hword
  rw [packHigh, h.code_tyOf]
  linarith

theorem mod_eq_registers (w : Nat) : w % 2 ^ 44 = bits w 43 38 * 2 ^ 38 + bits w 37 32 * 2 ^ 32 + w % 2 ^ 32 := by
  have hd : w % 2 ^ 44 = bits w 43 38 * 2 ^ 38 + w % 2 ^ 38 := mod_eq_bits w (by decide)
  have ha : w % 2 ^ 38 = bits w 37 32 * 2 ^ 32 + w % 2 ^ 32 := mod_eq_bits w (by decide)
  rw [hd, ha, add_assoc]

theorem lastAllowed_of_imm (hf : fmtOf p = some .i ∨ fmtOf p = some .z) : (lastAllowed p w).2 = (false, false) := by
  unfold lastAllowed
  rcases hf with hf | hf
  · rw [hf]
  · rw [hf]

theorem lastAllowed_of_two (hf : fmtOf p = some .m ∨ fmtOf p = some .l ∨ fmtOf p = some .q) : (lastAllowed p w).2.2 = false := by
  unfold lastAllowed
  rcases hf with hf | hf | hf
  · rw [hf]
  · rw [hf]
  · rw [hf]

theorem mask_neg_of_zero (h : bits w 55 52 = 0) : bits w 55 53 = 0 ∧ bit w 52 = false := by
  refine ⟨bits_eq_zero_of_le h (by decide), bit_of_bitNat ?_⟩
  unfold bits at h
  rw [bitNat_false]
  omega

theorem Clean.word_ofWord_r (h : Clean .r w) (hw : w < 2 ^ 64) : (Form.ofWord .r w).word (bits w 63 56) = w := by
  have hword := h.packHigh_add hw
  have hb : w % 2 ^ 32 = bits w 31 26 * 2 ^ 26 + w % 2 ^ 26 := mod_eq_bits w (by decide)
  have hc : w % 2 ^ 26 = bits w 25 20 * 2 ^ 20 + w % 2 ^ 20 := mod_eq_bits w (by decide)
  simp (disch := decide) only [Form.ofWord, RForm.ofWord, Form.word, val_fin_bits]
  linarith [mod_eq_registers w, bits_low w 19]

theorem Clean.word_ofWord_i (h : Clean .i w) (hw : w < 2 ^ 64) : (Form.ofWord .i w).word (bits w 63 56) = w := by
  have hword := h.packHigh_add hw
  have hlast := lastAllowed_of_imm (w := w) (.inl h.format)
  rw [h.lastB (congrArg Prod.fst hlast), h.lastC (congrArg Prod.snd hlast)] at hword
  simp (disch := decide) only [Form.ofWord, IForm.ofWord, Form.word, val_fin_bits]
  linarith [mod_eq_registers w, bits_low w 31]

theorem Clean.word_ofWord_m (h : Clean .m w) (hw : w < 2 ^ 64) : (Form.ofWord .m w).word (bits w 63 56) = w := by
  have hword := h.packHigh_add hw
  rw [h.lastC (lastAllowed_of_two (.inl h.format))] at hword
  simp (disch := decide) only [Form.ofWord, MForm.ofWord, Form.word, val_fin_bits]
  linarith [mod_eq_registers w, bits_low w 31]

theorem Clean.word_ofWord_q (h : Clean .q w) (hw : w < 2 ^ 64) : (Form.ofWord .q w).word (bits w 63 56) = w := by
  have hword := h.packHigh_add hw
  rw [h.lastC (lastAllowed_of_two (.inr (.inr h.format)))] at hword
  have hb : w % 2 ^ 32 = bits w 31 26 * 2 ^ 26 + w % 2 ^ 26 := mod_eq_bits w (by decide)
  have hcomb : w % 2 ^ 26 = bits w 25 22 * 2 ^ 22 + w % 2 ^ 22 := mod_eq_bits w (by decide)
  have hdir : w % 2 ^ 22 = bitNat (bit w 21) * 2 ^ 21 + w % 2 ^ 21 := mod_eq_bit w 21
  have hord : w % 2 ^ 21 = bitNat (bit w 20) * 2 ^ 20 + w % 2 ^ 20 := mod_eq_bit w 20
  simp (disch := decide) only [Form.ofWord, QForm.ofWord, Form.word, val_fin_bits]
  linarith [mod_eq_registers w, bits_low w 19]

/-- The bits of an L word that no field takes are reserved (06 R126, R127). -/
theorem Clean.unused_l {f : LForm} (h : Clean .l w) (hi : ofPrimaryL (bits w 63 56) f = some i) : bits w 43 38 = 0 ∧ bit w 20 = false := by
  have hres := h.reserved
  revert hi hres
  generalize bits w 63 56 = p
  intro hi hres
  unfold ofPrimaryL at hi
  split at hi
  case h_5 => cases hi
  all_goals
    simp only [badReserved, Bool.or_eq_false_iff, decide_eq_false_iff_not, not_not] at hres
    simp only [hres, and_self]

theorem Clean.word_ofWord_l {f : LForm} (h : Clean .l w) (hi : ofPrimaryL (bits w 63 56) f = some i)
    (hw : w < 2 ^ 64) : (Form.ofWord .l w).word (bits w 63 56) = w := by
  have hword := h.packHigh_add hw
  obtain ⟨hmask, hneg⟩ := mask_neg_of_zero (h.mask (.inr (.inl rfl)))
  obtain ⟨hd, h20⟩ := h.unused_l hi
  rw [h.lastC (lastAllowed_of_two (.inr (.inl h.format))), hmask, hneg] at hword
  have hb : w % 2 ^ 32 = bits w 31 26 * 2 ^ 26 + w % 2 ^ 26 := mod_eq_bits w (by decide)
  have hcond : w % 2 ^ 26 = bits w 25 23 * 2 ^ 23 + w % 2 ^ 23 := mod_eq_bits w (by decide)
  have hctr : w % 2 ^ 23 = bits w 22 21 * 2 ^ 21 + w % 2 ^ 21 := mod_eq_bits w (by decide)
  have hbit : w % 2 ^ 21 = bitNat (bit w 20) * 2 ^ 20 + w % 2 ^ 20 := mod_eq_bit w 20
  rw [h20, bitNat_false] at hbit
  simp (disch := decide) only [Form.ofWord, LForm.ofWord, Form.word, val_fin_bits]
  linarith [mod_eq_registers w, bits_low w 19]

/-- A Z word is untyped and uses no bit of 31 to 16 (06 R126; 12 R278). -/
theorem Clean.unused_z {f : ZForm} (h : Clean .z w) (hi : ofPrimaryZ (bits w 63 56) f = some i) : bits w 48 44 = 0 ∧ bits w 31 16 = 0 := by
  have hf := h.format
  have hres := h.reserved
  have hty := h.untyped
  revert hi hf hres hty
  generalize bits w 63 56 = p
  intro hi hf hres hty
  unfold ofPrimaryZ at hi
  split at hi
  case h_15 => cases hi
  all_goals
    refine ⟨hty rfl, ?_⟩
    simp only [badReserved, hf, if_true, Bool.or_eq_false_iff, decide_eq_false_iff_not, not_not] at hres
  case h_2 | h_12 => exact bits_eq_zero_of_le hres.1 (by decide)
  all_goals exact bits_eq_zero_of_le hres (by decide)

theorem Clean.word_ofWord_z {f : ZForm} (h : Clean .z w) (hi : ofPrimaryZ (bits w 63 56) f = some i)
    (hw : w < 2 ^ 64) : (Form.ofWord .z w).word (bits w 63 56) = w := by
  have hword := h.packHigh_add hw
  obtain ⟨hmask, hneg⟩ := mask_neg_of_zero (h.mask (.inr (.inr rfl)))
  obtain ⟨hty, hlow⟩ := h.unused_z hi
  have hlast := lastAllowed_of_imm (w := w) (.inr h.format)
  rw [h.lastB (congrArg Prod.fst hlast), h.lastC (congrArg Prod.snd hlast), hmask, hneg, tyOf_of_code (t := .i32) hty] at hword
  have hcode : w % 2 ^ 32 = bits w 31 16 * 2 ^ 16 + w % 2 ^ 16 := mod_eq_bits w (by decide)
  rw [hlow] at hcode
  simp (disch := decide) only [Form.ofWord, ZForm.ofWord, Form.word, val_fin_bits]
  linarith [mod_eq_registers w, bits_low w 15]

end Sys2Proof
end

section
/-!
The decoder and the encoder: a word without causes is the word of the instruction that it decodes to, and a legal instruction is decoded
from its word (O55, O56, O57).
-/

set_option Elab.async false

namespace Sys2Proof

open Laws.Opcode (fmt instruction)
open Machine (wordOfBytes_bytesOfWord length_bytesOfWord)

variable {w p : Nat} {i : Instr} {fm : Fmt}

/-! ## Forms without operands (06 R126) -/

/-- The R fields that a form without operands has. -/
def RForm.zero : RForm := ⟨0, false, false, false, false, .i32, 0, 0, 0, 0, 0⟩

/-- The Z fields that a form without operands has. -/
def ZForm.zero : ZForm := ⟨false, 0, 0, 0⟩

section
variable (hrow : rowOf (bits w 63 56) w = rowNone)
include hrow

theorem Clean.ofWord_r_of_rowNone (h : Clean .r w) (hfn : bits w 19 0 = 0) : RForm.ofWord w = RForm.zero := by
  obtain ⟨hmask, hneg⟩ := mask_neg_of_zero (h.mask (.inl (by rw [hrow]; rfl)))
  have hlast : lastAllowed (bits w 63 56) w = (false, false, false) := by
    unfold lastAllowed
    rw [h.format, hrow]
    rfl
  have hreg := h.register
  simp only [regFields, h.format, hrow, rowNone, List.forall_mem_cons, forall_true_left] at hreg
  obtain ⟨hd, ha, hb, hc, -⟩ := hreg
  rw [RForm.ofWord, RForm.zero, RForm.mk.injEq]
  exact ⟨fin_of_val hmask, hneg, h.lastA (by rw [hlast]), h.lastB (by rw [hlast]), h.lastC (by rw [hlast]),
    tyOf_of_code (h.untyped (by rw [hrow]; rfl)), fin_of_val hd, fin_of_val ha, fin_of_val hb, fin_of_val hc, fin_of_val hfn⟩

theorem Clean.ofWord_z_of_rowNone (h : Clean .z w) (hcode : bits w 15 0 = 0) : ZForm.ofWord w = ZForm.zero := by
  have hlast : (lastAllowed (bits w 63 56) w).1 = false := by
    unfold lastAllowed
    rw [h.format, hrow]
    rfl
  have hreg := h.register
  simp only [regFields, h.format, hrow, rowNone, List.forall_mem_cons, forall_true_left] at hreg
  obtain ⟨hd, ha, -⟩ := hreg
  rw [ZForm.ofWord, ZForm.zero, ZForm.mk.injEq]
  exact ⟨h.lastA hlast, fin_of_val hd, fin_of_val ha, fin_of_val hcode⟩

end

/-! ## The opcode map in the direction of the decoder (06 R132) -/

/-- An R instruction of a word has the word's primary opcode and its fields. -/
theorem Clean.parts_r (h : Clean .r w) (hi : ofPrimaryR (bits w 63 56) (RForm.ofWord w) = some i) :
    i.parts = some (bits w 63 56, .r (RForm.ofWord w)) := by
  have hzero : bits w 63 56 = 0x75 ∨ bits w 63 56 = 0x92 → RForm.ofWord w = RForm.zero := by
    intro hp
    have hfun := h.function
    have hf := h.format
    rcases hp with hp | hp
    all_goals
      refine h.ofWord_r_of_rowNone (by rw [hp]; rfl) ?_
      rw [hp] at hfun hf
      simpa [badFunction, hf] using hfun
  revert hi hzero
  generalize bits w 63 56 = p
  generalize RForm.ofWord w = f
  intro hi hzero
  unfold ofPrimaryR at hi
  split at hi
  case h_68 =>
    cases hi
    rw [hzero (.inl rfl)]
    rfl
  case h_81 =>
    cases hi
    rw [hzero (.inr rfl)]
    rfl
  case h_97 => cases hi
  all_goals
    cases hi
    rfl

/-- A Z instruction of a word has the word's primary opcode and its fields. -/
theorem Clean.parts_z (h : Clean .z w) (hi : ofPrimaryZ (bits w 63 56) (ZForm.ofWord w) = some i) :
    i.parts = some (bits w 63 56, .z (ZForm.ofWord w)) := by
  have hzero : bits w 63 56 = 0x27 ∨ bits w 63 56 = 0xE5 → ZForm.ofWord w = ZForm.zero := by
    intro hp
    have hfun := h.function
    have hres := h.reserved
    rcases hp with hp | hp
    · refine h.ofWord_z_of_rowNone (by rw [hp]; rfl) ?_
      rw [hp] at hres
      have hlow : bits w 31 0 = 0 := by simpa [badReserved] using hres
      unfold bits at hlow ⊢
      omega
    · refine h.ofWord_z_of_rowNone (by rw [hp]; rfl) ?_
      rw [hp] at hfun
      simpa [badFunction] using hfun
  revert hi hzero
  generalize bits w 63 56 = p
  generalize ZForm.ofWord w = f
  intro hi hzero
  unfold ofPrimaryZ at hi
  split at hi
  case h_1 =>
    cases hi
    rw [hzero (.inl rfl)]
    rfl
  case h_8 =>
    cases hi
    rw [hzero (.inr rfl)]
    rfl
  case h_15 => cases hi
  all_goals
    cases hi
    rfl

theorem parts_of_ofPrimaryI {f : IForm} (h : ofPrimaryI p f = some i) : i.parts = some (p, .i f) := by
  unfold ofPrimaryI at h
  split at h
  case h_30 => cases h
  all_goals
    cases h
    rfl

theorem parts_of_ofPrimaryM {f : MForm} (h : ofPrimaryM p f = some i) : i.parts = some (p, .m f) := by
  unfold ofPrimaryM at h
  split at h
  case h_22 => cases h
  all_goals
    cases h
    rfl

theorem parts_of_ofPrimaryL {f : LForm} (h : ofPrimaryL p f = some i) : i.parts = some (p, .l f) := by
  unfold ofPrimaryL at h
  split at h
  case h_5 => cases h
  all_goals
    cases h
    rfl

theorem parts_of_ofPrimaryQ {f : QForm} (h : ofPrimaryQ p f = some i) : i.parts = some (p, .q f) := by
  unfold ofPrimaryQ at h
  split at h
  case h_8 => cases h
  all_goals
    cases h
    rfl

/-- Where a word shows no cause, its primary opcode and its fields are its instruction's, and give the word back. -/
theorem Clean.encode_eq (h : Clean fm w) (hw : w < 2 ^ 64) (hi : instruction (bits w 63 56) (Form.ofWord fm w) = some i) :
    encode i = some w := by
  suffices hparts : i.parts = some (bits w 63 56, Form.ofWord fm w) ∧ (Form.ofWord fm w).word (bits w 63 56) = w by
    obtain ⟨hparts, hword⟩ := hparts
    simp only [encode, hparts, hword]
  cases fm with
  | r => exact ⟨h.parts_r hi, h.word_ofWord_r hw⟩
  | i => exact ⟨parts_of_ofPrimaryI hi, h.word_ofWord_i hw⟩
  | m => exact ⟨parts_of_ofPrimaryM hi, h.word_ofWord_m hw⟩
  | l => exact ⟨parts_of_ofPrimaryL hi, h.word_ofWord_l hi hw⟩
  | q => exact ⟨parts_of_ofPrimaryQ hi, h.word_ofWord_q hw⟩
  | z => exact ⟨h.parts_z hi, h.word_ofWord_z hi hw⟩

/-- Whether a primary opcode that has a format stands for an instruction, whatever the fields. -/
def assigned (w p : Nat) : Bool := (fmtOf p).all fun fm => (instruction p (Form.ofWord fm w)).isSome

/-- The opcode map in groups of sixteen (06 R132). -/
theorem assigned_group (w : Nat) {g : Nat} (hg : g < 16) : ((List.range 16).all fun k => assigned w (16 * g + k)) = true := by
  interval_cases g
  all_goals rfl

theorem instruction_of_fmtOf (hp : p < 256) (hf : fmtOf p = some fm) (w : Nat) : ∃ i, instruction p (Form.ofWord fm w) = some i := by
  have h := List.all_eq_true.mp (assigned_group w (g := p / 16) (by omega)) (p % 16) (List.mem_range.mpr (Nat.mod_lt _ (by decide)))
  rw [Nat.div_add_mod, assigned, hf] at h
  exact Option.isSome_iff_exists.mp h

/-! ## The decoder (06 R133) -/

theorem rawDecode_eq_some_iff : rawDecode w = some i ↔
    ∃ fm, fmtOf (bits w 63 56) = some fm ∧ instruction (bits w 63 56) (Form.ofWord fm w) = some i := by
  unfold rawDecode
  dsimp only
  split
  all_goals
    next h => simp [h, Form.ofWord, instruction]

theorem decode_eq_ok_iff : decode w = .ok i ↔ staticCauses w = [] ∧ rawDecode w = some i := by
  rw [← lowestCause_eq_none_iff]
  unfold decode
  split
  next c hc => simp [hc]
  next hc =>
    split
    next j hj => simp [hc, hj]
    next hj => simp [hj]

/-- A word without causes has a format. -/
theorem format_of_staticCauses (h : staticCauses w = []) : ∃ fm, fmtOf (bits w 63 56) = some fm := by
  unfold staticCauses at h
  dsimp only at h
  split at h
  next => cases h
  next fm hf => exact ⟨fm, hf⟩

/-- The cause named is one of the causes, and none has a lower code. -/
theorem lowestCause_spec {cs : List IllegalCause} {d : IllegalCause} (h : lowestCause cs = some d) : d ∈ cs ∧ ∀ e ∈ cs, d.code ≤ e.code := by
  induction cs generalizing d with
  | nil => cases h
  | cons c cs ih =>
    unfold lowestCause at h
    split at h
    next hnone =>
      cases h
      rw [(lowestCause_eq_none_iff cs).mp hnone]
      simp
    next e he =>
      obtain ⟨hmem, hle⟩ := ih he
      split at h
      next hlt =>
        cases h
        exact ⟨List.mem_cons_of_mem _ hmem, List.forall_mem_cons.mpr ⟨hlt.le, hle⟩⟩
      next hlt =>
        cases h
        exact ⟨List.mem_cons_self, List.forall_mem_cons.mpr ⟨le_rfl, fun a ha => (not_lt.mp hlt).trans (hle a ha)⟩⟩

theorem decode_error_of_mem {c : IllegalCause} (h : c ∈ staticCauses w) : ∃ d, decode w = .error d ∧ lowestCause (staticCauses w) = some d := by
  obtain ⟨d, hd⟩ := Option.ne_none_iff_exists'.mp (mt (lowestCause_eq_none_iff _).mp (List.ne_nil_of_mem h))
  exact ⟨d, by simp [decode, hd], hd⟩

theorem decodeBytes_bytesOfWord (hw : w < 2 ^ 64) : decodeBytes (bytesOfWord 8 w) = decode w := by
  have hlen := length_bytesOfWord 8 w
  have hround : wordOfBytes (bytesOfWord 8 w) = w := (wordOfBytes_bytesOfWord 8 w).trans (Nat.mod_eq_of_lt hw)
  rw [decodeBytes, if_neg (by omega), List.take_of_length_le hlen.le, hround]

theorem decodeTableWord_of_decode (hw : w < 2 ^ 64) (h : decode w = .ok i) : decodeTableWord 64 w = some i := by
  rw [decodeTableWord, if_neg (by decide), Nat.mod_eq_of_lt hw, decodeBytes_bytesOfWord hw, h]

theorem encode_of_decode (hw : w < 2 ^ 64) (h : decode w = .ok i) : encode i = some w ∧ legal i = true := by
  obtain ⟨hcauses, hraw⟩ := decode_eq_ok_iff.mp h
  obtain ⟨fm, hf, hi⟩ := rawDecode_eq_some_iff.mp hraw
  have henc := (clean_of_staticCauses hf hcauses).encode_eq hw hi
  refine ⟨henc, ?_⟩
  simp only [legal, henc, hcauses]
  rfl

theorem decode_of_encode (h : encode i = some w) (hl : legal i = true) : w < 2 ^ 64 ∧ decode w = .ok i := by
  rw [legal, h] at hl
  unfold encode at h
  have hmap := Laws.Opcode.all i
  unfold Laws.Opcode.Statement at hmap
  split at h
  next p f hparts =>
    cases h
    rw [hparts] at hmap
    obtain ⟨hp, hf, hi⟩ := hmap
    refine ⟨f.word_lt hp, decode_eq_ok_iff.mpr ⟨List.isEmpty_iff.mp hl, rawDecode_eq_some_iff.mpr ⟨fmt f, ?_⟩⟩⟩
    rw [f.bits_word hp, f.ofWord_word]
    exact ⟨hf, hi⟩
  next => cases h

/-! ## The statements -/

/-- Settles O55: the words of the spec, decoded. -/
theorem decodeWords : Obligations.DecodeWords := by
  unfold Obligations.DecodeWords
  exact ⟨rfl, rfl, rfl, rfl, rfl, rfl, rfl, rfl, rfl, rfl, rfl, rfl, rfl, rfl⟩

/-- Settles O56: the word of a legal instruction holds its primary opcode and its fields, which the decoder reads back. -/
theorem decodeEncode : Obligations.DecodeEncode := by
  unfold Obligations.DecodeEncode
  intro i hparts hwf
  obtain ⟨⟨p, f⟩, hpf⟩ := Option.isSome_iff_exists.mp hparts
  have hlegal : legal i = true := by simpa only [WellFormed, hpf] using hwf
  have henc : encode i = some (f.word p) := by simp only [encode, hpf]
  obtain ⟨hlt, hdec⟩ := decode_of_encode henc hlegal
  exact ⟨f.word p, henc, hlt, hdec, decodeTableWord_of_decode hlt hdec⟩

/-- Settles O57: a word without causes is the word of its fields, every opcode with a format has its instruction, and the decoder names the
lowest cause. -/
theorem encodeDecode : Obligations.EncodeDecode := by
  unfold Obligations.EncodeDecode
  refine ⟨fun w i hw h => encode_of_decode hw h, fun w _ h => ?_, fun w c _ hc => ?_⟩
  · obtain ⟨fm, hf⟩ := format_of_staticCauses h
    obtain ⟨i, hi⟩ := instruction_of_fmtOf (bits_lt w 63 56) hf w
    exact ⟨i, decode_eq_ok_iff.mpr ⟨h, rawDecode_eq_some_iff.mpr ⟨fm, hf, hi⟩⟩⟩
  · obtain ⟨d, hdec, hlow⟩ := decode_error_of_mem hc
    exact ⟨d, hdec, lowestCause_spec hlow⟩

end Sys2Proof
end

section
/-!
Writes of tile headers: `thdr`, `tfree` and `talloc` (O21).
-/

set_option Elab.async false

namespace Sys2Proof.Machine

open Sys2Proof.Claims

variable {s : State} {id : Nat} {v w : Inst}

/-! ## Header writes (02 R51; 06 R142) -/

theorem writeHeader_frame (s : State) (id : Nat) (v : Inst) (δ : HdrDelta) :
    (s.writeHeader id v δ).clk = s.clk ∧ (s.writeHeader id v δ).mem = s.mem ∧ (s.writeHeader id v δ).scr = s.scr := by
  unfold State.writeHeader
  split
  · exact ⟨rfl, rfl, rfl⟩
  · unfold State.modInst
    split
    · exact ⟨rfl, rfl, rfl⟩
    · exact ⟨rfl, rfl, rfl⟩

/-- An instance reads a header of its cell as its place and its staged header writes give it. -/
theorem ownHeader_congr (hplace : w.place = v.place) (hstage : w.stage.hdrs = v.stage.hdrs) (s : State) (n : Nat) :
    s.ownHeader w n = s.ownHeader v n := by
  unfold State.ownHeader
  rw [hplace, hstage]

/-- After a header write its instance, which stands where it stood, reads the header written with the write applied, and every other
header as before. -/
theorem ownHeader_writeHeader (hv : s.inst? id = some v) (hst : stagesNothing v) (δ : HdrDelta) :
    ∃ u, (s.writeHeader id v δ).inst? id = some u ∧ sameThread v u ∧
      (s.writeHeader id v δ).ownHeader u δ.index = δ.apply v.place.ctx (s.ownHeader v δ.index) ∧
      ∀ m, m ≠ δ.index → (s.writeHeader id v δ).ownHeader u m = s.ownHeader v m := by
  unfold State.writeHeader
  cases hc : v.committed with
  | true =>
    refine ⟨v, hv, .refl v, ?_, fun m hm => ?_⟩
    · simp [State.ownHeader, hst hc, cell_modCell, CellCtx.applyDelta, getD_setD]
    · simp [State.ownHeader, hst hc, cell_modCell, CellCtx.applyDelta, getD_setD, hm]
  | false =>
    rw [if_neg (by simp), State.modInst_of_some hv]
    refine ⟨_, State.setInst_inst? .., ⟨rfl, rfl, rfl, rfl⟩, ?_, fun m hm => ?_⟩
    · simp only [State.ownHeader, List.filter_append, List.foldl_append]
      simp
      rfl
    · simp only [State.ownHeader, List.filter_append, List.foldl_append]
      simp [hm.symm]
      rfl

/-- What a form that writes a header answers: its instance goes on as `v` would, reads the header as `words`, and every other header, memory
and scratch stand. -/
def HeaderWritten (i : Instr) (s : State) (id : Nat) (v : Inst) (n : Nat) (words : Word × Word) : Prop :=
  ∃ (t : State) (u : Inst), exec i s = .next t ∧ t.inst? id = some u ∧ goesOn i s.clk v u ∧ t.ownHeader u n = words ∧
    (∀ m, m ≠ n → t.ownHeader u m = s.ownHeader v m) ∧ t.mem = s.mem ∧ t.scr = s.scr

/-- An effect that writes a header, once it has set its instance to `w`. -/
theorem headerWritten_of_effect {i : Instr} {eff : State → Nat → Inst → Done} {δ : HdrDelta} {latency : Nat} {r : State}
    (hex : exec i s = issue i eff s) (hi : issues i s id v = true) (heff : eff s id v = .next (r.writeHeader id w δ) latency)
    (hr : r.inst? id = some w) (hw : stagesNothing w)
    (hkept : r.clk = s.clk ∧ r.mem = s.mem ∧ r.scr = s.scr ∧ r.ownHeader w = s.ownHeader w) :
    HeaderWritten i s id w δ.index (δ.apply w.place.ctx (s.ownHeader w δ.index)) := by
  obtain ⟨hclk, hmem, hscr, hhdr⟩ := hkept
  obtain ⟨u, hu, hthread, hsame, hother⟩ := ownHeader_writeHeader hr hw δ
  obtain ⟨hclk', hmem', hscr'⟩ := writeHeader_frame r id w δ
  rw [hhdr] at hsame
  have hgoes := goesOn_completed (i := i) hthread s.clk latency
  obtain ⟨hstage, hplace, -⟩ := completed_kept i s.clk latency u
  have hown (n : Nat) : ((r.writeHeader id w δ).setInst id (completed i s.clk u latency)).ownHeader (completed i s.clk u latency) n =
      (r.writeHeader id w δ).ownHeader u n := ownHeader_congr hplace (congrArg Stage.hdrs hstage) _ n
  refine ⟨_, completed i s.clk u latency, hex.trans (issue_next hi heff), ?_⟩
  rw [State.modInst_of_some hu, hclk', hclk]
  refine ⟨State.setInst_inst? .., hgoes, (hown _).trans hsame, fun m hm => ?_, hmem'.trans hmem, hscr'.trans hscr⟩
  rw [hown, hother m hm, hhdr]

/-- A tile of the own cell has the header that its instance reads (06 R140). -/
theorem ownHeader_of_tile {h : Word} {t : Tile} (ht : s.tile v h = .ok t) (hcell : t.cell = v.place.cell) :
    s.ownHeader v t.index = (t.hdr.word0, t.hdr.word1) := by
  unfold State.tile at ht
  extract_lets n cell idx x at ht
  split at ht
  next => cases ht
  next =>
    split at ht
    next => cases ht
    next =>
      cases ht
      exact (if_pos hcell).symm

/-! ## `thdr` and `tfree` (09 R202, R203) -/

/-- Only the low bits of a value enter a field. -/
theorem replaced_mod (w : Word) (hi lo n : Nat) : replaced w hi lo (n % 2 ^ (hi + 1 - lo)) = replaced w hi lo n := by
  unfold replaced
  rw [Nat.mod_mod]

/-- A form that writes fields of a header of a tile of the own cell. -/
theorem headerWritten_of_tile {i : Instr} {eff : State → Nat → Inst → Done} {δ : HdrDelta} {h : Word} {t : Tile} {words : Word × Word}
    (ht : s.tile v h = .ok t) (hcell : t.cell = v.place.cell) (hst : stagesNothing v) (hi : issues i s id v = true)
    (hex : exec i s = issue i eff s) (heff : eff s id v = .next (s.writeHeader id v δ) 2) (hidx : δ.index = t.index)
    (hwords : δ.apply v.place.ctx (t.hdr.word0, t.hdr.word1) = words) : HeaderWritten i s id v t.index words := by
  obtain ⟨-, hv, -, -⟩ := issues_iff.mp hi
  have h := headerWritten_of_effect hex hi heff hv hst ⟨rfl, rfl, rfl, rfl⟩
  rwa [hidx, ownHeader_of_tile ht hcell, hwords] at h

/-- What `thdr` writes, by its function value. -/
theorem headerWrite_thdr_cases {f : RForm} {n : Nat} {words : Word × Word} (hw : headerWrite s v (.thdr f) = some (n, words)) :
    ∃ t, s.tile v (v.regs.getX f.a) = .ok t ∧ t.cell = v.place.cell ∧ n = t.index ∧
      ((f.fn % 8 = 2 ∧ words = (replaced t.hdr.word0 15 0 (v.regs.getX f.b).toNat, t.hdr.word1)) ∨
        (f.fn % 8 = 3 ∧ words = (replaced t.hdr.word0 62 62 0, t.hdr.word1)) ∨
        (f.fn % 8 = 4 ∧ words = (replaced t.hdr.word0 56 36 ((v.regs.getX f.b).toNat / 2 ^ 36), t.hdr.word1) ∧
          headerFits (HdrView.ofWords words.1 words.2) (bits (v.regs.getX f.b).toNat 56 52) = true)) := by
  unfold headerWrite at hw
  dsimp only at hw
  split at hw
  case h_2 => cases hw
  next t ht =>
    refine ⟨t, ht, ?_⟩
    split_ifs at hw with hcell hband hclean hshape hfits
    · cases hw
      exact ⟨not_not.mp hcell, rfl, .inl ⟨Fin.ext hband, rfl⟩⟩
    · cases hw
      exact ⟨not_not.mp hcell, rfl, .inr (.inl ⟨Fin.ext hclean, rfl⟩)⟩
    · cases hw
      exact ⟨not_not.mp hcell, rfl, .inr (.inr ⟨Fin.ext hshape, rfl, hfits⟩)⟩

theorem headerWritten_thdr {f : RForm} {n : Nat} {words : Word × Word} (hw : headerWrite s v (.thdr f) = some (n, words)) (hst : stagesNothing v)
    (hi : issues (.thdr f) s id v = true) : HeaderWritten (.thdr f) s id v n words := by
  obtain ⟨t, ht, hcell, rfl, ⟨hfn, hwords⟩ | ⟨hfn, hwords⟩ | ⟨hfn, hwords, hfits⟩⟩ := headerWrite_thdr_cases hw
  · refine headerWritten_of_tile (δ := { HdrDelta.none t.index with
      band := some ((v.regs.getX f.b).truncate 16), producer := some (s.unlogged v.place.ctx) }) ht hcell hst hi (exec_thdr f s) ?_ rfl ?_
    · simp [ht, hcell, hfn]
    · exact (congrArg (·, t.hdr.word1) (replaced_mod ..)).trans hwords.symm
  · refine headerWritten_of_tile (δ := { HdrDelta.none t.index with clearDirty := true }) ht hcell hst hi (exec_thdr f s) ?_ rfl hwords.symm
    simp [ht, hcell, hfn]
  · have happly := (congrArg (·, t.hdr.word1) (replaced_mod t.hdr.word0 56 36 ((v.regs.getX f.b).toNat / 2 ^ 36))).trans hwords.symm
    refine headerWritten_of_tile (δ := { HdrDelta.none t.index with
      shape := some (v.regs.getX f.b), producer := some (s.unlogged v.place.ctx) }) ht hcell hst hi (exec_thdr f s) ?_ rfl happly
    rw [← happly] at hfits
    simp only [ht, hfn]
    rw [if_neg (by decide), if_neg (by decide), if_neg (not_not.mpr hcell), if_neg (by decide), if_neg (by decide)]
    exact if_pos hfits

theorem headerWritten_tfree {f : RForm} {n : Nat} {words : Word × Word} (hw : headerWrite s v (.tfree f) = some (n, words)) (hst : stagesNothing v)
    (hi : issues (.tfree f) s id v = true) : HeaderWritten (.tfree f) s id v n words := by
  unfold headerWrite at hw
  dsimp only at hw
  split at hw
  case h_2 => cases hw
  next t ht =>
    split at hw
    case isFalse => cases hw
    next hcell =>
      cases hw
      refine headerWritten_of_tile (δ := { HdrDelta.none t.index with freed := true }) ht hcell hst hi (exec_tfree f s) ?_ rfl rfl
      simp [ht, hcell]

/-! ## `talloc` (09 R201) -/

/-- Every format but e2m1 fills whole bytes. -/
theorem width_eq_bytes {t : Ty} (h : t ≠ .e2m1) : Ty.width t = 8 * (Ty.width t / 8) := by
  cases t with
  | e2m1 => exact absurd rfl h
  | _ => rfl

/-- The granules of a tile's stored form, counted in bits (04 R91). -/
theorem storedGranules_eq (t : Ty) (rows cols : Nat) (h : t = .e2m1 → cols % 8 = 0) :
    storedGranules t rows cols = if t = .e2m1 then (rows * cols * Ty.width t + 511) / 512 + (rows * cols / 8 + 63) / 64
      else (rows * cols * Ty.width t + 511) / 512 := by
  unfold storedGranules
  split
  next ht =>
    obtain ⟨k, rfl⟩ := Nat.dvd_of_mod_eq_zero (h ht)
    have hwidth : Ty.width t = 4 := by rw [ht]; rfl
    rw [hwidth, Nat.mul_left_comm]
    omega
  next ht =>
    rw [width_eq_bytes ht, Nat.mul_left_comm, Nat.mul_div_cancel_left _ (by decide : 0 < 8)]
    omega

/-- What `talloc` asks for is what the model allocates (04 R91; 09 R201). -/
theorem allocationOf_eq (v : Inst) (f : RForm) : allocationOf v f =
    let n := (v.regs.getX f.a).toNat
    let rows := n % 256 + 1
    let cols := n / 256 % 256 + 1
    if n ≥ 2 ^ 16 ∨ (f.ty = .e2m1 ∧ cols % 8 ≠ 0) ∨ 640 < storedGranules f.ty rows cols then none
    else some (rows, cols, storedGranules f.ty rows cols) := by
  unfold allocationOf
  extract_lets n rows cols size count
  by_cases hcols : f.ty = .e2m1 ∧ cols % 8 ≠ 0
  · rw [if_neg fun h => h.2.1 hcols, if_pos (.inr (.inl hcols))]
  · have hcount : count = storedGranules f.ty rows cols :=
      (storedGranules_eq f.ty rows cols fun ht => not_not.mp fun h => hcols ⟨ht, h⟩).symm
    rw [hcount, ← ite_not]
    congr 1
    simp only [hcols, not_false_eq_true, true_and, false_or, eq_iff_iff]
    omega

theorem exec_talloc_of_refused {f : RForm} (hi : issues (.talloc f) s id v = true) (ha : allocationOf v f = none) :
    exec (.talloc f) s = .next (trapped s id 0x1D 0) := by
  rw [allocationOf_eq] at ha
  rw [exec_talloc, execTalloc]
  refine issue_trap (t := s) (k := trapOf stBadHeader 0) hi ?_
  dsimp only at ha ⊢
  split at ha
  next h => rw [if_pos h]
  next => cases ha

section
variable {f : RForm} {rows cols count : Nat}

theorem exec_talloc_of_full (hi : issues (.talloc f) s id v = true) (ha : allocationOf v f = some (rows, cols, count))
    (hfull : s.findSpace v count = none) :
    exec (.talloc f) s = .next (retired (.talloc f) s id (withX v f.d (BitVec.allOnes 64)) 2) := by
  obtain ⟨-, hv, -, -⟩ := issues_iff.mp hi
  rw [allocationOf_eq] at ha
  rw [exec_talloc, execTalloc]
  refine (issue_next (t := s.setInst id (withX v f.d noSpace)) (latency := 2) hi ?_).trans ?_
  · dsimp only at ha ⊢
    split at ha
    next => cases ha
    next h =>
      cases ha
      rw [if_neg h, hfull]
      rfl
  · simp [retired, noSpace]

theorem headerWritten_talloc {n base : Nat} (hi : issues (.talloc f) s id v = true) (ha : allocationOf v f = some (rows, cols, count))
    (hst : stagesNothing v) (hspace : s.findSpace v count = some (n, base)) :
    HeaderWritten (.talloc f) s id (withX v f.d (BitVec.ofNat 64 (handleOf v.place.cell (contextOf s v).home n))) n
      (newHeader f.ty rows cols base count 0x3F80#16, BitVec.ofNat 64 (v.place.ctx * 2 ^ 56)) := by
  rw [allocationOf_eq] at ha
  refine headerWritten_of_effect (δ := { HdrDelta.none n with alloc := some (newHeader f.ty rows cols base count 0x3F80#16), producer := some .none })
    (r := s.setInst id (withX v f.d (BitVec.ofNat 64 (handleOf v.place.cell (contextOf s v).home n)))) (latency := 2)
    (exec_talloc f s) hi ?_ (State.setInst_inst? ..) hst ⟨rfl, rfl, rfl, rfl⟩
  dsimp only at ha ⊢
  split at ha
  next => cases ha
  next h =>
    cases ha
    rw [if_neg h, hspace]
    rfl

end

/-- Settles O21: each form stages or writes one header of its cell, and its instance reads it at once. -/
theorem headerWrites : Obligations.HeaderWrites := by
  unfold Obligations.HeaderWrites
  refine ⟨fun i n words s id v hw hst _ hi => ?_, fun f s id v hst _ hi => ?_⟩
  · cases i with
    | thdr f => exact headerWritten_thdr hw hst hi
    | tfree f => exact headerWritten_tfree hw hst hi
    | _ => cases hw
  · split
    next ha => exact exec_talloc_of_refused hi ha
    next rows cols count ha =>
      split
      next hfull => exact exec_talloc_of_full hi ha hfull
      next n base hspace => exact headerWritten_talloc hi ha hst hspace

end Sys2Proof.Machine
end

section
/-!
The forms and events that trap, and the debugger (O39).
-/

set_option Elab.async false

namespace Sys2Proof.Machine

open Sys2Proof.Claims

variable {s : State} {id : Nat} {v : Inst}

/-! ## Traps of forms and events (06 R133, R134; 07 R159; 12 R279) -/

theorem exec_trap_of_issues {f : ZForm} (hi : issues (.trap f) s id v = true) : exec (.trap f) s = .next (trapped s id 0x09 (f.code % 256)) := by
  rw [exec_trap, execTrap]
  exact issue_trap (t := s) (k := trapOf stUser (f.code % 256)) hi rfl

theorem exec_illegalInstruction_of_live (ha : s.actor = some id) (hv : s.inst? id = some v) (w : Word) :
    exec (.illegalInstruction w) s = .next (trapped s id 0x10
      (((lowestCause (staticCauses w.toNat ++ lessonCauses v.hdr v.pc w.toNat)).map IllegalCause.code).getD 1)) := by
  rw [exec_illegalInstruction, execIllegalInstruction, ha]
  dsimp only
  rw [hv]
  rfl

theorem exec_waitTimeout_of_waiting {began : Nat} (hv : s.inst? id = some v) (hc : v.committed = true) (hw : v.waitSince = some began)
    (hr : v.status = .running) : exec (.waitTimeout id began) s = .next (trapped s id 0x13 0) := by
  rw [exec_waitTimeout, execWaitTimeout, hv]
  dsimp only
  rw [if_pos (by simp [hc, hw, hr])]
  rfl

/-! ## The debugger (12 R279; 26 R408) -/

/-- `brk` completes before it halts its instance. -/
theorem exec_brk_of_debugger {f : ZForm} (hi : issues (.brk f) s id v = true) (hd : s.dev.debug = .intrusive) (hb : s.dev.debugger = true) :
    exec (.brk f) s = .next (s.setInst id { completed (.brk f) s.clk v 1 with status := .halted, wake := none }) := by
  obtain ⟨-, hv, -, -⟩ := issues_iff.mp hi
  rw [exec_brk, execBrk, issue_eq hi, if_pos (by simp [hd, hb])]
  simp only [Done.outcome, settle, State.modInst_of_some hv]
  rw [State.modInst_of_some (State.setInst_inst? ..)]
  simp [completed]

theorem exec_debugResume_of_live (hv : s.inst? id = some v) : exec (.debugResume id) s =
    .next (s.setInst id (if v.status = .halted then { v with status := .running, wake := some (s.clk + 1) } else v)) := by
  rw [exec_debugResume, execDebugResume, State.modInst_of_some hv]

/-- A scalar register takes lanes 0 and 1 of the value. -/
theorem append_lanes (a b : Lane) : (a ++ b : Word) = BitVec.ofNat 64 (a.toNat * 2 ^ 32 + b.toNat) := by
  have ha := a.isLt
  have hb := b.isLt
  apply BitVec.eq_of_toNat_eq
  rw [BitVec.toNat_append, ← Nat.shiftLeft_add_eq_or_of_lt hb, Nat.shiftLeft_eq, BitVec.toNat_ofNat, Nat.mod_eq_of_lt (by omega)]

theorem exec_haltedInstanceRegisterWrite_of_halted (hv : s.inst? id = some v) (hh : v.status = .halted) (hd : s.dev.debug = .intrusive)
    (c : RegClass) (n : Nat) (w : VecVal) :
    exec (.haltedInstanceRegisterWrite id c n w) s = .next (s.setInst id (match c with
      | .x => withX v n (BitVec.ofNat 64 ((w.lane 1).toNat * 2 ^ 32 + (w.lane 0).toNat))
      | .v => withV v n w
      | .k => withK v n (BitVec.ofNat 16 (w.lane 0).toNat)
      | .lc => { v with regs := v.regs.setLc n (w.lane 0) }
      | _ => v)) := by
  rw [exec_haltedInstanceRegisterWrite, execHaltedInstanceRegisterWrite, State.modInst_of_some hv, if_neg (by simp [hh, hd])]
  cases c with
  | x => exact congrArg (fun x => Host.Outcome.next (s.setInst id (withX v n x))) (append_lanes _ _)
  | _ => rfl

/-- Settles O39: each form and each event answers as its own lemma above says. -/
theorem trapsAndDebug : Obligations.TrapsAndDebug :=
  ⟨fun _ _ _ _ _ hi => exec_trap_of_issues hi,
    fun w _ _ _ ha hv => exec_illegalInstruction_of_live ha hv w,
    fun _ _ _ _ hv hc hw hr => exec_waitTimeout_of_waiting hv hc hw hr,
    fun _ _ _ _ _ hi hd hb => exec_brk_of_debugger hi hd hb,
    fun _ _ _ hv => exec_debugResume_of_live hv,
    fun _ n c w _ _ hv hh hd => exec_haltedInstanceRegisterWrite_of_halted hv hh hd c n w⟩

end Sys2Proof.Machine
end

section
/-!
Scalar arithmetic (07 R143 to R148): the model's reading, extending and dividing of integers is that of the statements, for every type; a
legal word names an assigned function; and so every register form and every immediate form completes with its tabulated effect (O1, O2).
-/

set_option Elab.async false

namespace Sys2Proof.Machine

open Sys2Proof.Claims
open Laws.Opcode (fmt)

variable {s : State} {id : Nat} {v : Inst}

/-! ## Integers of a type (07 R143) -/

theorem width_bounds (t : Ty) : 0 < Ty.width t ∧ Ty.width t ≤ 64 := by cases t <;> decide

/-- A type's width is a power of two, so that it divides the number of its values. -/
theorem width_dvd_two_pow (t : Ty) : Ty.width t ∣ 2 ^ Ty.width t := by cases t <;> decide

/-- A field read as a signed number is its balanced remainder, for every width. -/
theorem signed_eq_bmod_two_pow {n : Nat} (hn : 0 < n) (w : Nat) : signed n w = (w : Int).bmod (2 ^ n) := by
  obtain ⟨k, rfl⟩ : ∃ k, n = k + 1 := ⟨n - 1, by omega⟩
  have hcast : ((w % 2 ^ (k + 1) : Nat) : Int) = (w : Int) % ((2 ^ (k + 1) : Nat) : Int) := by push_cast; rfl
  have htwo : 2 ^ (k + 1) = 2 * 2 ^ k := pow_succ' ..
  unfold signed Int.bmod
  dsimp only
  rw [← hcast, Nat.add_sub_cancel]
  split
  · rw [if_pos (by omega)]
  · rw [if_neg (by omega)]

/-- A number counts modulo 2^w alone. -/
theorem wrap_emod (t : Ty) (z : Int) : wrap t (z % (2 ^ Ty.width t : Nat)) = wrap t z := by
  unfold wrap
  split
  · exact Int.emod_bmod ..
  · exact Int.emod_emod_of_dvd _ (dvd_refl _)

theorem wrap_emod_of_dvd (t : Ty) {m : Int} (h : ((2 ^ Ty.width t : Nat) : Int) ∣ m) (z : Int) : wrap t (z % m) = wrap t z := by
  rw [← wrap_emod, Int.emod_emod_of_dvd _ h, wrap_emod]

theorem wrap_emod_word (t : Ty) (z : Int) : wrap t (z % (2 ^ 64 : Nat)) = wrap t z :=
  wrap_emod_of_dvd t (Int.natCast_dvd_natCast.mpr (pow_dvd_pow 2 (width_bounds t).2)) z

theorem readInt_eq_wrap (t : Ty) (n : Nat) : readInt t n = wrap t n := by
  unfold readInt wrap
  split
  · exact signed_eq_bmod_two_pow (width_bounds t).1 n
  · rfl

theorem readInt_eq_source (t : Ty) (x : Word) : readInt t x.toNat = source t x := readInt_eq_wrap t x.toNat

/-- A result extended from its type: steps 2 and 3 of R143. -/
theorem extend_eq_widened (t : Ty) (z : Int) : extend t z = widened t z := by
  obtain ⟨hpos, hle⟩ := width_bounds t
  have hhalf : 2 ^ Ty.width t = 2 * 2 ^ (Ty.width t - 1) := by rw [← pow_succ', Nat.sub_add_cancel hpos]
  have hword : 2 ^ Ty.width t ≤ 2 ^ 64 := Nat.pow_le_pow_right (by decide) hle
  have hnonneg : 0 ≤ z % ((2 ^ Ty.width t : Nat) : Int) := Int.emod_nonneg _ (by positivity)
  have hlt : z % ((2 ^ Ty.width t : Nat) : Int) < ((2 ^ Ty.width t : Nat) : Int) := Int.emod_lt_of_pos _ (by positivity)
  unfold extend writeInt widened wrap Int.bmod
  dsimp only
  generalize 2 ^ Ty.width t = p at *
  generalize 2 ^ (Ty.width t - 1) = q at *
  generalize z % (p : Int) = r at *
  apply BitVec.eq_of_toNat_eq
  rw [BitVec.toNat_ofNat, BitVec.toNat_ofInt]
  cases Ty.isSigned t with
  | true =>
    simp only [true_and, if_true]
    split_ifs <;> omega
  | false =>
    simp only [Bool.false_eq_true, false_and, if_false]
    omega

/-- The quotient and the remainder are decided by the three cases of R146. -/
theorem divide_eq_quotRem (t : Ty) (a b : Int) : divide t a b = quotRem t a b := by
  simp only [divide, quotRem, minInt, maxInt]
  by_cases hs : Ty.isSigned t = true
  · simp [hs]
  · simp [hs]

/-! ## Operations on w bits (07 R145) -/

theorem shift_count (t : Ty) (b : Int) : wbits t b % Ty.width t = (b % Ty.width t).toNat := by
  have hdvd : ((Ty.width t : Nat) : Int) ∣ ((2 ^ Ty.width t : Nat) : Int) := Int.natCast_dvd_natCast.mpr (width_dvd_two_pow t)
  have hpos : (0 : Int) < (2 ^ Ty.width t : Nat) := by positivity
  have hwidth : (0 : Int) < Ty.width t := by exact_mod_cast (width_bounds t).1
  have hcast : ((wbits t b % Ty.width t : Nat) : Int) = b % Ty.width t := by
    rw [Int.natCast_mod, wbits, Int.toNat_of_nonneg (Int.emod_nonneg _ hpos.ne'), Int.emod_emod_of_dvd _ hdvd]
  omega

theorem opShl_eq (t : Ty) (a b : Int) : opShl t a b = a * 2 ^ (b % Ty.width t).toNat := by
  rw [opShl, shift_count]
  push_cast
  rfl

theorem opShr_eq (t : Ty) (a b : Int) : opShr t a b = a / 2 ^ (b % Ty.width t).toNat := by
  rw [opShr, shift_count, Int.fdiv_eq_ediv_of_nonneg _ (by positivity)]
  push_cast
  rfl

theorem opMulh_eq (t : Ty) (a b : Int) : opMulh t a b = a * b / 2 ^ Ty.width t := by
  rw [opMulh, Int.fdiv_eq_ediv_of_nonneg _ (by positivity)]
  push_cast
  rfl

theorem opAnd_eq (t : Ty) (a b : Int) : opAnd t a b = bitwise t (· &&& ·) a b := by
  simp [opAnd, bitwise, wbits, BitVec.toNat_ofInt]

theorem opOr_eq (t : Ty) (a b : Int) : opOr t a b = bitwise t (· ||| ·) a b := by
  simp [opOr, bitwise, wbits, BitVec.toNat_ofInt]

theorem opXor_eq (t : Ty) (a b : Int) : opXor t a b = bitwise t (· ^^^ ·) a b := by
  simp [opXor, bitwise, wbits, BitVec.toNat_ofInt]

/-- The conditions of R147 on the assigned codes. -/
theorem intHolds_eq {code : Nat} (h : code ≤ 5) (a b : Int) : intHolds code a b = (conditions a b).getD code false := by
  interval_cases code <;> rfl

theorem opCmp_eq (t : Ty) {code : Nat} (h : code ≤ 5) (a b : Int) : opCmp code t a b = condition code a b := by
  rw [opCmp, condition, intHolds_eq h]

/-- An immediate extended by type, before the type reads it (R144). -/
theorem extended_immediate (t : Ty) {n : Nat} (hn : 0 < n) (imm : Nat) :
    (if Ty.isSigned t then signed n imm else ((imm % 2 ^ n : Nat) : Int)) =
      if Ty.isSigned t then (imm % 2 ^ n : Int).bmod (2 ^ n) else imm % 2 ^ n := by
  split
  · rw [signed_eq_bmod_two_pow hn]
    exact_mod_cast (Int.emod_bmod (imm : Int) (2 ^ n)).symm
  · push_cast
    rfl

/-- An immediate as source B (R144). -/
theorem immValue_eq_immediate (t : Ty) {n : Nat} (hn : 0 < n) (imm : Nat) : immValue t n imm = immediate t n imm := by
  have hword (z : Int) : readInt t (z % (2 ^ 64 : Nat)).toNat = wrap t z := by
    rw [readInt_eq_wrap, Int.toNat_of_nonneg (Int.emod_nonneg _ (by decide)), wrap_emod_word]
  rw [immValue, immediate, hword, extended_immediate t hn]

/-! ## The fields that a legal word shows (06 R133) -/

/-- The word of a legal instruction has its opcode and shows no cause. -/
theorem clean_of_legal {i : Instr} {p : Nat} {f : Form} (hp : i.parts = some (p, f)) (h : legal i = true) :
    bits (f.word p) 63 56 = p ∧ staticCauses (f.word p) = [] ∧ Clean (fmt f) (f.word p) := by
  have hmap := Laws.Opcode.all i
  simp only [Laws.Opcode.Statement, hp] at hmap
  obtain ⟨hlt, hfmt, -⟩ := hmap
  have hcauses : staticCauses (f.word p) = [] := by simpa only [legal, encode, hp, List.isEmpty_iff] using h
  have hbits := f.bits_word hlt
  exact ⟨hbits, hcauses, clean_of_staticCauses (hbits.symm ▸ hfmt) hcauses⟩

theorem badFunction_of_legal {i : Instr} {p : Nat} {f : Form} (hp : i.parts = some (p, f)) (h : legal i = true) :
    badFunction p (f.word p) = false := by
  obtain ⟨hbits, -, hclean⟩ := clean_of_legal hp h
  have hfunction := hclean.function
  rwa [hbits] at hfunction

theorem bits_word_fn (p : Nat) (f : RForm) : bits (Form.word p (.r f)) 19 0 = f.fn := by
  have h := congrArg (fun g => g.fn.val) (RForm.ofWord_word p f)
  rwa [RForm.ofWord, val_fin_bits (by norm_num)] at h

theorem bits_word_cond (p : Nat) (f : LForm) : bits (Form.word p (.l f)) 25 23 = f.cond := by
  have h := congrArg (fun g => g.cond.val) (LForm.ofWord_word p f)
  rwa [LForm.ofWord, val_fin_bits (by decide)] at h

/-- An I word holds its immediate in its low bits. -/
theorem word_mod_imm (p : Nat) (f : IForm) : Form.word p (.i f) % 2 ^ 32 = f.imm := by
  have h := congrArg (fun g => g.imm.val) (IForm.ofWord_word p f)
  rwa [IForm.ofWord, val_fin_bits (by norm_num), bits_low] at h

/-- The condition code of a legal `cmpset` is assigned (R147). -/
theorem fn_of_legal_cmpset {f : RForm} (h : legal (.cmpset f) = true) : f.fn.val ≤ 5 := by
  simpa [badFunction, bits_word_fn] using badFunction_of_legal (p := 0x0B) (f := .r f) rfl h

/-- The condition code of a legal `cmpseti`, in the upper bits of its immediate, is assigned (R148). -/
theorem cond_of_legal_cmpseti {f : IForm} (h : legal (.cmpseti f) = true) : f.imm.val / 2 ^ 29 ≤ 5 := by
  have hfn : bits (Form.word 0x1B (.i f)) 31 29 ≤ 5 := by
    simpa [badFunction] using badFunction_of_legal (p := 0x1B) (f := .i f) rfl h
  have himm := word_mod_imm 0x1B f
  unfold bits at hfn
  omega

/-! ## The register forms (07 R145 to R147) -/

/-- A register form, by what its operation makes of the values of its sources. -/
theorem issue_binaryR {i : Instr} {f : RForm} {op : Ty → Int → Int → Int} {z : Int} (hi : issues i s id v = true)
    (hop : op f.ty (source f.ty (v.regs.getX f.a)) (source f.ty (v.regs.getX f.b)) = z) :
    issue i (binaryR f op) s = .next (retired i s id (withX v f.d (widened f.ty z)) 1) := by
  rw [binaryR, issue_regEffect hi, extend_eq_widened, readInt_eq_source, readInt_eq_source, hop]
  rfl

/-- Settles O1: each register form applies its operation to its sources as the type reads them, and extends the result. -/
theorem scalarRegisterForms : Obligations.ScalarRegisterForms := by
  unfold Obligations.ScalarRegisterForms
  intro i f op s id v hform hl hi
  cases i with
  | add | sub | mul | min | max =>
    cases hform
    exact issue_binaryR hi rfl
  | mulh =>
    cases hform
    exact issue_binaryR hi (opMulh_eq ..)
  | div =>
    cases hform
    exact issue_binaryR hi (congrArg Prod.fst (divide_eq_quotRem ..))
  | rem =>
    cases hform
    exact issue_binaryR hi (congrArg Prod.snd (divide_eq_quotRem ..))
  | and =>
    cases hform
    exact issue_binaryR hi (opAnd_eq ..)
  | or =>
    cases hform
    exact issue_binaryR hi (opOr_eq ..)
  | xor =>
    cases hform
    exact issue_binaryR hi (opXor_eq ..)
  | shl =>
    cases hform
    exact issue_binaryR hi (opShl_eq ..)
  | shr =>
    cases hform
    exact issue_binaryR hi (opShr_eq ..)
  | cmpset =>
    cases hform
    exact issue_binaryR hi (opCmp_eq _ (fn_of_legal_cmpset hl) ..)
  | _ => cases hform

/-! ## The immediate forms (07 R144, R148) -/

/-- A form that writes a number extended from its type. -/
theorem issue_extend {i : Instr} {t : Ty} {d : Nat} {z : Inst → Int} {y : Int} (hi : issues i s id v = true) (hz : z v = y) :
    issue i (regEffect 1 fun v => v.regs.setX d (extend t (z v))) s = .next (retired i s id (withX v d (widened t y)) 1) := by
  rw [issue_regEffect hi, extend_eq_widened, hz]
  rfl

/-- An immediate form, by what its operation makes of the values of its source and its immediate. -/
theorem issue_binaryI {i : Instr} {f : IForm} {op : Ty → Int → Int → Int} {z : Int} (hi : issues i s id v = true)
    (hop : op f.ty (source f.ty (v.regs.getX f.a)) (immediate f.ty 32 f.imm) = z) :
    issue i (binaryI f op) s = .next (retired i s id (withX v f.d (widened f.ty z)) 1) :=
  issue_extend hi (by rw [readInt_eq_source, immValue_eq_immediate _ (by decide), hop])

/-- The count of an immediate shift is its six low bits modulo w. -/
theorem shift_immediate (t : Ty) (imm : Nat) : ((bits imm 5 0 : Nat) % (Ty.width t : Int)).toNat = imm % 64 % Ty.width t := by
  rw [bits_low, ← Int.natCast_mod, Int.toNat_natCast]
  rfl

/-- Settles O2: each immediate form applies its operation to its source and its immediate as the type reads them, and extends the
result. -/
theorem scalarImmediateForms : Obligations.ScalarImmediateForms := by
  unfold Obligations.ScalarImmediateForms
  intro i f op s id v hform hl hi
  cases i with
  | addi | muli | mini | maxi =>
    cases hform
    exact issue_binaryI hi rfl
  | andi =>
    cases hform
    exact issue_binaryI hi (opAnd_eq ..)
  | ori =>
    cases hform
    exact issue_binaryI hi (opOr_eq ..)
  | xori =>
    cases hform
    exact issue_binaryI hi (opXor_eq ..)
  | li =>
    cases hform
    exact issue_extend hi (immValue_eq_immediate _ (by decide) _)
  | shli =>
    cases hform
    exact issue_extend hi (by rw [opShl_eq, shift_immediate, readInt_eq_source])
  | shri =>
    cases hform
    exact issue_extend hi (by rw [opShr_eq, shift_immediate, readInt_eq_source])
  | cmpseti =>
    cases hform
    have hcond := cond_of_legal_cmpseti hl
    have hcode : bits f.imm 31 29 = f.imm.val / 2 ^ 29 := Nat.mod_eq_of_lt (by omega)
    exact issue_extend hi (by rw [hcode, opCmp_eq _ hcond, readInt_eq_source, immValue_eq_immediate _ (by decide)])
  | _ => cases hform

end Sys2Proof.Machine
end

section
/-!
Moves into a scalar register and writes of a mask register (07 R145, R148, R149, R156, R161; 08 R172, R177, R178): each form writes one
register with the stated value (O3, O4).
-/

set_option Elab.async false

namespace Sys2Proof.Machine

open Sys2Proof.Claims

variable {s : State} {id : Nat} {v : Inst}

/-! ## Moves into a scalar register -/

/-- A form that writes a word to a scalar register. -/
theorem issue_setX {i : Instr} {latency d : Nat} {x : Inst → Word} {w : Word} (hi : issues i s id v = true) (hx : x v = w) :
    issue i (regEffect latency fun v => v.regs.setX d (x v)) s = .next (retired i s id (withX v d w) latency) := by
  rw [issue_regEffect hi, hx]
  rfl

/-- Address arithmetic modulo 2^64 (R145). -/
theorem add_shiftLeft_eq (a b : Word) (n : Nat) : a + b <<< n = BitVec.ofNat 64 (a.toNat + b.toNat * 2 ^ n) := by
  apply BitVec.eq_of_toNat_eq
  simp [BitVec.toNat_add, BitVec.toNat_shiftLeft, Nat.shiftLeft_eq]

/-- In a type of 64 bits a number and its value by the type are the same word. -/
theorem ofInt_wrap {t : Ty} (h : Ty.width t = 64) (z : Int) : BitVec.ofInt 64 (wrap t z) = BitVec.ofInt 64 z := by
  apply BitVec.eq_of_toNat_eq
  rw [BitVec.toNat_ofInt, BitVec.toNat_ofInt, wrap, h]
  split
  · rw [Int.bmod_emod]
  · exact congrArg Int.toNat (Int.emod_emod_of_dvd _ (dvd_refl _))

theorem ofInt_shiftLeft (z : Int) (n : Nat) : (BitVec.ofInt 64 z) <<< n = BitVec.ofInt 64 (z * 2 ^ n) := by
  have hpow : BitVec.ofInt 64 (2 ^ n) = BitVec.twoPow 64 n := by
    apply BitVec.eq_of_toNat_eq
    have hcast : (2 : Int) ^ n = ((2 ^ n : Nat) : Int) := by push_cast; rfl
    rw [BitVec.toNat_twoPow, hcast, BitVec.ofInt_natCast, BitVec.toNat_ofNat]
  rw [BitVec.shiftLeft_eq_mul_twoPow, BitVec.ofInt_mul, hpow]

/-- A word moved by a multiple of a number that a type of 64 bits has read (R148). -/
theorem add_ofInt_shiftLeft {t : Ty} (h : Ty.width t = 64) (a : Word) (z : Int) (n : Nat) :
    a + (BitVec.ofInt 64 z) <<< n = BitVec.ofInt 64 (a.toNat + wrap t z * 2 ^ n) := by
  rw [BitVec.ofInt_add, ← ofInt_shiftLeft, ofInt_wrap h, BitVec.ofInt_natCast, BitVec.ofNat_toNat, BitVec.setWidth_eq]

/-- A legal I form names a type that its row lists (06 R133). -/
theorem type_of_legal_i {i : Instr} {p : Nat} {f : IForm} {ts : List Ty} (hp : i.parts = some (p, .i f)) (h : legal i = true)
    (hrow : ∀ w, (rowOf p w).types = ts) (hts : ts.isEmpty = false) : f.ty ∈ ts := by
  obtain ⟨hbits, hcauses, hclean⟩ := clean_of_legal hp h
  have hty : tyOf (Form.word p (.i f)) = f.ty := congrArg IForm.ty (IForm.ofWord_word p f)
  have hcode : Ty.ofCode (bits (Form.word p (.i f)) 48 44) = some f.ty := by rw [← hclean.code_tyOf, hty, tyOfCode_code]
  by_contra hmem
  have hcause := typeNotAccepted_mem hclean.format hcode (by rwa [hbits, hrow]) (by rwa [hbits, hrow])
  rw [hcauses] at hcause
  exact List.not_mem_nil hcause

/-- The types of a legal `addai` have 64 bits (R148). -/
theorem width_of_legal_addai {f : IForm} (h : legal (.addai f) = true) : Ty.width f.ty = 64 := by
  have hty : f.ty ∈ [Ty.i64, .n64] := type_of_legal_i (p := 0x1F) rfl h (fun _ => rfl) rfl
  have hwidth : ∀ t ∈ [Ty.i64, .n64], Ty.width t = 64 := by decide
  exact hwidth f.ty hty

/-- A word of `rdsr` whose selector is not assigned shows it (06 R133). -/
theorem selector_mem {w : Nat} {fm : Fmt} (hf : fmtOf (bits w 63 56) = some fm) (hp : bits w 63 56 = 0x1C) (h : 7 < bits w 7 0) :
    IllegalCause.selector ∈ staticCauses w := by
  rw [hp] at hf
  simp only [staticCauses, hf, hp, h, List.mem_append, List.mem_singleton, decide_true, Bool.and_self, if_true, or_true]

/-- The selector of a legal `rdsr` is assigned (06 R133; R149). -/
theorem selector_of_legal_rdsr {f : IForm} (h : legal (.rdsr f) = true) : f.imm.val % 256 ≤ 7 := by
  obtain ⟨hbits, hcauses, hclean⟩ := clean_of_legal (p := 0x1C) (f := .i f) rfl h
  have himm := word_mod_imm 0x1C f
  by_contra hsel
  have hmem := selector_mem hclean.format hbits (by rw [bits_low]; omega)
  rw [hcauses] at hmem
  exact List.not_mem_nil hmem

theorem special_eq_specialRegisters (p : Place) {n : Nat} (h : n ≤ 7) : p.special n = (specialRegisters p).getD n 0#64 := by
  interval_cases n <;> rfl

theorem length_setBitsOf (w : BitVec 16) : (setBitsOf w).length = (List.range 16).countP fun j => w.getLsbD j :=
  List.countP_eq_length_filter.symm

theorem headD_setBitsOf (w : BitVec 16) : (setBitsOf w).headD 16 = ((List.range 16).find? fun j => w.getLsbD j).getD 16 := by
  rw [setBitsOf, List.headD_eq_head?_getD, List.head?_filter]

/-- Settles O3: each form writes its value, read from the registers or from the instance's place. -/
theorem scalarMoves : Obligations.ScalarMoves := by
  unfold Obligations.ScalarMoves
  intro i d latency w s id v hmove hl hi
  cases i with
  | sel | lih =>
    cases hmove
    exact issue_setX hi rfl
  | adda =>
    cases hmove
    exact issue_setX hi (add_shiftLeft_eq ..)
  | addai f =>
    cases hmove
    have hwidth := width_of_legal_addai hl
    refine issue_setX hi ?_
    have hshift : bits f.imm 31 29 = f.imm.val / 2 ^ 29 := Nat.mod_eq_of_lt (by omega)
    rw [hshift, extended_immediate _ (by decide), add_ofInt_shiftLeft hwidth]
    rfl
  | rdsr f =>
    cases hmove
    refine issue_setX hi ?_
    rw [bits_low]
    exact special_eq_specialRegisters _ (selector_of_legal_rdsr hl)
  | rdlc | kread =>
    cases hmove
    exact issue_setX hi (BitVec.ofNat_toNat ..).symm
  | kpop =>
    cases hmove
    exact issue_setX hi (congrArg _ (length_setBitsOf _))
  | kfirst =>
    cases hmove
    exact issue_setX hi (congrArg _ (headD_setBitsOf _))
  | vlane f =>
    cases hmove
    refine issue_setX hi ?_
    rw [bits_low]
    split
    · rfl
    · exact (BitVec.ofNat_toNat ..).symm
  | _ => cases hmove

/-! ## Writes of a mask register -/

/-- A form that writes a mask register with the stated bits. -/
theorem issue_setK {i : Instr} {latency d : Nat} {m : Inst → BitVec 16} {b : Nat → Bool} (hi : issues i s id v = true)
    (hb : ∀ j < 16, (m v).getLsbD j = b j) : ∃ w : BitVec 16, (∀ j < 16, w.getLsbD j = b j) ∧
      issue i (regEffect latency fun v => v.regs.setK d (m v)) s = .next (retired i s id (withK v d w) latency) :=
  ⟨m v, hb, issue_regEffect hi⟩

theorem selects_eq_selected (r : Regs) (mask : Nat) (neg : Bool) (j : Nat) : r.selects mask neg j = selected r mask neg j := by
  unfold Regs.selects selected
  cases neg <;> simp

/-- The conditions of R172 on the assigned codes. -/
theorem laneHolds_eq {code : Nat} (h : code ≤ 5) (t : Ty) (a b : Nat) : laneHolds code t a b = laneCondition code t a b := by
  unfold laneHolds laneCondition fpHolds
  rw [intHolds_eq h, readInt_eq_wrap, readInt_eq_wrap]
  split
  · split
    · rfl
    · interval_cases code <;> rfl
  · rfl

/-- The condition code of a legal `vcmp` is assigned (08 R172). -/
theorem fn_of_legal_vcmp {f : RForm} (h : legal (.vcmp f) = true) : f.fn.val ≤ 5 := by
  simpa [badFunction, bits_word_fn] using badFunction_of_legal (p := 0x50) (f := .r f) rfl h

/-- Settles O4: each form writes a mask, bit by bit. -/
theorem maskForms : Obligations.MaskForms := by
  unfold Obligations.MaskForms
  intro i d latency b s id v hmask hl hi
  cases i with
  | kand =>
    cases hmask
    exact issue_setK hi fun j _ => BitVec.getLsbD_and
  | kor =>
    cases hmask
    exact issue_setK hi fun j _ => BitVec.getLsbD_or
  | kxor =>
    cases hmask
    exact issue_setK hi fun j _ => by simp [BitVec.getLsbD_xor]
  | knot =>
    cases hmask
    exact issue_setK hi fun j hj => by simp [hj]
  | kmov =>
    cases hmask
    exact issue_setK hi fun j hj => by simp [hj]
  | vgetvalid =>
    cases hmask
    exact issue_setK hi fun j _ => rfl
  | vcmp =>
    cases hmask
    refine issue_setK hi fun j hj => ?_
    rw [maskOf_getLsbD _ _ hj, selects_eq_selected, laneHolds_eq (fn_of_legal_vcmp hl)]
    rfl
  | _ => cases hmask

end Sys2Proof.Machine
end

section
/-!
Branches and loops (07 R150 to R155): where control goes, what a loop's form leaves of the counters and of the stack, and the end test
(O5, O6, O7).
-/

set_option Elab.async false

namespace Sys2Proof.Machine

open Sys2Proof.Claims

variable {s t : State} {id : Nat} {v : Inst}

/-! ## Conditions and targets (06 R127) -/

/-- The condition of an L form on the assigned codes. -/
theorem lHolds_eq_taken {f : LForm} (h : f.cond.val ≤ 3) (r : Regs) : lHolds f r = taken f r := by
  unfold lHolds taken
  rw [readInt_eq_source, readInt_eq_source]
  generalize f.cond.val = c at h
  interval_cases c <;> rfl

theorem signed_off_eq_offset (f : LForm) : signed 20 f.off = offset f := signed_eq_bmod_two_pow (by decide) _

theorem lTarget_eq (f : LForm) (pc : Nat) : lTarget f pc = pc + offset f := by rw [lTarget, signed_off_eq_offset]

/-- The condition code of a legal `b` is assigned (R150). -/
theorem cond_of_legal_b {f : LForm} (h : legal (.b f) = true) : f.cond.val ≤ 3 := by
  simpa [badFunction, bits_word_cond] using badFunction_of_legal (p := 0x20) (f := .l f) rfl h

/-- The condition code of a legal `lexit` is assigned (R155). -/
theorem cond_of_legal_lexit {f : LForm} (h : legal (.lexit f) = true) : f.cond.val ≤ 3 := by
  simpa [badFunction, bits_word_cond] using badFunction_of_legal (p := 0x23) (f := .l f) rfl h

/-! ## Effects that transfer control (07 R153, R154) -/

/-- An effect that transfers control, leaving the loops that do not hold the target. -/
theorem issue_jump {i : Instr} {eff : State → Nat → Inst → Done} {n : Nat} (h : issues i s id v = true) (he : eff s id v = .jump s n) :
    issue i eff s = .next (s.setInst id (v.transfer (usesOf i) s.clk n true)) := by
  obtain ⟨-, hv, -, -⟩ := issues_iff.mp h
  rw [issue_eq h, he]
  exact congrArg Host.Outcome.next (State.modInst_of_some hv _)

/-- An effect that changes the instance and goes on at an index. -/
theorem issue_goto {i : Instr} {eff : State → Nat → Inst → Done} {w : Inst} {n : Nat} (h : issues i s id v = true)
    (he : eff s id v = .goto_ (s.setInst id w) n) : issue i eff s = .next (s.setInst id (w.transfer (usesOf i) s.clk n false)) := by
  rw [issue_eq h, he]
  exact congrArg Host.Outcome.next (State.modInst_setInst ..)

/-- An effect that completes and changes nothing by itself. -/
theorem issue_retired {i : Instr} {eff : State → Nat → Inst → Done} {latency : Nat} (h : issues i s id v = true)
    (he : eff s id v = .next s latency) : issue i eff s = .next (retired i s id v latency) := by
  obtain ⟨-, hv, -, -⟩ := issues_iff.mp h
  rw [issue_next h he, State.modInst_of_some hv]
  rfl

/-! ## Branches and jumps (07 R150, R151) -/

theorem exec_b_of_issues {f : LForm} (hl : legal (.b f) = true) (hi : issues (.b f) s id v = true) :
    exec (.b f) s = .next (if taken f v.regs
      then s.setInst id (v.transfer (usesOf (.b f)) s.clk (v.pc + offset f).toNat true) else retired (.b f) s id v 1) := by
  rw [exec_b, execB, ← lHolds_eq_taken (cond_of_legal_b hl), ← lTarget_eq]
  split
  next ht => exact issue_jump hi (if_pos ht)
  next hn => exact issue_retired hi (if_neg hn)

theorem exec_j_of_issues {f : LForm} (hi : issues (.j f) s id v = true) :
    exec (.j f) s = .next (if 0 ≤ v.pc + offset f + (v.regs.getX f.a).toInt ∧ v.pc + offset f + (v.regs.getX f.a).toInt ≤ v.hdr.count
      then s.setInst id (v.transfer (usesOf (.j f)) s.clk (v.pc + offset f + (v.regs.getX f.a).toInt).toNat true)
      else trapped s id 0x10 12) := by
  rw [exec_j, execJ, ← lTarget_eq]
  split
  next ht => exact issue_jump hi (if_neg (by omega))
  next hn => exact issue_trap hi (if_pos (by omega))

/-- Settles O5: a taken branch and a jump within the lesson transfer control, an untaken branch completes, another jump traps. -/
theorem branchesAndJumps : Obligations.BranchesAndJumps :=
  ⟨fun _ _ _ _ hl hi => exec_b_of_issues hl hi, fun _ _ _ _ _ hi => exec_j_of_issues hi⟩

/-! ## Opening and leaving loops (07 R152, R155) -/

theorem contains_ctr (c : Nat) (ls : List LoopEntry) : (ls.map (·.ctr)).contains c = ls.any fun e => e.ctr = c := by
  induction ls with
  | nil => rfl
  | cons e es ih => rw [List.map_cons, List.contains_cons, ih, List.any_cons, BEq.comm, beq_eq_decide]

/-- Opening a loop is refused where R152 says. -/
theorem nestTrap_iff (f : LForm) (v : Inst) : nestTrap f v = true ↔
    signed 20 f.off < 1 ∨ v.regs.loops.length = 3 ∨ (v.regs.loops.any fun e => e.ctr = f.ctr.val) = true ∨
      (match v.regs.loops with | e :: _ => decide ((e.stop : Int) < lTarget f v.pc) | [] => false) = true := by
  unfold nestTrap
  rw [signed_off_eq_offset, lTarget_eq, contains_ctr]
  simp only [Bool.or_eq_true, decide_eq_true_eq, or_assoc]
  cases v.regs.loops with
  | nil => rfl
  | cons e es => rfl

/-- The stack below the entry of a counter, and that entry's end. -/
theorem popThrough_eq (ctr : Nat) (ls : List LoopEntry) :
    popThrough ctr ls = match ls.dropWhile fun e => e.ctr ≠ ctr with | [] => none | e :: es => some (es, e.stop) := by
  induction ls with
  | nil => rfl
  | cons e es ih =>
    rw [popThrough, List.dropWhile_cons]
    by_cases h : e.ctr = ctr
    · simp [h]
    · simp [h, ih]

theorem exec_loop_of_issues {f : LForm} (hi : issues (.loop f) s id v = true) :
    let u := usesOf (.loop f)
    let t := (v.pc + offset f).toNat
    let n : Lane := BitVec.ofNat 32 (v.regs.getX f.a).toNat
    exec (.loop f) s = .next (
      if nestTrap f v then trapped s id 0x12 0
      else if n = 0#32 ∨ offset f = 1 then
        s.setInst id ({ v with regs := v.regs.setLc f.ctr 0#32 }.transfer u s.clk t false)
      else
        let r := v.regs.setLc f.ctr n
        let e : LoopEntry := { ctr := f.ctr, start := v.pc + 1, stop := t }
        s.setInst id ({ v with regs := { r with loops := e :: v.regs.loops } }.transfer u s.clk (v.pc + 1) false)) := by
  dsimp only
  rw [exec_loop, execLoop, ← lTarget_eq]
  split
  next ht => exact issue_trap hi (if_pos ((nestTrap_iff f v).mp ht))
  next hn =>
    have hopen := mt (nestTrap_iff f v).mpr hn
    rw [← signed_off_eq_offset]
    split
    next hskip => exact issue_goto hi ((if_neg hopen).trans (if_pos hskip))
    next henter => exact issue_goto hi ((if_neg hopen).trans (if_neg henter))

theorem exec_lexit_of_issues {f : LForm} (hl : legal (.lexit f) = true) (hi : issues (.lexit f) s id v = true) :
    exec (.lexit f) s = .next (
      match v.regs.loops.dropWhile fun e => e.ctr ≠ f.ctr.val with
      | [] => trapped s id 0x12 0
      | e :: es =>
        if taken f v.regs
        then s.setInst id ({ v with regs := { v.regs with loops := es } }.transfer (usesOf (.lexit f)) s.clk e.stop false)
        else retired (.lexit f) s id v 1) := by
  rw [exec_lexit, execLexit, ← lHolds_eq_taken (cond_of_legal_lexit hl)]
  split
  next hnone =>
    have hpop : popThrough f.ctr v.regs.loops = none := by rw [popThrough_eq, hnone]
    exact issue_trap hi (by dsimp only; rw [hpop]; rfl)
  next e es hsome =>
    have hpop : popThrough f.ctr v.regs.loops = some (es, e.stop) := by rw [popThrough_eq, hsome]
    split
    next ht => exact issue_goto hi (by dsimp only; rw [hpop]; exact if_pos ht)
    next hn => exact issue_retired hi (by dsimp only; rw [hpop]; exact if_neg hn)

/-- Settles O6: `loop` and `lexit` answer by the case of their rules that applies. -/
theorem loops : Obligations.Loops :=
  ⟨fun _ _ _ _ _ hi => exec_loop_of_issues hi, fun _ _ _ _ hl hi => exec_lexit_of_issues hl hi⟩

/-! ## The end test (07 R153, R154) -/

theorem popLeft_eq_leftBy (target : Nat) (ls : List LoopEntry) : popLeft target ls = leftBy target ls := by
  induction ls with
  | nil => rfl
  | cons e es ih =>
    rw [popLeft, leftBy, List.dropWhile_cons]
    split
    · exact ih
    · rfl

/-- The end test on an instance's registers is that on its counters and a stack. -/
theorem loopEnd_eq_endTest (r : Regs) (next : Nat) (ls : List LoopEntry) :
    (loopEnd r next ls).1.lc = (endTest ls r.lc next).1 ∧ (loopEnd r next ls).1.loops = (endTest ls r.lc next).2.1 ∧
      (loopEnd r next ls).2 = (endTest ls r.lc next).2.2 := by
  induction ls generalizing r with
  | nil => exact ⟨rfl, rfl, rfl⟩
  | cons e es ih =>
    have hset : (r.setLc e.ctr (r.getLc e.ctr - 1#32)).lc = if h : e.ctr < 3 then r.lc.set e.ctr (r.getLc e.ctr - 1#32) else r.lc := by
      unfold Regs.setLc
      split <;> rfl
    rw [loopEnd, endTest]
    by_cases hend : next = e.stop
    · rw [if_pos hend, if_neg (not_not.mpr hend)]
      dsimp only
      have hget : (if h : e.ctr < 3 then r.lc[e.ctr] else 0#32) = r.getLc e.ctr := rfl
      rw [hget, ← hset]
      split
      · exact ⟨rfl, rfl, rfl⟩
      · exact ih _
    · rw [if_neg hend, if_pos hend]
      exact ⟨rfl, rfl, rfl⟩

/-- Retiring frees registers, sets the next index and the next turn, and leaves counters and stack. -/
theorem retire_control (v : Inst) (u : Uses) (clk latency next : Nat) :
    (v.retire u clk latency next).regs.lc = v.regs.lc ∧ (v.retire u clk latency next).regs.loops = v.regs.loops ∧
      (v.retire u clk latency next).pc = next ∧ (v.retire u clk latency next).wake = some (clk + 1) := by
  obtain ⟨-, -, -, hlc, hloops⟩ := freeAll_values v.regs (u.lasts.filter fun q => !u.writes.contains q)
  exact ⟨hlc, hloops, rfl, rfl⟩

/-- Going on at the index that the end test gives. -/
theorem retire_loopEnd (v : Inst) (u : Uses) (clk latency next : Nat) (ls : List LoopEntry) :
    let r := endTest ls v.regs.lc next
    let w := { v with regs := (loopEnd v.regs next ls).1 }.retire u clk latency (loopEnd v.regs next ls).2
    w.regs.lc = r.1 ∧ w.regs.loops = r.2.1 ∧ w.pc = r.2.2 ∧ w.wake = some (clk + 1) := by
  obtain ⟨hlc, hloops, hpc⟩ := loopEnd_eq_endTest v.regs next ls
  obtain ⟨hlc', hloops', hpc', hwake⟩ := retire_control { v with regs := (loopEnd v.regs next ls).1 } u clk latency (loopEnd v.regs next ls).2
  exact ⟨hlc'.trans hlc, hloops'.trans hloops, hpc'.trans hpc, hwake⟩

/-- Settles O7: both ways of going on make the end test, a transfer on the stack that it leaves. -/
theorem loopEndTest : Obligations.LoopEndTest := by
  unfold Obligations.LoopEndTest
  refine ⟨fun v u clk latency => retire_loopEnd v u clk latency _ _, fun v u clk target pop => ?_⟩
  rw [← popLeft_eq_leftBy]
  exact retire_loopEnd v u clk 1 target _

end Sys2Proof.Machine
end

section
/-!
Rings (07 R157; 11 R240 to R242): the moves, what a new ring holds and where it is refused, and the traps (O15).
-/

set_option Elab.async false

namespace Sys2Proof.Machine

open Sys2Proof.Claims

variable {s u : State} {id : Nat} {v w : Inst}

/-! ## Rings (11 R240 to R242) -/

theorem ring_low_eq_ringOf (s : State) (v : Inst) (f : IForm) : s.ring v (bits f.imm 3 0) = ringOf s v f := by
  rw [bits_low]
  rfl

/-- A ring that is there and holds the count passes the checks of R242. -/
theorem ringCheck_of_le {f : IForm} {r : Ring} {n : Nat} (hr : ringOf s v f = some r) (hn : n ≤ r.entries) :
    ringCheck (s.ring v (bits f.imm 3 0)) n = .ok r := by
  rw [ring_low_eq_ringOf, hr, ringCheck, if_neg (Nat.not_lt.mpr hn)]

/-- The trap of R242 for a ring that is not there, or that has fewer entries than the count. -/
def ringCause (s : State) (v : Inst) (f : IForm) : Option Nat :=
  match ringOf s v f with
  | none => some 1
  | some r => if r.entries < low32 (v.regs.getX f.a) then some 3 else none

theorem ringCheck_of_ringCause {f : IForm} {cause : Nat} (h : ringCause s v f = some cause) :
    ringCheck (s.ring v (bits f.imm 3 0)) (low32 (v.regs.getX f.a)) = .error (trapOf stRing cause) := by
  unfold ringCause at h
  rw [ring_low_eq_ringOf]
  split at h
  next hr =>
    cases h
    rw [hr, ringCheck]
  next r hr =>
    split at h
    next hlt =>
      cases h
      rw [hr, ringCheck, if_pos hlt]
    next => cases h

/-- A ring that was set. -/
theorem rings_setRing (s : State) (v : Inst) (n : Nat) (r : Ring) : lookupA (cellOf (s.setRing v n r) v).rings n = some r := by
  rw [cellOf, State.setRing, cell_modCell, if_pos rfl]
  exact lookupA_putA_self ..

/-- A form that sets a ring and then completes, its effect having left the instance as `w`. -/
theorem issue_setRing {i : Instr} {eff : State → Nat → Inst → Done} {n : Nat} {r : Ring} (hi : issues i s id v = true)
    (he : eff s id v = .next (u.setRing v n r) 1) (hw : u.inst? id = some w) (hu : u.clk = s.clk ∧ u.mem = s.mem ∧ u.scr = s.scr) :
    ∃ t : State, issue i eff s = .next t ∧ lookupA (cellOf t v).rings n = some r ∧
      t.inst? id = some (completed i s.clk w 1) ∧ t.mem = s.mem ∧ t.scr = s.scr := by
  obtain ⟨hclk, hmem, hscr⟩ := hu
  have hring : (u.setRing v n r).inst? id = some w := hw
  refine ⟨_, (issue_next hi he).trans (congrArg _ (State.modInst_of_some hring _)), rings_setRing u v n r, ?_, hmem, hscr⟩
  rw [State.setInst_inst?, ← hclk]
  rfl

section
variable {i : Instr} {f : IForm} {avail old : Ring → Nat} {move : Ring → Nat → Ring} {cause : Nat} {r : Ring}

/-- A ring move whose count the ring holds. -/
theorem issue_ringMove (hi : issues i s id v = true) (hr : ringOf s v f = some r) (hn : low32 (v.regs.getX f.a) ≤ r.entries)
    (havail : low32 (v.regs.getX f.a) ≤ avail r) :
    ∃ t : State, issue i (ringMove f avail old move) s = .next t ∧
      lookupA (cellOf t v).rings (f.imm.val % 16) = some (move r (low32 (v.regs.getX f.a))) ∧
      t.inst? id = some (completed i s.clk (withX v f.d (BitVec.ofNat 64 (old r))) 1) ∧ t.mem = s.mem ∧ t.scr = s.scr := by
  have hcheck := ringCheck_of_le hr hn
  unfold low32 at hcheck havail ⊢
  refine issue_setRing (u := s.setInst id (withX v f.d (BitVec.ofNat 64 (old r)))) hi ?_ (State.setInst_inst? ..) ⟨rfl, rfl, rfl⟩
  unfold ringMove
  dsimp only
  rw [hcheck]
  dsimp only
  rw [if_pos havail, bits_low]
  rfl

theorem issue_ringMove_of_cause (hi : issues i s id v = true) (h : ringCause s v f = some cause) :
    issue i (ringMove f avail old move) s = .next (trapped s id 0x21 cause) := by
  have hcheck := ringCheck_of_ringCause h
  unfold low32 at hcheck
  refine issue_trap hi ?_
  unfold ringMove
  dsimp only
  rw [hcheck]
  rfl

theorem issue_ringWait_of_cause (hi : issues i s id v = true) (h : ringCause s v f = some cause) :
    issue i (ringWait f avail) s = .next (trapped s id 0x21 cause) := by
  have hcheck := ringCheck_of_ringCause h
  unfold low32 at hcheck
  refine issue_trap hi ?_
  unfold ringWait
  dsimp only
  rw [hcheck]
  rfl

end

/-! ## Making a ring (11 R241) -/

/-- The fields of xA as an empty ring. -/
def ringOfWord (n : Nat) : Ring :=
  { base := bits n 9 0, size := bits n 17 12, entries := bits n 28 20, head := 0, tail := 0, filled := 0 }

/-- Whether a ring's granules meet those of a tile of the own side. -/
def ringMeets (s : State) (v : Inst) (r : Ring) : Bool :=
  (List.range 64).any fun k =>
    let w := s.ownHeader v k
    let h := HdrView.ofWords w.1 w.2
    h.valid && h.base < r.base + r.entries * r.size && r.base < h.base + h.count

/-- Whether `rinit` refuses xA, as the model's checks go. -/
def ringRefused (s : State) (v : Inst) (n : Nat) : Prop :=
  let r := ringOfWord n
  r.size = 0 ∨ 32 < r.size ∨ r.entries = 0 ∨ 256 < r.entries ∨ n - r.base - r.size * 2 ^ 12 - r.entries * 2 ^ 20 ≠ 0 ∨
    640 < r.base + r.entries * r.size ∨ ringMeets s v r = true

theorem initRing_eq (s : State) (v : Inst) (f : IForm) :
    let n := (v.regs.getX f.a).toNat
    let r := ringOfWord n
    initRing s v f = if n = r.base + r.size * 2 ^ 12 + r.entries * 2 ^ 20 ∧ 0 < r.size ∧ r.size ≤ 32 ∧ 0 < r.entries ∧ r.entries ≤ 256 ∧
      r.base + r.entries * r.size ≤ 640 ∧ ringMeets s v r = false then some r else none := by
  simp only [ringOfWord, bits_low]
  rfl

theorem not_ringRefused_iff (s : State) (v : Inst) (n : Nat) :
    let r := ringOfWord n
    ¬ringRefused s v n ↔ n = r.base + r.size * 2 ^ 12 + r.entries * 2 ^ 20 ∧ 0 < r.size ∧ r.size ≤ 32 ∧ 0 < r.entries ∧ r.entries ≤ 256 ∧
      r.base + r.entries * r.size ≤ 640 ∧ ringMeets s v r = false := by
  have hle : (ringOfWord n).base + (ringOfWord n).size * 2 ^ 12 + (ringOfWord n).entries * 2 ^ 20 ≤ n := by
    simp only [ringOfWord, bits]
    omega
  unfold ringRefused
  simp only [not_or, Bool.not_eq_true]
  constructor
  · rintro ⟨hsize, hsize', hentries, hentries', hrest, htop, hmeets⟩
    exact ⟨by omega, by omega, by omega, by omega, by omega, by omega, hmeets⟩
  · rintro ⟨hword, hsize, hsize', hentries, hentries', htop, hmeets⟩
    exact ⟨by omega, by omega, by omega, by omega, by omega, by omega, hmeets⟩

/-- R241 lets a ring be made exactly where the checks do not refuse it. -/
theorem initRing_cases (s : State) (v : Inst) (f : IForm) :
    (ringRefused s v (v.regs.getX f.a).toNat ∧ initRing s v f = none) ∨
      (¬ringRefused s v (v.regs.getX f.a).toNat ∧ initRing s v f = some (ringOfWord (v.regs.getX f.a).toNat)) := by
  have hiff := not_ringRefused_iff s v (v.regs.getX f.a).toNat
  rw [initRing_eq]
  split
  next h => exact .inr ⟨hiff.mpr h, rfl⟩
  next h => exact .inl ⟨not_not.mp (mt hiff.mp h), rfl⟩

theorem exec_rinit_of_refused {f : IForm} (hi : issues (.rinit f) s id v = true) (h : initRing s v f = none) :
    exec (.rinit f) s = .next (trapped s id 0x21 2) := by
  obtain ⟨href, -⟩ | ⟨-, hsome⟩ := initRing_cases s v f
  · rw [exec_rinit, execRinit]
    exact issue_trap hi (if_pos href)
  · rw [h] at hsome
    cases hsome

theorem exec_rinit_of_free {f : IForm} {r : Ring} (hi : issues (.rinit f) s id v = true) (h : initRing s v f = some r)
    (hfree : (s.commands.any fun k => k.2.usesRing v.place.ctx v.place.cell (f.imm.val % 16)) = false) :
    ∃ t : State, exec (.rinit f) s = .next t ∧ lookupA (cellOf t v).rings (f.imm.val % 16) = some r ∧
      t.inst? id = some (completed (.rinit f) s.clk v 1) ∧ t.mem = s.mem ∧ t.scr = s.scr := by
  obtain ⟨-, hnone⟩ | ⟨hok, hsome⟩ := initRing_cases s v f
  · rw [h] at hnone
    cases hnone
  · rw [h] at hsome
    cases hsome
    obtain ⟨-, hv, -, -⟩ := issues_iff.mp hi
    rw [exec_rinit, execRinit]
    refine issue_setRing (u := s) hi ((if_neg hok).trans ?_) hv ⟨rfl, rfl, rfl⟩
    rw [bits_low]
    exact if_neg (Bool.eq_false_iff.mp hfree)

/-! ## The statement on rings -/

/-- Settles O15: a move finds its count in the ring, `rinit` answers by the checks of R241, and the checks of R242 come first. -/
theorem rings : Obligations.Rings := by
  unfold Obligations.Rings
  refine ⟨fun i f old r s id v hmove _ hi => ?_, fun f r s id v h _ hi hfree => exec_rinit_of_free hi h hfree,
    fun f s id v h _ hi => exec_rinit_of_refused hi h, fun i cause s id v h _ hi => ?_⟩
  · cases i with
    | rpush | rpop =>
      obtain ⟨r₀, hr, hguard⟩ := Option.bind_eq_some_iff.mp hmove
      dsimp only at hguard
      split at hguard
      next hle =>
        cases hguard
        exact issue_ringMove hi hr hle.1 hle.2
      next => cases hguard
    | _ => cases hmove
  · cases i with
    | wfill f | wfree f => exact issue_ringWait_of_cause hi h
    | rpush f | rpop f => exact issue_ringMove_of_cause hi h
    | _ => cases h

end Sys2Proof.Machine
end

section
/-!
The end of a lesson (07 R160; 10 R222; 02 R53, R55): an instance arrives at its segment's commit, the last arrival starts the commit step,
and a tail ends alone (O16).
-/

set_option Elab.async false

namespace Sys2Proof.Machine

open Sys2Proof.Claims

variable {s t : State} {id : Nat} {v w : Inst}

/-! ## What an arrival asks of the tree (02 R55; 10 R208, R222; 12 R270) -/

theorem PlanOnly.clk (h : PlanOnly s t) : t.clk = s.clk := by
  obtain ⟨_, _, _, rfl⟩ := h
  rfl

theorem PlanOnly.segLevel (h : PlanOnly s t) (x : Segment) : t.segLevel x = s.segLevel x := by
  obtain ⟨_, _, _, rfl⟩ := h
  rfl

/-- A need sweep starts or does not: of the segments it notes on its own that it has started. -/
theorem tryNeed_cases (s : State) (g : Nat) :
    s.tryNeed g = s ∨ PlanOnly (s.modSeg g fun x => { x with needStarted := true }) (s.tryNeed g) := by
  unfold State.tryNeed
  split
  · exact .inl rfl
  · dsimp only
    split
    · exact .inr (PlanOnly.refl _).startSweep
    · exact .inl rfl

theorem tryNeed_frame (s : State) (g : Nat) : (s.tryNeed g).mem = s.mem ∧ (s.tryNeed g).scr = s.scr ∧
    (s.tryNeed g).clk = s.clk ∧ ∀ x, (s.tryNeed g).segLevel x = s.segLevel x := by
  rcases tryNeed_cases s g with h | h
  · rw [h]
    exact ⟨rfl, rfl, rfl, fun _ => rfl⟩
  · obtain ⟨-, -, -, -, hmem, -, hscr⟩ := h.frame
    exact ⟨hmem.trans (State.modSeg_mem ..), hscr.trans (State.modSeg_scr ..), h.clk.trans (State.modSeg_clk ..),
      fun x => (h.segLevel x).trans (segLevel_modSeg ..)⟩

theorem lookupA_tryNeed_segs {g : Nat} {x : Segment} (h : lookupA s.segs g = some x) :
    ∃ b, lookupA (s.tryNeed g).segs g = some { x with needStarted := b } := by
  rcases tryNeed_cases s g with hs | hs
  · exact ⟨x.needStarted, by rw [hs, h]⟩
  · exact ⟨true, by rw [hs.segs, lookupA_modSeg_self h]⟩

/-- No collective starts while no seat waits for one. -/
theorem tryCollective_of_none {g : Nat} (h : ∀ j ∈ s.segInsts g, j.2.status ≠ .waiting .sweep) : s.tryCollective g = s := by
  unfold State.tryCollective
  split
  · rfl
  next x _ =>
    have hnone : ((s.segInsts g).filter fun i => i.2.colls = x.sweeps + 1 && i.2.status = .waiting .sweep) = [] := by
      rw [List.filter_eq_nil_iff]
      intro j hj
      simp [h j hj]
    dsimp only
    rw [hnone]

/-- A segment's bell changes the agenda alone. -/
theorem trySegBell_cases (s : State) (g : Nat) : s.trySegBell g = s ∨ ∃ a e, s.trySegBell g = s.schedule a e := by
  unfold State.trySegBell
  split
  · exact .inl rfl
  · dsimp only
    split
    · exact .inr ⟨_, _, rfl⟩
    · exact .inl rfl

/-! ## Arrival at the commit (02 R53, R55) -/

/-- What an arrival asks of the tree, where no seat waits for a sweep. -/
def State.asked (s : State) (g : Nat) : State := ((s.tryNeed g).tryCollective g).trySegBell g

theorem asked_frame {g : Nat} (h : ∀ j ∈ s.segInsts g, j.2.status ≠ .waiting .sweep) :
    (s.asked g).insts = s.insts ∧ (s.asked g).mem = s.mem ∧ (s.asked g).scr = s.scr ∧ (s.asked g).clk = s.clk ∧
      (s.asked g).segs = (s.tryNeed g).segs ∧ ∀ x, (s.asked g).segLevel x = s.segLevel x := by
  have hinsts := tryNeed_insts s g
  have hcoll : (s.tryNeed g).tryCollective g = s.tryNeed g :=
    tryCollective_of_none fun j hj => h j (by rwa [State.segInsts, hinsts] at hj)
  obtain ⟨hmem, hscr, hclk, hlevel⟩ := tryNeed_frame s g
  rw [State.asked, hcoll]
  rcases trySegBell_cases (s.tryNeed g) g with hbell | ⟨a, e, hbell⟩
  · rw [hbell]
    exact ⟨hinsts, hmem, hscr, hclk, rfl, hlevel⟩
  · rw [hbell]
    exact ⟨hinsts, hmem, hscr, hclk, rfl, hlevel⟩

/-- Once every seat has finished, the last arrival climbs to the tree cell that begins the commit step. -/
def State.climb (s : State) (g : Nat) : State :=
  match lookupA s.segs g with
  | none => s
  | some seg =>
    let is := s.segInsts g
    if is.length = seg.seglen && is.all fun i => i.2.finished then
      s.schedule (s.clk + oneWay (s.segLevel seg)) (.segmentCommit g)
    else s

theorem arriveCommit_eq {ends : Bool} (hgang : s.leavesGangWaiting v = none) :
    s.arriveCommit id v ends = ((s.setInst id (arrived v ends)).asked v.place.seg).climb v.place.seg := by
  unfold State.arriveCommit
  rw [hgang]
  rfl

theorem climb_frame (s : State) (g : Nat) :
    (s.climb g).insts = s.insts ∧ (s.climb g).mem = s.mem ∧ (s.climb g).scr = s.scr := by
  unfold State.climb
  split
  · exact ⟨rfl, rfl, rfl⟩
  · dsimp only
    split
    · exact ⟨rfl, rfl, rfl⟩
    · exact ⟨rfl, rfl, rfl⟩

theorem climb_of_finished {g : Nat} {x : Segment} (hx : lookupA s.segs g = some x) (hlen : (s.segInsts g).length = x.seglen)
    (hall : ∀ j ∈ s.segInsts g, j.2.finished = true) :
    scheduled (s.climb g) (s.clk + oneWay (s.segLevel x)) (.segmentCommit g) := by
  unfold State.climb
  rw [hx]
  dsimp only
  rw [if_pos (by simpa [hlen] using fun a b hab => hall (a, b) hab)]
  exact scheduled_schedule ..

/-- An arrival leaves memory and scratch, and the last one of a segment starts its commit step after the one-way climb. -/
theorem arriveCommit_spec {ends : Bool} (hgang : s.leavesGangWaiting v = none)
    (hsweep : ∀ j ∈ (s.setInst id (arrived v ends)).segInsts v.place.seg, j.2.status ≠ .waiting .sweep) :
    (s.arriveCommit id v ends).inst? id = some (arrived v ends) ∧ (s.arriveCommit id v ends).mem = s.mem ∧
      (s.arriveCommit id v ends).scr = s.scr ∧
      ∀ g, segment? s v = some g → ((s.setInst id (arrived v ends)).segInsts v.place.seg).length = g.seglen →
        (∀ j ∈ (s.setInst id (arrived v ends)).segInsts v.place.seg, j.2.finished = true) →
        scheduled (s.arriveCommit id v ends) (s.clk + oneWay (s.segLevel g)) (.segmentCommit v.place.seg) := by
  obtain ⟨hinsts, hmem, hscr, hclk, hsegs, hlevel⟩ := asked_frame hsweep
  rw [arriveCommit_eq hgang]
  generalize (s.setInst id (arrived v ends)).asked v.place.seg = u at *
  obtain ⟨hinsts', hmem', hscr'⟩ := climb_frame u v.place.seg
  refine ⟨?_, hmem'.trans hmem, hscr'.trans hscr, fun g hg hlen hall => ?_⟩
  · rw [State.inst?, hinsts', hinsts]
    exact State.setInst_inst? ..
  · have hmates : u.segInsts v.place.seg = (s.setInst id (arrived v ends)).segInsts v.place.seg := by rw [State.segInsts, hinsts]; rfl
    have hx : lookupA (s.setInst id (arrived v ends)).segs v.place.seg = some g := hg
    obtain ⟨b, hb⟩ := lookupA_tryNeed_segs hx
    rw [← hsegs] at hb
    have hbegin := climb_of_finished hb (by rw [hmates, hlen]) (by rwa [hmates])
    rwa [hclk, hlevel] at hbegin

/-! ## The forms (07 R160; 10 R222) -/

/-- An instance that may leave its gang does not stall. -/
theorem passing_of_mayLeave (h : mayLeave s v = true) :
    ¬(v.gang.isSome && (s.cell v.place.ctx v.place.cell).passingRows s.clk) = true := by
  unfold mayLeave cellOf at h
  cases hgang : v.gang with
  | none => exact nofun
  | some n => simpa [hgang] using h

theorem exec_commit_of_leaving (hi : issues .commit s id v = true) (hleave : mayLeave s v = true) :
    exec .commit s = .next (s.arriveCommit id v false) := by
  rw [exec_commit, execCommit, issue_eq hi, if_neg (passing_of_mayLeave hleave)]
  rfl

theorem exec_done_of_leaving (hi : issues .done s id v = true) (hc : v.committed = false) (hleave : mayLeave s v = true) :
    exec .done s = .next (s.arriveCommit id v true) := by
  rw [exec_done, execDone, issue_eq hi, if_neg (Bool.eq_false_iff.mp hc), if_neg (passing_of_mayLeave hleave)]
  rfl

/-! ## The end of a tail (07 R160) -/

theorem endTail_frame (s : State) (id : Nat) (v : Inst) :
    (s.endTail id v).insts = delA s.insts id ∧ (s.endTail id v).mem = s.mem ∧ (s.endTail id v).scr = s.scr := by
  unfold State.endTail
  extract_lets s₁ s₂
  have h₂ : s₂.insts = s₁.insts ∧ s₂.mem = s₁.mem ∧ s₂.scr = s₁.scr := by
    simp only [s₂]
    split
    · obtain ⟨hi, -, hm, hs, -⟩ := dropSegment_frame s₁ v.place.seg
      exact ⟨hi, hm, hs⟩
    · exact ⟨rfl, rfl, rfl⟩
  obtain ⟨hi₂, hm₂, hs₂⟩ := h₂
  obtain ⟨hi, -, -, -, hm, -, hs⟩ := (SidesKept.refl s₂).wakeLoads (c := v.place.ctx) (k := v.place.cell) |>.1.frame
  exact ⟨hi.trans hi₂, hm.trans hm₂, hs.trans hs₂⟩

theorem exec_done_of_committed (hi : issues .done s id v = true) (hc : v.committed = true) :
    exec .done s = .next (s.endTail id v) := by
  rw [exec_done, execDone, issue_eq hi, if_pos hc]
  rfl

/-- Settles O16: `commit` and `done` arrive at the commit, and `done` in a tail takes its instance away. -/
theorem endings : Obligations.Endings := by
  unfold Obligations.Endings
  refine ⟨fun i s id v hform hi hleave hgang => ?_, fun s id v hi hc => ?_⟩
  · dsimp only
    intro hsweep
    obtain rfl | ⟨rfl, hc⟩ := hform
    · exact ⟨_, exec_commit_of_leaving hi hleave, arriveCommit_spec hgang hsweep⟩
    · exact ⟨_, exec_done_of_leaving hi hc hleave, arriveCommit_spec hgang hsweep⟩
  · obtain ⟨hinsts, hmem, hscr⟩ := endTail_frame s id v
    refine ⟨_, exec_done_of_committed hi hc, ?_, fun j hj => ?_, hmem, hscr⟩
    · rw [State.inst?, hinsts, lookupA_delA_self]
    · rw [State.inst?, hinsts, lookupA_delA, if_neg hj]
      rfl

end Sys2Proof.Machine
end

section
/-!
Vectors (08 R164 to R183): what a write of a vector register leaves of each lane, with and without a mask; the model's lane functions are
those of the statements; and so every lane-wise form and every form that moves, packs or reduces lanes completes with the stated lanes
(O8, O9).
-/

set_option Elab.async false

namespace Sys2Proof.Machine

open Sys2Proof.Claims

variable {i : Instr} {s : State} {id : Nat} {v : Inst}

/-! ## Writes of a vector register (08 R165, R166) -/

@[simp] theorem laneAt_ofFn (f : Nat → Lane) (ok : Nat → Bool) {j : Nat} (hj : j < 16) : laneAt (VecVal.ofFn f ok) j = (f j, ok j) := by
  simp [laneAt, hj]

theorem laneAt_none (j : Nat) : laneAt VecVal.none j = (0#32, false) := by
  simp [laneAt, VecVal.none, VecVal.lane, VecVal.ok]

/-- The value that a write of some lanes leaves in a register. -/
def mergedLanes (r : Regs) (d : Nat) (sel : Nat → Bool) (f : Nat → Lane) (ok : Nat → Bool) : VecVal :=
  let old := if r.isFreed (.v, d) then VecVal.none else r.getV d
  VecVal.ofFn (fun j => if sel j then f j else old.lane j) (fun j => if sel j then ok j else old.ok j)

theorem mergeV_eq_setV (r : Regs) (d : Nat) (sel : Nat → Bool) (f : Nat → Lane) (ok : Nat → Bool) :
    r.mergeV d sel f ok = r.setV d (mergedLanes r d sel f ok) := rfl

/-- A lane that is not written is kept. -/
theorem laneAt_mergedLanes (d : Nat) (sel : Nat → Bool) (f : Nat → Lane) (ok : Nat → Bool) {j : Nat} (hj : j < 16) :
    laneAt (mergedLanes v.regs d sel f ok) j = if sel j then (f j, ok j) else keptLane v d j := by
  have hkept : keptLane v d j = laneAt (if v.regs.isFreed (.v, d) then VecVal.none else v.regs.getV d) j := by
    unfold keptLane
    split
    · exact (laneAt_none j).symm
    · rfl
  rw [mergedLanes, laneAt_ofFn _ _ hj, hkept]
  split <;> rfl

/-- The answer that completes an instruction with vector register D written, by what each lane of D becomes. -/
def WritesLanes (i : Instr) (s : State) (id : Nat) (v : Inst) (d latency : Nat) (value : Nat → Lane × Bool)
    (o : Host.Outcome State Fault Refusal) : Prop :=
  ∃ a : VecVal, o = .next (retired i s id (withV v d a) latency) ∧ ∀ j < 16, laneAt a j = value j

/-- A form whose effect writes a whole vector register. -/
theorem issue_setV {eff : State → Nat → Inst → Done} {latency d : Nat} {a : VecVal} {value : Nat → Lane × Bool}
    (hi : issues i s id v = true) (he : eff s id v = .next (s.setInst id { v with regs := v.regs.setV d a }) latency)
    (ha : ∀ j < 16, laneAt a j = value j) : WritesLanes i s id v d latency value (issue i eff s) := by
  refine ⟨a, ?_, ha⟩
  rw [issue_eq hi, he]
  exact (issue_eq hi).symm.trans (issue_regEffect (f := fun v => v.regs.setV d a) hi)

/-- A form whose effect writes some lanes of a vector register, by which it writes and what. -/
theorem issue_mergeV {eff : State → Nat → Inst → Done} {latency d : Nat} {sel written : Nat → Bool} {f : Nat → Lane} {ok : Nat → Bool}
    {value : Nat → Lane × Bool} (hi : issues i s id v = true)
    (he : eff s id v = .next (s.setInst id { v with regs := v.regs.mergeV d sel f ok }) latency)
    (hsel : ∀ j, sel j = written j) (hvalue : ∀ j < 16, (f j, ok j) = value j) :
    WritesLanes i s id v d latency (fun j => if written j then value j else keptLane v d j) (issue i eff s) :=
  issue_setV hi (he.trans (by rw [mergeV_eq_setV])) fun j hj => by rw [laneAt_mergedLanes d sel f ok hj, hsel, hvalue j hj]

/-- A form that writes the lanes that its mask field selects. -/
theorem issue_maskedV {eff : State → Nat → Inst → Done} {latency d mask : Nat} {neg : Bool} {f : Nat → Lane} {ok : Nat → Bool}
    {value : Nat → Lane × Bool} (hi : issues i s id v = true)
    (he : eff s id v = .next (s.setInst id { v with regs := v.regs.mergeV d (v.regs.selects mask neg) f ok }) latency)
    (hvalue : ∀ j < 16, (f j, ok j) = value j) :
    WritesLanes i s id v d latency (fun j => if selected v.regs mask neg j then value j else keptLane v d j) (issue i eff s) :=
  issue_mergeV hi he (selects_eq_selected v.regs mask neg) hvalue

/-! ## Lane functions by type (08 R164, R170) -/

/-- A legal word names a type of its row (06 R133): where the row lists types that fit a lane, one that fits a lane. -/
theorem laneWidth_of_legal {p : Nat} {g : Form} {ts : List Ty} (hp : i.parts = some (p, g)) (h : legal i = true)
    (hrow : ∀ w, (rowOf p w).types = ts) (hts : ts.isEmpty = false ∧ ∀ t ∈ ts, Ty.width t ≤ 32) :
    Ty.width (tyOf (g.word p)) ≤ 32 := by
  obtain ⟨hnonempty, hwidth⟩ := hts
  obtain ⟨hbits, hcauses, hclean⟩ := clean_of_legal hp h
  refine hwidth _ ?_
  by_contra hmem
  have hcause := typeNotAccepted_mem hclean.format (by rw [← hclean.code_tyOf, tyOfCode_code]) (by rwa [hbits, hrow])
    (by rwa [hbits, hrow])
  rw [hcauses] at hcause
  exact List.not_mem_nil hcause

theorem laneWidth_of_legal_r {p : Nat} {f : RForm} {ts : List Ty} (hp : i.parts = some (p, .r f)) (h : legal i = true)
    (hrow : ∀ w, (rowOf p w).types = ts) (hts : ts.isEmpty = false ∧ ∀ t ∈ ts, Ty.width t ≤ 32) : Ty.width f.ty ≤ 32 := by
  have hty : tyOf (Form.word p (.r f)) = f.ty := congrArg RForm.ty (RForm.ofWord_word p f)
  exact hty ▸ laneWidth_of_legal hp h hrow hts

theorem laneWidth_of_legal_i {p : Nat} {f : IForm} {ts : List Ty} (hp : i.parts = some (p, .i f)) (h : legal i = true)
    (hrow : ∀ w, (rowOf p w).types = ts) (hts : ts.isEmpty = false ∧ ∀ t ∈ ts, Ty.width t ≤ 32) : Ty.width f.ty ≤ 32 := by
  have hty : tyOf (Form.word p (.i f)) = f.ty := congrArg IForm.ty (IForm.ofWord_word p f)
  exact hty ▸ laneWidth_of_legal hp h hrow hts

/-- A result of at most 32 bits, as a lane holds it. -/
theorem writeInt_eq_laneWord {t : Ty} (h : Ty.width t ≤ 32) (z : Int) : writeInt t 32 z = laneWord t z := by
  obtain ⟨hpos, -⟩ := width_bounds t
  have hhalf : 2 ^ Ty.width t = 2 * 2 ^ (Ty.width t - 1) := by rw [← pow_succ', Nat.sub_add_cancel hpos]
  have hlane : 2 ^ Ty.width t ≤ 2 ^ 32 := Nat.pow_le_pow_right (by decide) h
  have hnonneg : 0 ≤ z % ((2 ^ Ty.width t : Nat) : Int) := Int.emod_nonneg _ (by positivity)
  have hlt : z % ((2 ^ Ty.width t : Nat) : Int) < ((2 ^ Ty.width t : Nat) : Int) := Int.emod_lt_of_pos _ (by positivity)
  unfold laneWord writeInt wrap Int.bmod
  dsimp only
  rw [BitVec.toNat_ofInt]
  generalize 2 ^ Ty.width t = p at *
  generalize 2 ^ (Ty.width t - 1) = q at *
  generalize z % (p : Int) = r at *
  cases Ty.isSigned t with
  | true =>
    simp only [true_and, if_true]
    split_ifs <;> omega
  | false =>
    simp only [Bool.false_eq_true, false_and, if_false]
    omega

theorem lane2_eq_arith {t : Ty} (h : Ty.width t ≤ 32) (ff : Fp → Fp → Fp) (fi : Int → Int → Int) (a b : Nat) :
    lane2 t ff fi a b = arith t ff fi a b := by
  rw [lane2, arith, writeInt_eq_laneWord h, readInt_eq_wrap, readInt_eq_wrap]

theorem wrap_wrap (t : Ty) (z : Int) : wrap t (wrap t z) = wrap t z := by
  unfold wrap
  split
  · exact Int.bmod_bmod ..
  · exact Int.emod_emod_of_dvd _ (dvd_refl _)

theorem broadcastLane_eq {t : Ty} (h : Ty.width t ≤ 32) (n : Nat) :
    broadcastLane t n = BitVec.ofNat 32 (if t = .f32 then n else laneWord t n) := by
  rw [broadcastLane, writeInt_eq_laneWord h, readInt_eq_wrap, laneWord, laneWord, wrap_wrap]
  split <;> rfl

/-- A shift takes its count from the low bits of a lane, modulo w (R170). -/
theorem laneCount_eq (t : Ty) (b : Nat) : laneCount t b = b % Ty.width t :=
  Nat.mod_mod_of_dvd b (width_dvd_two_pow t)

theorem shiftLeft_lane {t : Ty} (h : Ty.width t ≤ 32) (a b : Nat) :
    writeInt t 32 (readInt t a * (2 ^ laneCount t b : Nat)) = laneWord t (wrap t a * 2 ^ (b % Ty.width t)) := by
  rw [writeInt_eq_laneWord h, readInt_eq_wrap, laneCount_eq]
  push_cast
  rfl

theorem shiftRight_lane {t : Ty} (h : Ty.width t ≤ 32) (a b : Nat) :
    writeInt t 32 ((readInt t a).fdiv (2 ^ laneCount t b : Nat)) = laneWord t (wrap t a / 2 ^ (b % Ty.width t)) := by
  rw [writeInt_eq_laneWord h, readInt_eq_wrap, laneCount_eq, Int.fdiv_eq_ediv_of_nonneg _ (by positivity)]
  push_cast
  rfl

/-! ## The lane-wise forms (08 R170, R171, R180, R183) -/

/-- What a lane-wise form leaves in lane j of D (R165, R166, R170). -/
def laneWiseValue (v : Inst) (f : RForm) (srcs : List Nat) (op : (Nat → Nat) → Nat) (j : Nat) : Lane × Bool :=
  if !selected v.regs f.mask f.neg j then keptLane v f.d j
  else if srcs.all fun n => (v.regs.getV n).ok j
    then (BitVec.ofNat 32 (op fun k => ((v.regs.getV (srcs.getD k 0)).lane j).toNat), true)
    else (0#32, false)

/-- A lane-wise form, by what its function makes of the source lanes. -/
theorem issue_laneWise {eff : State → Nat → Inst → Done} {f : RForm} {latency : Nat} {srcs : List Nat} {g : Regs → Nat → Nat}
    {op : (Nat → Nat) → Nat} (hi : issues i s id v = true) (he : eff s id v = laneWise f latency srcs g s id v)
    (hg : ∀ j, g v.regs j = op fun k => v.regs.laneN (srcs.getD k 0) j) :
    WritesLanes i s id v f.d latency (laneWiseValue v f srcs op) (issue i eff s) := by
  obtain ⟨d, hd, hlanes⟩ := issue_maskedV hi he fun _ _ => rfl
  refine ⟨d, hd, fun j hj => (hlanes j hj).trans ?_⟩
  simp only [laneWiseValue, hg]
  cases selected v.regs f.mask f.neg j with
  | false => rfl
  | true => cases srcs.all fun n => (v.regs.getV n).ok j <;> rfl

/-- Settles O8: each lane-wise form merges its function of the source lanes into D. -/
theorem laneWiseForms : Obligations.LaneWiseForms := by
  unfold Obligations.LaneWiseForms
  intro i f srcs latency op s id v hform hl hi
  change WritesLanes i s id v f.d latency (laneWiseValue v f srcs op) (exec i s)
  cases i with
  | vadd | vsub | vmul | vmin | vmax | vneg =>
    cases hform
    have hwidth := laneWidth_of_legal_r rfl hl (fun _ => rfl) (by decide)
    exact issue_laneWise hi rfl fun _ => lane2_eq_arith hwidth ..
  | vabs =>
    cases hform
    have hwidth := laneWidth_of_legal_r rfl hl (fun _ => rfl) (by decide)
    refine issue_laneWise hi rfl fun _ => ?_
    simp only [← Int.abs_eq_natAbs]
    exact lane2_eq_arith hwidth ..
  | vclamp =>
    cases hform
    have hwidth := laneWidth_of_legal_r rfl hl (fun _ => rfl) (by decide)
    exact issue_laneWise hi rfl fun _ => by rw [lane2_eq_arith hwidth, lane2_eq_arith hwidth]; rfl
  | vshl =>
    cases hform
    exact issue_laneWise hi rfl fun _ => shiftLeft_lane (laneWidth_of_legal_r rfl hl (fun _ => rfl) (by decide)) ..
  | vshr =>
    cases hform
    exact issue_laneWise hi rfl fun _ => shiftRight_lane (laneWidth_of_legal_r rfl hl (fun _ => rfl) (by decide)) ..
  | vcvt =>
    cases hform
    rw [exec_vcvt, execVcvt]
    refine issue_laneWise hi rfl fun _ => ?_
    rw [srcType, bits_low]
    rfl
  | vfma | vfms | vfnma | vand | vor | vxor | vexp2 | vlog2 | vrcp | vrsqrt | vsigm | vtanh | vsoftp =>
    cases hform
    refine issue_laneWise hi rfl fun _ => ?_
    rfl
  | _ => cases hform

/-! ## Permutations (08 R175) -/

/-- What a permutation puts in a lane, by the register and the lane that it comes from. -/
def permutedLane (a b : VecVal) : Option (Bool × Nat) → Lane × Bool
  | some (fromB, k) => laneAt (if fromB then b else a) k
  | none => (0#32, false)

/-- The two parts of a permuted lane, where a Boolean names the register. -/
theorem permutedLane_eq (r : Bool → VecVal) (o : Option (Bool × Nat)) :
    permutedLane (r false) (r true) o =
      (match o with | some (b, k) => (r b).lane k | none => 0#32, match o with | some (b, k) => (r b).ok k | none => false) := by
  match o with
  | some (true, _) | some (false, _) | none => rfl

/-- A choice between the two registers by whether a condition on the lane fails. -/
theorem permutedLane_decide (a b : VecVal) {p q : Prop} [Decidable p] [Decidable q] (h : p ↔ ¬q) (k : Nat) :
    permutedLane a b (some (decide p, k)) = laneAt (if q then a else b) k := by
  by_cases hq : q <;> simp [permutedLane, h, hq]

theorem permutedLane_ite (a b : VecVal) {p : Prop} [Decidable p] (k : Nat) :
    permutedLane a b (if p then some (false, k) else none) = if p then laneAt a k else (0#32, false) := by
  split <;> rfl

/-! ## Elements of a packed vector (08 R181, R182) -/

/-- A datum reads the low bits of its type alone (R164). -/
theorem readDatum_mod (t : Ty) (n : Nat) : readDatum t (n % 2 ^ Ty.width t) = readDatum t n := by
  simp [readDatum, readInt, signed]

theorem convertLane_mod (m : Mode) (src dst : Ty) (n : Nat) : convertLane m src dst (n % 2 ^ Ty.width src) = convertLane m src dst n := by
  rw [convertLane, readDatum_mod, convertLane]

/-- `vunpack` shifts an element down and need not cut it off: its conversion does (R182). -/
theorem convertLane_packed (a : VecVal) (src dst : Ty) (e : Nat) :
    convertLane .rne src dst ((a.lane (e / (32 / Ty.width src))).toNat / 2 ^ (Ty.width src * (e % (32 / Ty.width src)))) =
      convertLane .rne src dst (packed a (Ty.width src) e) :=
  (convertLane_mod ..).symm

/-- Element e of the 32 that `vpack` narrows (R181). -/
def packElem (v : Inst) (f : RForm) (e : Nat) : Nat :=
  convertLane v.mode (packSource f.ty) f.ty ((v.regs.getV (if e < 16 then f.a else f.b)).lane (e % 16)).toNat % 2 ^ Ty.width f.ty

/-- Whether the lane that holds element e is valid. -/
def packOk (v : Inst) (f : RForm) (e : Nat) : Bool := (v.regs.getV (if e < 16 then f.a else f.b)).ok (e % 16)

/-- The lane that n elements of w bits make from element `base` on, where they are all valid. -/
def packedLane (n w : Nat) (elem : Nat → Nat) (ok : Nat → Bool) (base : Nat) : Lane × Bool :=
  let all := (List.range n).all fun b => ok (base + b)
  (if all then BitVec.ofNat 32 ((List.range n).foldr (fun b acc => elem (base + b) * 2 ^ (w * b) + acc) 0) else 0#32, all)

theorem packedLane_two (w : Nat) (elem : Nat → Nat) (ok : Nat → Bool) (b : Nat) :
    packedLane 2 w elem ok b =
      (if ok b && ok (b + 1) then BitVec.ofNat 32 (elem b + elem (b + 1) * 2 ^ w) else 0#32, ok b && ok (b + 1)) := by
  simp [packedLane, List.range_succ]

theorem packedLane_four (w : Nat) (elem : Nat → Nat) (ok : Nat → Bool) (b : Nat) :
    packedLane 4 w elem ok b =
      (if ok b && ok (b + 1) && ok (b + 2) && ok (b + 3)
        then BitVec.ofNat 32 (elem b + elem (b + 1) * 2 ^ w + elem (b + 2) * 2 ^ (w * 2) + elem (b + 3) * 2 ^ (w * 3)) else 0#32,
        ok b && ok (b + 1) && ok (b + 2) && ok (b + 3)) := by
  simp [packedLane, List.range_succ, Bool.and_assoc, Nat.add_assoc]

/-- `vpack` writes sixteen lanes of two elements, or the half that its function names of lanes of four. -/
theorem exec_vpack_writes {f : RForm} (hi : issues (.vpack f) s id v = true) :
    WritesLanes (.vpack f) s id v f.d 4 (fun j =>
      if decide (Ty.width f.ty = 16) || decide (j / 8 = f.fn.val % 2)
      then packedLane (if Ty.width f.ty = 16 then 2 else 4) (32 / if Ty.width f.ty = 16 then 2 else 4) (packElem v f) (packOk v f)
        (if Ty.width f.ty = 16 then 2 * j else 4 * (j % 8))
      else keptLane v f.d j) (exec (.vpack f) s) := by
  by_cases hwide : Ty.width f.ty = 16
  · simp only [hwide, decide_true, Bool.true_or, if_true, packedLane_two]
    refine issue_setV hi (congrArg (fun r => Done.next (s.setInst id { v with regs := r }) 4) (if_pos hwide))
      fun _ hj => laneAt_ofFn _ _ hj
  · simp only [hwide, decide_false, Bool.false_or, if_false, packedLane_four]
    exact issue_mergeV hi (congrArg (fun r => Done.next (s.setInst id { v with regs := r }) 4) (if_neg hwide))
      (fun j => congrArg (fun n => decide (j / 8 = n)) (bits_low ..)) fun _ _ => rfl

/-! ## Reductions (08 R179) -/

/-- Whether lane k takes part in a reduction. -/
def takesPart (v : Inst) (f : RForm) (k : Nat) : Bool := (v.regs.getV f.a).ok k && selected v.regs f.mask f.neg k

/-- The pairs of lanes that the affine combiner joins, in order. -/
def reducedPairs (v : Inst) (f : RForm) : List (Option (Nat × Nat)) :=
  (List.range 8).map fun k => if takesPart v f (2 * k) && takesPart v f (2 * k + 1)
    then some (((v.regs.getV f.a).lane (2 * k)).toNat, ((v.regs.getV f.a).lane (2 * k + 1)).toNat) else none

/-- The lanes that another combiner joins, in order. -/
def reducedLanes (v : Inst) (f : RForm) : List (Option Nat) :=
  (List.range 16).map fun k => if takesPart v f k then some ((v.regs.getV f.a).lane k).toNat else none

theorem presentPairs_eq_reducedPairs (v : Inst) (f : RForm) :
    presentPairs (v.regs.getV f.a) (v.regs.selects f.mask f.neg) = reducedPairs v f := by
  refine List.map_congr_left fun k _ => if_congr ?_ rfl rfl
  simp only [takesPart, selects_eq_selected, Bool.and_eq_true]
  rw [and_assoc, and_and_and_comm]

theorem selectedLanes_eq_reducedLanes (v : Inst) (f : RForm) :
    ((List.range 16).map fun k => if (v.regs.getV f.a).ok k && v.regs.selects f.mask f.neg k
      then some ((v.regs.getV f.a).lane k).toNat else none) = reducedLanes v f := by
  refine List.map_congr_left fun k _ => ?_
  rw [selects_eq_selected]
  rfl

/-- `vred` writes its result to every lane, valid: two numbers in turn from the affine combiner, one from another. -/
theorem exec_vred_writes {f : RForm} (hi : issues (.vred f) s id v = true) :
    WritesLanes (.vred f) s id v f.d 6 (fun j =>
      if f.fn.val % 16 = 7 then
        let r := (reduceOf affineJoin (reducedPairs v f)).getD affineIdentity
        (BitVec.ofNat 32 (if j % 2 = 0 then r.1 else r.2), true)
      else
        (BitVec.ofNat 32 ((reduceOf (combine (f.fn.val % 16) f.ty) (reducedLanes v f)).getD (identity (f.fn.val % 16) f.ty)), true))
      (exec (.vred f) s) := by
  have hcomb : bits f.fn 3 0 = f.fn.val % 16 := bits_low ..
  rw [exec_vred, execVred]
  simp only [hcomb, presentPairs_eq_reducedPairs, selectedLanes_eq_reducedLanes]
  by_cases haffine : f.fn.val % 16 = 7
  · simp only [haffine, if_true]
    exact issue_setV hi rfl fun _ hj => laneAt_ofFn _ _ hj
  · simp only [haffine, if_false]
    exact issue_setV hi rfl fun _ hj => laneAt_ofFn _ _ hj

/-! ## The forms that move, pack or reduce lanes (08 R173 to R179, R181, R182) -/

/-- Settles O9: each form writes the lanes that it selects, and merges them into D where it writes some alone. -/
theorem laneMoves : Obligations.LaneMoves := by
  unfold Obligations.LaneMoves
  intro i d latency written value s id v hform hl hi
  change WritesLanes i s id v d latency (fun j => if written j then value j else keptLane v d j) (exec i s)
  cases i with
  | vmov | vshuf =>
    cases hform
    exact issue_maskedV hi rfl fun _ _ => rfl
  | vsel =>
    cases hform
    refine issue_setV hi rfl fun j hj => ?_
    rw [laneAt_ofFn _ _ hj]
    simp only [selects_eq_selected]
    rfl
  | vperm f =>
    cases hform
    have hpattern : bits f.fn 7 4 = f.fn.val / 16 % 16 := rfl
    have hcount : bits f.fn 3 0 = f.fn.val % 16 := bits_low ..
    refine issue_maskedV hi rfl fun j _ => ?_
    simp only [hpattern, hcount]
    refine (permutedLane_eq ..).symm.trans ?_
    generalize f.fn.val / 16 % 16 = pattern
    match pattern with
    | 0 | 3 => rfl
    | 1 | 2 => exact permutedLane_ite ..
    | 4 | 5 => exact permutedLane_decide _ _ (by omega) _
    | 6 | _ + 7 => exact permutedLane_decide _ _ (by omega) _
  | vbcast =>
    cases hform
    have hwidth := laneWidth_of_legal_r rfl hl (fun _ => rfl) (by decide)
    exact issue_maskedV hi rfl fun _ _ => by rw [broadcastLane_eq hwidth]
  | vbcasti =>
    cases hform
    have hwidth := laneWidth_of_legal_i rfl hl (fun _ => rfl) (by decide)
    exact issue_maskedV hi rfl fun _ _ => by rw [broadcastLane_eq hwidth]
  | vins =>
    cases hform
    exact issue_mergeV hi rfl (fun _ => congrArg (fun n => decide (_ = n)) (bits_low ..)) fun _ _ => by rw [BitVec.ofNat_toNat]
  | vsetvalid =>
    cases hform
    exact issue_setV hi rfl fun _ _ => rfl
  | vunpack f =>
    cases hform
    have hsrc : srcType f = (Ty.ofCode (f.fn.val % 32)).getD .f32 := by
      rw [srcType, bits_low]
      rfl
    have hpart : bits f.fn 6 5 = f.fn.val / 32 % 4 := rfl
    rw [exec_vunpack, execVunpack]
    refine issue_maskedV hi rfl fun j _ => ?_
    simp only [hsrc, hpart, Regs.laneN, convertLane_packed]
  | vpack =>
    cases hform
    exact exec_vpack_writes hi
  | vred =>
    cases hform
    exact exec_vred_writes hi
  | _ => cases hform

end Sys2Proof.Machine
end

section
/-!
The forms that read into a scalar register what stands around the instance (06 R140, R141; 07 R157; 09 R203; 10 R223 to R225; 11 R254;
12 R277, R279, R281, R282): where each completes, and with what (O10).
-/

set_option Elab.async false

namespace Sys2Proof.Machine

open Sys2Proof.Claims

variable {s : State} {id d latency : Nat} {v : Inst} {w : Word}

/-- A form whose effect changes its own instance alone. -/
theorem issue_setInst {i : Instr} {eff : State → Nat → Inst → Done} {u : Inst} (hi : issues i s id v = true)
    (he : eff s id v = .next (s.setInst id u) latency) : issue i eff s = .next (retired i s id u latency) := by
  rw [issue_next hi he, State.modInst_setInst]
  rfl

/-! ## Rings (07 R157) -/

/-- A wait for a count completes with the ring's count, where the ring has it. -/
theorem issue_ringWait {i : Instr} {f : IForm} {count : Ring → Nat} (hi : issues i s id v = true)
    (h : ((ringOf s v f).bind fun r => if low32 (v.regs.getX f.a) ≤ r.entries ∧ low32 (v.regs.getX f.a) ≤ count r
      then some (f.d.val, BitVec.ofNat 64 (count r), 1) else none) = some (d, w, latency)) :
    issue i (ringWait f count) s = .next (retired i s id (withX v d w) latency) := by
  obtain ⟨r, hr, hread⟩ := Option.bind_eq_some_iff.mp h
  obtain ⟨⟨hle, hcount⟩, hread⟩ := Option.ite_none_right_eq_some.mp hread
  cases hread
  have hcheck := ringCheck_of_le hr hle
  unfold low32 at hcheck hcount
  refine issue_setInst hi ?_
  unfold ringWait
  dsimp only
  rw [hcheck]
  exact if_pos hcount

/-! ## Symbols (10 R223 to R225) -/

theorem exec_symget_of_read {f : RForm} (h : stateRead s v (.symget f) = some (d, w, latency)) (hi : issues (.symget f) s id v = true) :
    exec (.symget f) s = .next (retired (.symget f) s id (withX v d w) latency) := by
  obtain ⟨g, hg, hread⟩ := Option.bind_eq_some_iff.mp h
  unfold segment? at hg
  rw [exec_symget, execSymget]
  split at hread
  next hfn =>
    obtain ⟨os, hos, hread⟩ := Option.map_eq_some_iff.mp hread
    cases hread
    exact issue_setInst hi (by simp [hg, bits_low, hfn, hos, withX])
  next hfn =>
    obtain ⟨os, hos, hread⟩ := Option.map_eq_some_iff.mp hread
    cases hread
    exact issue_setInst hi (by simp [hg, bits_low, hfn, hos, withX])
  next hfn =>
    cases hread
    exact issue_setInst hi (by simp [hg, bits_low, hfn, withX])
  next =>
    cases hread
    exact issue_setInst hi (by simp [hg, bits_low, withX])

/-! ## Headers (06 R141; 09 R203) -/

theorem exec_thdr_of_read {f : RForm} (h : stateRead s v (.thdr f) = some (d, w, latency)) (hi : issues (.thdr f) s id v = true) :
    exec (.thdr f) s = .next (retired (.thdr f) s id (withX v d w) latency) := by
  simp only [stateRead] at h
  rw [exec_thdr, execThdr]
  split at h
  next t ht =>
    split at h
    next hfn =>
      cases h
      have hfn : f.fn % 8 = 0 := Fin.ext hfn
      exact issue_setInst hi (by simp [ht, hfn, withX])
    next hfn =>
      cases h
      have hfn : f.fn % 8 = 1 := Fin.ext hfn
      exact issue_setInst hi (by simp [ht, hfn, withX])
    next => cases h
  next => cases h

/-! ## The words of the state: the log, configuration, performance, counters and events (11 R254; 12 R277, R279, R281, R282) -/

theorem stateRead_logrd (s : State) (v : Inst) (f : RForm) : stateRead s v (.logrd f) =
    some (f.d.val, BitVec.ofNat 64 (if s.records v then s.logValue v (f.fn % 4) else 0), 2) := by
  have hvalue : ∀ n < 4, s.logValue v n = [v.stage.lane.length, 32 - v.stage.lane.length,
      readNat s.mem (s.cbHeader v.place.ctx) 8 % 2 ^ 32, readNat s.mem (s.cbHeader v.place.ctx) 8 / 2 ^ 46 % 2].getD n 0 := by
    intro n hn
    interval_cases n
    · rfl
    · rfl
    · rfl
    · exact bitNat_bit _ _
  rw [hvalue _ (Nat.mod_lt _ (by decide)), stateRead, State.records]
  cases v.committed <;> cases s.recordMode v <;> rfl

theorem stateRead_recq (s : State) (v : Inst) (f : RForm) : stateRead s v (.recq f) =
    some (f.d.val, BitVec.ofNat 64 (bitNat (s.records v) + 2 * v.hdr.recclass), 2) := by
  rw [stateRead, State.records]
  cases v.committed <;> cases s.recordMode v <;> rfl

theorem stateRead_cfgrd (s : State) (v : Inst) (f : ZForm) :
    stateRead s v (.cfgrd f) = some (f.d.val, s.configWord v f.code, 4) := by
  simp only [stateRead]
  generalize f.code.val = n
  split
  next hn => interval_cases n <;> rfl
  next hn =>
    obtain ⟨m, rfl⟩ : ∃ m, n = m + 8 := ⟨n - 8, by omega⟩
    rfl

theorem stateRead_pcrd (s : State) (v : Inst) (f : ZForm) : stateRead s v (.pcrd f) = some (f.d.val, s.perfValue v f.code, 2) := by
  simp only [stateRead]
  generalize f.code.val = n
  match n with
  | 0 => rfl
  | 1 => rfl
  | n + 2 =>
    have hlt : (n + 2) % 8 < 8 := Nat.mod_lt _ (by decide)
    simp [State.perfValue, cellOf, hlt]

/-- A word of 32 bits, extended to a scalar register. -/
theorem zeroExtend_eq_ofNat (n : Lane) : n.zeroExtend 64 = BitVec.ofNat 64 n.toNat := (BitVec.ofNat_toNat ..).symm

theorem exec_ctrwait_of_read {f : IForm} (h : stateRead s v (.ctrwait f) = some (d, w, latency)) (hi : issues (.ctrwait f) s id v = true) :
    exec (.ctrwait f) s = .next (retired (.ctrwait f) s id (withX v d w) latency) := by
  obtain ⟨hn, hread⟩ := Option.ite_none_right_eq_some.mp h
  cases hread
  rw [exec_ctrwait, execCtrwait, ← zeroExtend_eq_ofNat]
  refine issue_setInst hi ?_
  dsimp only
  rw [bits_low]
  exact if_pos hn

theorem exec_sleep_of_read {f : ZForm} (h : stateRead s v (.sleep f) = some (d, w, latency)) (hi : issues (.sleep f) s id v = true) :
    exec (.sleep f) s = .next (retired (.sleep f) s id (withX v d w) latency) := by
  obtain ⟨hwake, hread⟩ := Option.ite_none_right_eq_some.mp h
  cases hread
  rw [exec_sleep, execSleep, ← zeroExtend_eq_ofNat]
  refine issue_setInst hi ?_
  dsimp only
  rw [bits_low]
  refine if_pos ?_
  rw [Bool.or_eq_true, bit_eq_true_iff, decide_eq_true_eq]
  rwa [BitVec.ofNat_toNat] at hwake

/-- Settles O10: each form finds its value in the state and writes it. -/
theorem stateReads : Obligations.StateReads := by
  unfold Obligations.StateReads
  intro i d latency w s id v hread _ hi
  cases i with
  | wfill f => exact issue_ringWait hi hread
  | wfree f => exact issue_ringWait hi hread
  | symrd f =>
    obtain ⟨g, hg, hread⟩ := Option.map_eq_some_iff.mp hread
    cases hread
    unfold segment? at hg
    rw [exec_symrd, execSymrd]
    exact issue_setInst hi (by rw [hg]; rfl)
  | symbld f =>
    cases hread
    exact issue_setX hi (by simp [builtSymbol, bits])
  | symget f => exact exec_symget_of_read hread hi
  | thdr f => exact exec_thdr_of_read hread hi
  | ctrrd f =>
    cases hread
    rw [exec_ctrrd, execCtrrd, ← zeroExtend_eq_ofNat]
    refine issue_setInst hi ?_
    rw [bits_low]
    rfl
  | ctrwait f => exact exec_ctrwait_of_read hread hi
  | logrd f =>
    rw [stateRead_logrd] at hread
    cases hread
    rw [exec_logrd, execLogrd]
    exact issue_setInst hi rfl
  | recq f =>
    rw [stateRead_recq] at hread
    cases hread
    rw [exec_recq, execRecq]
    exact issue_setInst hi rfl
  | cfgrd f =>
    rw [stateRead_cfgrd] at hread
    cases hread
    rw [exec_cfgrd, execCfgrd]
    exact issue_setInst hi rfl
  | pcrd f =>
    rw [stateRead_pcrd] at hread
    cases hread
    rw [exec_pcrd, execPcrd]
    exact issue_setInst hi rfl
  | rdclk f =>
    cases hread
    rw [exec_rdclk, execRdclk]
    exact issue_setInst hi rfl
  | sleep f => exact exec_sleep_of_read hread hi
  | _ => cases hread

end Sys2Proof.Machine
end

section
/-!
Forwarding between neighbours (10 R217, R218): what `fwd` sends, what an arrival enters, and what `rcv` takes (O28).
-/

set_option Elab.async false

namespace Sys2Proof.Machine

open Sys2Proof.Claims

variable {s : State} {id r : Nat} {u v : Inst} {f : QForm}

/-! ## Sending (10 R217) -/

/-- A receiver with one more vector on its way to it, from its right or its left. -/
def expecting (u : Inst) (fromRight : Bool) : Inst :=
  if fromRight then { u with comingRight := u.comingRight + 1 } else { u with comingLeft := u.comingLeft + 1 }

/-- The clk at which a vector from one instance reaches another (R218). -/
def arrivalClk (s : State) (v u : Inst) : Nat :=
  s.clk + s.neighbourTime (s.devCell v.place.slot v.place.cell) (s.devCell u.place.slot u.place.cell)

/-- A vector on its way to a receiver. -/
def sent (f : QForm) (s : State) (v : Inst) (r : Nat) (u : Inst) : State :=
  (s.setInst r (expecting u f.dir)).schedule (arrivalClk s v u) (.neighbourArrival r (!f.dir) (v.regs.getV f.a))

/-- What `fwd` comes to, by the neighbour that its direction names. -/
def forwarded (f : QForm) (s : State) (v : Inst) : Option (Nat × Inst) → Done
  | none => .next s 1
  | some (r, u) => if u.finished then .next s 1 else if 4 ≤ pendingVectors u f.dir then .stall s else .next (sent f s v r u) 1

theorem exec_fwd_eq (f : QForm) (s : State) :
    exec (.fwd f) s = issue (.fwd f) (fun s _ v => forwarded f s v (neighbour s v (!f.dir))) s := by
  rw [exec_fwd, execFwd]
  congr 1
  funext s _ v
  unfold forwarded sent expecting arrivalClk pendingVectors neighbour
  cases f.dir with
  | false =>
    simp only [Bool.false_and, Bool.not_false, Bool.false_eq_true, if_false, if_true]
    generalize s.seatInst v.place.seg (v.place.seat + 1) = o
    cases o <;> rfl
  | true =>
    by_cases hseat : v.place.seat = 0
    · simp [hseat]
    · simp only [Bool.true_and, hseat, Bool.not_true, Bool.false_eq_true, if_false, if_true, decide_false]
      generalize s.seatInst v.place.seg (v.place.seat - 1) = o
      cases o <;> rfl

/-- A send beyond the segment, or to a finished seat, is dropped. -/
theorem exec_fwd_of_dropped (hi : issues (.fwd f) s id v = true) (h : ∀ q, neighbour s v (!f.dir) = some q → q.2.finished = true) :
    exec (.fwd f) s = .next (retired (.fwd f) s id v 1) := by
  rw [exec_fwd_eq]
  refine issue_retired hi ?_
  cases hq : neighbour s v (!f.dir) with
  | none => rfl
  | some q => exact if_pos (h q hq)

/-- A send to a seat whose queue has room is on its way. -/
theorem exec_fwd_of_room (hi : issues (.fwd f) s id v = true) (hq : neighbour s v (!f.dir) = some (r, u)) (hu : u.finished = false)
    (hroom : pendingVectors u f.dir < 4) :
    exec (.fwd f) s = .next ((sent f s v r u).modInst id fun w => completed (.fwd f) s.clk w 1) := by
  rw [exec_fwd_eq]
  refine issue_next hi ?_
  rw [hq, forwarded, if_neg (Bool.eq_false_iff.mp hu), if_neg (Nat.not_le.mpr hroom)]

/-- A vector that is sent is scheduled to arrive. -/
theorem scheduled_sent (f : QForm) (s : State) (v : Inst) (r : Nat) (u : Inst) :
    scheduled (sent f s v r u) (arrivalClk s v u) (.neighbourArrival r (!f.dir) (v.regs.getV f.a)) := scheduled_schedule ..

/-! ## Arriving (10 R217; 16 R311) -/

/-- A receiver whose queue has taken a vector, unless it has finished. -/
def entered (u : Inst) (fromLeft : Bool) (w : VecVal) : Inst :=
  if u.finished then u
  else if fromLeft then { u with rcvLeft := u.rcvLeft ++ [w], comingLeft := u.comingLeft - 1 }
  else { u with rcvRight := u.rcvRight ++ [w], comingRight := u.comingRight - 1 }

theorem exec_neighbourArrival_of_some (hu : s.inst? id = some u) (fromLeft : Bool) (w : VecVal) :
    exec (.neighbourArrival id fromLeft w) s = .next (s.setInst id (entered u fromLeft w)) := by
  rw [exec_neighbourArrival, execNeighbourArrival, State.modInst_of_some hu]
  rfl

/-! ## Receiving (10 R217) -/

/-- The queue that `rcv` names. -/
def queueFrom (v : Inst) (fromRight : Bool) : List VecVal := if fromRight then v.rcvRight else v.rcvLeft

/-- Whether nothing can come to the queue that `rcv` names: there is no such neighbour, or it has finished and nothing is on its way. -/
def nothingComes (s : State) (v : Inst) (fromRight : Bool) : Prop :=
  match neighbour s v fromRight with
  | none => True
  | some (_, u) => u.finished = true ∧ (if fromRight then v.comingRight else v.comingLeft) = 0

theorem sender_eq_neighbour (s : State) (v : Inst) (right : Bool) :
    (if !right && v.place.seat = 0 then none
      else s.seatInst v.place.seg (if right then v.place.seat + 1 else v.place.seat - 1)) = neighbour s v right := by
  cases right <;> simp [neighbour]

/-- `rcv` takes the oldest vector of its queue. -/
theorem exec_rcv_of_cons {w : VecVal} {rest : List VecVal} (hi : issues (.rcv f) s id v = true) (hq : queueFrom v f.dir = w :: rest)
    (hwait : v.waitSince = none) : exec (.rcv f) s = .next (retired (.rcv f) s id (withV (taken_ v f.dir rest) f.d w) 2) := by
  unfold queueFrom at hq
  rw [exec_rcv, execRcv]
  refine issue_setInst hi ?_
  dsimp only
  rw [hq]
  refine (if_neg (by simp [hwait])).trans ?_
  unfold withV taken_
  cases f.dir <;> rfl

/-- `rcv` gives sixteen invalid lanes where its queue is empty and nothing can come to it. -/
theorem exec_rcv_of_nothing (hi : issues (.rcv f) s id v = true) (hq : queueFrom v f.dir = []) (hno : nothingComes s v f.dir) :
    exec (.rcv f) s = .next (retired (.rcv f) s id (withV v f.d VecVal.none) 2) := by
  unfold queueFrom at hq
  rw [exec_rcv, execRcv]
  refine issue_setInst hi ?_
  dsimp only
  rw [hq, sender_eq_neighbour]
  refine if_pos ?_
  unfold nothingComes at hno
  cases hs : neighbour s v f.dir with
  | none => rfl
  | some q =>
    rw [hs] at hno
    obtain ⟨hfin, hcoming⟩ := hno
    simp [hfin, hcoming]

/-- Settles O28: a send by its neighbour, an arrival by its receiver, and a receipt by its queue. -/
theorem neighbours : Obligations.Neighbours := by
  unfold Obligations.Neighbours
  refine ⟨fun f s id v _ hi => ?fwd, fun id fromLeft w s u hu => exec_neighbourArrival_of_some hu fromLeft w, fun f s id v _ hi => ?rcv⟩
  case fwd =>
    split
    next hq => exact exec_fwd_of_dropped hi (by simp [hq])
    next r u hq =>
      split
      next hu => exact exec_fwd_of_dropped hi (by simp [hq, hu])
      next hu =>
        intro hroom
        refine ⟨_, exec_fwd_of_room hi hq (Bool.eq_false_iff.mpr hu) hroom, ?_, fun hr => ?_⟩
        · rw [State.modInst_agenda]
          exact scheduled_sent ..
        · have hv : (sent f s v r u).inst? id = some v := (State.setInst_inst?_of_ne _ _ _ _ hr.symm).trans (issues_iff.mp hi).2.1
          rw [State.modInst_of_some hv]
          refine ⟨State.setInst_inst? .., (State.setInst_inst?_of_ne _ _ _ _ hr).trans ?_⟩
          exact State.setInst_inst? ..
  case rcv =>
    split
    next w rest hq => exact exec_rcv_of_cons hi hq
    next hq => exact exec_rcv_of_nothing hi hq

end Sys2Proof.Machine
end

section
/-!
Collectives (10 R208 to R210, R214 to R216): what a seat brings to its sweep, the start of a sweep among seats that agree, and the seat
that the statement on them admits although it has finished (O25).
-/

set_option Elab.async false

namespace Sys2Proof.Machine

open Sys2Proof.Claims

variable {i : Instr} {s : State} {g k id p : Nat} {u v : Inst} {f : QForm} {vec : VecVal} {val word : Word} {x : Segment}

/-! ## What a seat brings (10 R208, R210) -/

/-- A collective form puts what its seat brings before its sweep. -/
theorem issue_collective {vec : Regs → VecVal} {val : Regs → Word} (hi : issues i s id v = true) :
    issue i (collective i word vec val) s =
      .next ((s.setInst id (brought i v s.clk word (vec v.regs) (val v.regs))).tryCollective v.place.seg) := by
  rw [issue_eq hi]
  simp [collective, Done.outcome, settle, brought]

theorem maskedSource_eq (f : QForm) (v : Inst) : maskedSource f v.regs = brings.masked v f := by
  simp only [maskedSource, brings.masked, selects_eq_selected]

theorem exec_of_brings (hb : brings v i = some (p, f, vec, val)) (hi : issues i s id v = true) :
    exec i s = .next ((s.setInst id (brought i v s.clk (BitVec.ofNat 64 ((Form.q f).word p)) vec val)).tryCollective v.place.seg) := by
  cases i with
  | sred | sscan | scav =>
    cases hb
    rw [← maskedSource_eq]
    exact issue_collective hi
  | sbcast | srank =>
    cases hb
    exact issue_collective hi
  | _ => cases hb

/-! ## The start of a sweep (10 R208, R209) -/

/-- Whether an instance waits for the next sweep of a segment. -/
def waitsForNext (x : Segment) (i : Nat × Inst) : Bool := i.2.colls = x.sweeps + 1 && i.2.status = .waiting .sweep

/-- The primary of a collective's word is one of the fields that agree. -/
theorem primary_of_collFields {a b : Word} (h : collFields a = collFields b) : bits a.toNat 63 56 = bits b.toNat 63 56 :=
  congrArg Prod.fst h

theorem bits_primary (w : Word) : bits w.toNat 63 56 = w.toNat / 2 ^ 56 := Nat.mod_eq_of_lt (by omega)

/-- A seat that waits in agreement brings the word's fields, and to `sbcast` its scalar (R209). -/
theorem agrees_of_waits {i : Nat × Inst} (h : agree s g (x.sweeps + 1) word val = true) (hi : i ∈ s.segInsts g)
    (hw : waitsForNext x i = true) :
    collFields i.2.collWord = collFields word ∧ (word.toNat / 2 ^ 56 ≠ 0x83 ∨ i.2.collVal = val) := by
  obtain ⟨hi, hg⟩ := List.mem_filter.mp hi
  obtain ⟨hcolls, hstatus⟩ : i.2.colls = x.sweeps + 1 ∧ i.2.status = .waiting .sweep := by simpa [waitsForNext] using hw
  simpa [of_decide_eq_true hg, hcolls, hstatus] using List.all_eq_true.mp h i hi

/-- Seats that wait in agreement start their sweep, or wait for the others. -/
theorem tryCollective_of_agree (h : ∀ x, lookupA s.segs g = some x → agree s g (x.sweeps + 1) word val = true) :
    PlanOnly s (s.tryCollective g) := by
  unfold State.tryCollective
  split
  · exact .refl s
  next x hx =>
    dsimp only
    split
    · exact .refl s
    next first rest hfirst =>
      have hfirst : (s.segInsts g).filter (waitsForNext x) = first :: rest := hfirst
      have htakes : ∀ i ∈ (s.segInsts g).filter (waitsForNext x),
          collFields i.2.collWord = collFields word ∧ (word.toNat / 2 ^ 56 ≠ 0x83 ∨ i.2.collVal = val) :=
        fun i hi => agrees_of_waits (h x hx) (List.mem_filter.mp hi).1 (List.mem_filter.mp hi).2
      obtain ⟨hff, hfv⟩ := htakes first (hfirst ▸ List.mem_cons_self)
      split
      · exact .refl s
      · rw [if_pos]
        · exact (PlanOnly.refl s).startSweep
        · rw [List.all_eq_true]
          intro i hi
          obtain ⟨hf, hv⟩ := htakes i hi
          have hvals : word.toNat / 2 ^ 56 ≠ 0x83 ∨ i.2.collVal = first.2.collVal :=
            hv.elim .inl fun hv => hfv.imp_right fun hfv => hv.trans hfv.symm
          rw [primary_of_collFields hff, bits_primary]
          simpa [hf, hff] using hvals

/-- A seat that has neither finished nor come to the next sweep keeps it from starting. -/
theorem tryCollective_of_absent (hj : (k, u) ∈ s.segInsts g) (hu : u.finished = false)
    (hx : ∀ x, lookupA s.segs g = some x → u.colls ≠ x.sweeps + 1) : s.tryCollective g = s := by
  unfold State.tryCollective
  split
  · rfl
  next x h =>
    dsimp only
    split
    · rfl
    · rw [if_pos]
      rw [Bool.not_eq_true', Bool.and_eq_false_iff]
      exact .inr (List.all_eq_false.mpr ⟨_, hj, by simp [hu, hx x h]⟩)

/-- A seat that has not finished issues its collective and waits, where the seats that wait agree with it. -/
theorem exec_collective_waits (hb : brings v i = some (p, f, vec, val)) (hi : issues i s id v = true) (hfin : v.finished = false)
    (hu : u = brought i v s.clk (BitVec.ofNat 64 ((Form.q f).word p)) vec val)
    (hagree : agree (s.setInst id u) v.place.seg u.colls (BitVec.ofNat 64 ((Form.q f).word p)) val = true) :
    ∃ t : State, exec i s = .next t ∧ t.insts = (s.setInst id u).insts ∧ t.mem = s.mem ∧ t.scr = s.scr ∧ t.segs = s.segs := by
  have hplace : u.place = v.place := hu ▸ rfl
  have hmem : (id, u) ∈ (s.setInst id u).segInsts v.place.seg :=
    List.mem_filter.mpr ⟨mem_of_lookupA (State.setInst_inst? ..), decide_eq_true (congrArg Place.seg hplace)⟩
  have hplan : PlanOnly (s.setInst id u) ((s.setInst id u).tryCollective v.place.seg) := by
    by_cases hnext : ∀ x, lookupA s.segs v.place.seg = some x → u.colls = x.sweeps + 1
    · exact tryCollective_of_agree fun x hx => hnext x hx ▸ hagree
    · push Not at hnext
      obtain ⟨x, hx, hne⟩ := hnext
      rw [tryCollective_of_absent hmem (hu ▸ hfin) fun y hy => Option.some.inj (hx.symm.trans hy) ▸ hne]
      exact .refl _
  obtain ⟨hinsts, hsegs, -, -, hmem, -, hscr⟩ := hplan.frame
  exact ⟨_, hu ▸ exec_of_brings hb hi, hinsts, hmem, hscr, hsegs⟩

/-! ## A seat that issues although it has finished (10 R208) -/

section
open Sys2Proof.Tests

/-- The collective of the first of three seats. -/
def firstSred : Instr := .sred (fq .i32 3 2 0)

/-- An instance at another seat that waits for its first sweep with a word. -/
def waitingAt (v : Inst) (q : Nat) (word : Word) : Inst :=
  { v with place := { v.place with cell := q, seat := q }, colls := 1, collWord := word, status := .waiting .sweep }

/-- Three seats of a segment whose first sweep is to come. The second and the third wait for it with different words; the first has finished,
and is at its second collective. -/
def finishedSeat : State :=
  let s := (running firstSred).modSeg 1 fun g => { g with seglen := 3 }
  let v := the s
  ((s.setInst 1 { v with finished := true, colls := 1 }).setInst 2 (waitingAt v 1 0#64)).setInst 3 (waitingAt v 2 1#64)

/-- The issue raises the tree-mismatch trap in the seats that wait. -/
theorem exec_finishedSeat : seen (exec firstSred finishedSeat) (fun t => (t.inst? 2).map Inst.status) = some (some .trapped) := by decide

/-- Refutes O25: its premises admit a seat that has finished. In `finishedSeat` the first seat meets them, since `agree` asks of its own second
sweep alone; the first sweep has its seats together, their words disagree, and the issue raises the tree-mismatch trap in all of them (R209),
so that none waits on. On the device a finished seat waits at its commit (02 R55) and issues no collective; of a seat that has not finished
the statement holds (`exec_collective_waits`). -/
theorem not_collectivesIssued : ¬ Obligations.CollectivesIssued := by
  unfold Obligations.CollectivesIssued
  intro h
  obtain ⟨t, ht, hinsts, -⟩ := h firstSred _ _ _ _ finishedSeat 1 (the finishedSeat) rfl (by decide) (by decide) (by decide)
  have hstop := exec_finishedSeat
  have hkept : t.inst? 2 = finishedSeat.inst? 2 := by
    rw [State.inst?, hinsts]
    exact State.setInst_inst?_of_ne _ _ _ _ (by decide)
  rw [ht] at hstop
  simp only [seen, hkept] at hstop
  revert hstop
  decide

end

end Sys2Proof.Machine
end

section
/-!
The result of a sweep (10 R210 to R216): what it leaves of an instance that takes part, the lanes and the count that reach it, and the
statement on them (O26).
-/

set_option Elab.async false

namespace Sys2Proof.Machine

open Sys2Proof.Claims

variable {i : Instr} {s t : State} {g k n id q : Nat} {v : Inst} {f : QForm} {x : Segment}

/-! ## Registers that are written and kept (06 R121, R124; 07 R143, R153) -/

theorem getV_setV (r : Regs) (d : Fin 64) (w : VecVal) : (r.setV d w).getV d = if d < 32 then w else VecVal.none := by
  have hd : d < 32 ↔ d.val < 32 := Iff.rfl
  unfold Regs.setV Regs.getV
  simp only [hd]
  split
  next => simp
  next => rfl

theorem getX_setX (r : Regs) (d : Nat) (w : Word) : (r.setX d w).getX d = if d = 0 ∨ 32 ≤ d then 0#64 else w := by
  unfold Regs.setX Regs.getX
  by_cases hd : d = 0
  · simp [hd]
  · by_cases hlt : d < 32
    · simp [hd, hlt, Nat.not_le.mpr hlt]
    · simp [hd, hlt, Nat.not_lt.mp hlt]

/-- Going on leaves the values of the registers. -/
theorem advance_values (v : Inst) (u : Uses) (clk latency : Nat) :
    (v.advance u clk latency).regs.x = v.regs.x ∧ (v.advance u clk latency).regs.v = v.regs.v := by
  obtain ⟨hx, hv, -⟩ := loopEnd_regs v.regs (v.pc + 1) v.regs.loops
  obtain ⟨hx', hv', -⟩ := freeAll_values (loopEnd v.regs (v.pc + 1) v.regs.loops).1 (u.lasts.filter fun q => !u.writes.contains q)
  exact ⟨hx'.trans hx, hv'.trans hv⟩

/-! ## Instances that a sweep reaches (10 R211) -/

/-- An instance whose pending instruction an event has completed, with its registers written. -/
def resumed (i : Instr) (clk : Nat) (v : Inst) (r : Regs) : Inst :=
  { { v with regs := r }.advance { usesOf i with lasts := [] } clk 0 with wake := some clk }

theorem complete_of_some (h : s.inst? id = some v) (i : Instr) (w : Regs → Regs) :
    s.complete id i w = s.setInst id (resumed i s.clk v (w v.regs)) := State.modInst_of_some h _

/-- What the next sweep of a segment does to one of its instances. -/
def swept (s : State) (g : Nat) (x : Segment) (t : State) (i : Nat × Inst) : State :=
  if i.2.inSweep (x.sweeps + 1) then
    match s.pendingInstr i.2 with
    | some ins => t.complete i.1 ins (sweepWrite ins x.seglen (x.sweeps + 1) i.2.place.seat (s.seatList g x.seglen))
    | none => t
  else t

/-- What the next sweep of a segment leaves. -/
def afterSweep (s : State) (g : Nat) (x : Segment) : State :=
  ((((s.segInsts g).foldl (swept s g x) s).modSeg g fun y => { y with sweeps := x.sweeps + 1 }).releaseSweep g false)

theorem exec_sweepResult_eq (hx : lookupA s.segs g = some x) : exec (.sweepResult g (x.sweeps + 1)) s = .next (afterSweep s g x) := by
  rw [exec_sweepResult, execSweepResult, hx]
  dsimp only
  rw [if_neg (not_not.mpr rfl)]
  rfl

theorem swept_frame (s : State) (g : Nat) (x : Segment) (t : State) (i : Nat × Inst) :
    (swept s g x t i).clk = t.clk ∧ (swept s g x t i).segs = t.segs ∧ ∀ j, j ≠ i.1 → (swept s g x t i).inst? j = t.inst? j := by
  unfold swept
  split
  · split
    · exact ⟨State.modInst_clk .., State.modInst_segs .., fun j hj => State.modInst_inst?_of_ne _ _ _ _ hj⟩
    · exact ⟨rfl, rfl, fun _ _ => rfl⟩
  · exact ⟨rfl, rfl, fun _ _ => rfl⟩

theorem foldl_swept_segs (s : State) (g : Nat) (x : Segment) (l : List (Nat × Inst)) (t : State) :
    (l.foldl (swept s g x) t).segs = t.segs := by
  induction l generalizing t with
  | nil => rfl
  | cons a l ih => exact (ih _).trans (swept_frame s g x t a).2.1

/-- A sweep leaves an instance that is not among those that it goes over. -/
theorem foldl_swept_of_ne (s : State) (g : Nat) (x : Segment) {l : List (Nat × Inst)} (h : ∀ i ∈ l, id ≠ i.1) (t : State) :
    (l.foldl (swept s g x) t).inst? id = t.inst? id := by
  induction l generalizing t with
  | nil => rfl
  | cons a l ih =>
    exact (ih (fun i hi => h i (List.mem_cons_of_mem _ hi)) _).trans ((swept_frame s g x t a).2.2 _ (h a List.mem_cons_self))

/-- A sweep completes the pending instruction of an instance that takes part, once. -/
theorem foldl_swept_inst {l : List (Nat × Inst)} (hl : sortedA l = true) (hmem : (id, v) ∈ l) (hin : v.inSweep (x.sweeps + 1) = true)
    (hp : s.pendingInstr v = some i) {t : State} (ht : t.inst? id = some v) :
    (l.foldl (swept s g x) t).inst? id =
      some (resumed i t.clk v (sweepWrite i x.seglen (x.sweeps + 1) v.place.seat (s.seatList g x.seglen) v.regs)) := by
  induction l generalizing t with
  | nil => cases hmem
  | cons a l ih =>
    rw [List.foldl_cons]
    rcases List.mem_cons.mp hmem with rfl | hmem
    · rw [foldl_swept_of_ne s g x (fun j hj => (sortedA_above hl j hj).ne)]
      simp only [swept, hin, hp, if_true]
      rw [complete_of_some ht, State.setInst_inst?]
    · obtain ⟨hclk, -, hkept⟩ := swept_frame s g x t a
      rw [← hclk]
      exact ih (sortedA_tail hl) hmem ((hkept id (sortedA_above hl _ hmem).ne').trans ht)

/-- The next sweep of a segment has passed, and an instance that took part goes on with what reached it. -/
theorem afterSweep_spec (hx : lookupA s.segs g = some x) (hs : sortedA s.insts = true) (hv : s.inst? id = some v)
    (hg : v.place.seg = g) (hin : v.inSweep (x.sweeps + 1) = true) (hp : s.pendingInstr v = some i) :
    (afterSweep s g x).inst? id =
        some (resumed i s.clk v (sweepWrite i x.seglen (x.sweeps + 1) v.place.seat (s.seatList g x.seglen) v.regs)) ∧
      lookupA (afterSweep s g x).segs g = some { x with sweeps := x.sweeps + 1 } := by
  have hmem : (id, v) ∈ s.segInsts g := List.mem_filter.mpr ⟨mem_of_lookupA hv, decide_eq_true hg⟩
  have hplan := (PlanOnly.refl (((s.segInsts g).foldl (swept s g x) s).modSeg g fun y => { y with sweeps := x.sweeps + 1 })).releaseSweep
    (g := g) (need := false)
  constructor
  · rw [afterSweep, State.inst?, hplan.insts, State.modSeg_insts]
    exact foldl_swept_inst (sortedA_filter hs _) hmem hin hp hv
  · rw [afterSweep, hplan.segs]
    exact lookupA_modSeg_self (by rw [foldl_swept_segs, hx]) _

theorem getV_resumed (i : Instr) (clk : Nat) (v : Inst) (r : Regs) (d : Nat) : (resumed i clk v r).regs.getV d = r.getV d := by
  have h := (advance_values { v with regs := r } { usesOf i with lasts := [] } clk 0).2
  unfold resumed Regs.getV
  dsimp only
  rw [h]

theorem getX_resumed (i : Instr) (clk : Nat) (v : Inst) (r : Regs) (d : Nat) : (resumed i clk v r).regs.getX d = r.getX d := by
  have h := (advance_values { v with regs := r } { usesOf i with lasts := [] } clk 0).1
  unfold resumed Regs.getX
  dsimp only
  rw [h]

/-! ## Seats in the order of a sweep (10 R210) -/

theorem getD_seatList (s : State) (g : Nat) (hq : q < n) : (s.seatList g n).getD q none = (s.seatInst g q).map (·.2) := by
  simp [State.seatList, List.getD_eq_getElem?_getD, hq]

@[simp] theorem length_broughtLanes (s : State) (g n k : Nat) : (broughtLanes s g n k).length = n := by simp [broughtLanes]

theorem getD_broughtLanes (s : State) (g k : Nat) (hq : q < n) : (broughtLanes s g n k).getD q VecVal.none =
    ((((s.seatInst g q).map (·.2)).filter fun v => v.inSweep k).map (·.collVec)).getD VecVal.none := by
  simp only [broughtLanes, List.getD_eq_getElem?_getD, List.getElem?_map, List.getElem?_range hq, Option.map_some, Option.getD_some]
  cases s.seatInst g q with
  | none => rfl
  | some i => cases hin : i.2.inSweep k <;> simp [Option.filter, hin]

/-- What a seat brings to a sweep, read from the list of seats. -/
theorem lanes_of_seat (s : State) (g k : Nat) (hq : q < n) :
    ((((s.seatList g n).getD q none).filter fun v => v.inSweep k).map (·.collVec)).getD VecVal.none =
      (broughtLanes s g n k).getD q VecVal.none := by
  rw [getD_seatList s g hq, getD_broughtLanes s g k hq]

/-- The lanes of a segment's seats in the direction of a form. -/
def inDirection (f : QForm) (rows : List VecVal) : List VecVal := if f.dir then rows.reverse else rows

/-- The position of a seat in the direction of a form. -/
def positionOf (f : QForm) (n q : Nat) : Nat := if f.dir then n - 1 - q else q

theorem lanes_inDirection (f : QForm) (s : State) (g n k : Nat) :
    ((List.range n).map fun p =>
      ((((s.seatList g n).getD (positionOf f n p) none).filter fun v => v.inSweep k).map (·.collVec)).getD VecVal.none) =
        inDirection f (broughtLanes s g n k) := by
  unfold inDirection positionOf
  split
  · refine List.ext_getElem (by simp) fun p hp _ => ?_
    have hp : p < n := by simpa using hp
    rw [List.getElem_map, List.getElem_range, lanes_of_seat s g k (by omega), List.getElem_reverse, List.getD_eq_getElem _ _ (by simp; omega)]
    simp only [length_broughtLanes]
  · refine List.ext_getElem (by simp) fun p hp hp' => ?_
    have hp : p < n := by simpa using hp
    rw [List.getElem_map, List.getElem_range, lanes_of_seat s g k hp, List.getD_eq_getElem _ _ hp']

/-! ## What a position receives (10 R212 to R214) -/

theorem sweepValue_eq_combined {α : Type} (op : α → α → α) (primary : Nat) (excl : Bool) (vs : List (Option α)) (p : Nat) :
    sweepValue op primary excl vs p = combined op primary excl vs p := by
  unfold sweepValue combined
  split
  · rfl
  · rfl
  next h₀ h₁ => rw [if_neg h₀, if_neg h₁]

/-- Lane j of the result at a seat's position. -/
theorem laneAt_sweepVector (f : QForm) (primary : Nat) (rows : List VecVal) (q : Nat) {j : Nat} (hj : j < 16) :
    laneAt (sweepVector f primary (inDirection f rows) (positionOf f rows.length q)) j =
      (BitVec.ofNat 32 (sweptLane f primary rows q j), true) := by
  have hpos : (if f.dir then (inDirection f rows).length - 1 - q else q) = positionOf f rows.length q := by
    unfold inDirection positionOf
    split
    · rw [List.length_reverse]
    · rfl
  unfold sweepVector sweptLane
  dsimp only
  rw [← inDirection, hpos]
  simp only [sweepValue_eq_combined]
  split
  · rw [laneAt_ofFn _ _ hj]
  · rw [laneAt_ofFn _ _ hj]

/-! ## What a sweep writes (10 R214 to R216) -/

/-- The lanes that a combining sweep leaves in its register. -/
theorem laneAt_resumed {primary : Nat} (hw : sweepWrite i n k q (s.seatList g n) v.regs =
    v.regs.setV f.d (sweepVector f primary (inDirection f (broughtLanes s g n k)) (positionOf f n q))) (clk : Nat) :
    ∀ j < 16, laneAt ((resumed i clk v (sweepWrite i n k q (s.seatList g n) v.regs)).regs.getV f.d) j = if f.d < 32 then
      (BitVec.ofNat 32 (sweptLane f primary (broughtLanes s g n k) q j), true) else (0#32, false) := by
  intro j hj
  have hlane := laneAt_sweepVector f primary (broughtLanes s g n k) q hj
  rw [length_broughtLanes] at hlane
  rw [getV_resumed, hw, getV_setV]
  split
  · exact hlane
  · exact laneAt_none j

/-- The lanes that `sbcast` leaves in its register: those of the source seat. -/
theorem sweepWrite_sbcast (f : QForm) (s : State) (g n k q : Nat) (r : Regs) : sweepWrite (.sbcast f) n k q (s.seatList g n) r =
    r.setV f.d ((broughtLanes s g n k).getD (r.getX f.b).toNat VecVal.none) := by
  unfold sweepWrite
  dsimp only
  split
  next hle => rw [List.getD_eq_default _ _ (by simpa using hle)]
  next hlt => rw [lanes_of_seat s g k (Nat.not_le.mp hlt)]

/-- Whether one seat counts for another in `srank`, by their positions in its direction (R216). -/
theorem counts_eq (f : QForm) {p : Nat} (hp : p < n) (hq : q < n) :
    (bit f.fn 0 || decide (positionOf f n p < positionOf f n q)) =
      (decide (f.fn.val % 2 = 1) || if f.dir then decide (q < p) else decide (p < q)) := by
  congr 1
  · simp [bit]
  · unfold positionOf
    split
    · exact decide_eq_decide.mpr (by omega)
    · rfl

/-- The count that `srank` leaves in its register: the flagged seats. -/
theorem sweepWrite_srank (f : QForm) (s : State) (g k : Nat) (hq : q < n) (r : Regs) : sweepWrite (.srank f) n k q (s.seatList g n) r =
    r.setX f.d (BitVec.ofNat 64 ((List.range n).countP (flagged s f g k q))) := by
  unfold sweepWrite
  dsimp only
  rw [← List.countP_eq_length_filter]
  congr 2
  refine List.countP_congr fun p hp => ?_
  have hp : p < n := List.mem_range.mp hp
  have hcounts := counts_eq f hp hq
  unfold positionOf at hcounts
  rw [getD_seatList s g hp, hcounts]
  unfold flagged
  cases s.seatInst g p with
  | none => rfl
  | some i => cases hin : i.2.inSweep k <;> simp [Option.filter, hin]

/-- Settles O26: what the sweep writes for each form, and what its end leaves. -/
theorem sweepResults : Obligations.SweepResults := by
  unfold Obligations.SweepResults
  intro g id x i s v hx hs hv hg hin hq hp
  obtain ⟨hu, hsegs⟩ := afterSweep_spec hx hs hv hg hin hp
  refine ⟨_, _, exec_sweepResult_eq hx, hu, rfl, rfl, by rw [hsegs]; rfl, ?_⟩
  cases i with
  | sred f => exact laneAt_resumed (by rw [← lanes_inDirection]; rfl) _
  | sscan f => exact laneAt_resumed (by rw [← lanes_inDirection]; rfl) _
  | scav f => exact laneAt_resumed (by rw [← lanes_inDirection]; rfl) _
  | sbcast f =>
    dsimp only
    rw [getV_resumed, sweepWrite_sbcast, getV_setV]
  | srank f =>
    dsimp only
    rw [getX_resumed, sweepWrite_srank f s g _ hq, getX_setX]
  | _ => trivial

end Sys2Proof.Machine
end

section
/-!
Forms without an effect of their own, and the stream that `smark` makes current (O11).
-/

set_option Elab.async false

namespace Sys2Proof.Machine

open Sys2Proof.Claims

variable {i : Instr} {s : State} {id : Nat} {v : Inst}

/-! ## Forms without an effect (11 R246, R258; 12 R275, R279) -/

/-- A form whose effect changes nothing completes. -/
theorem issue_unchanged {eff : State → Nat → Inst → Done} {latency : Nat} (hi : issues i s id v = true)
    (he : eff s id v = .next s latency) : issue i eff s = .next (retired i s id v latency) := by
  obtain ⟨-, hv, -, -⟩ := issues_iff.mp hi
  exact (issue_next hi he).trans (congrArg _ (State.modInst_of_some hv _))

/-- A fence whose reads are performed, or that waits for none, does not stall (11 R258). -/
theorem fence_proceeds {f : ZForm} (h : f.code.val % 4 = 0 ∨ s.readsDone id = true) :
    ((bit f.code 0 || bit f.code 1) && !s.readsDone id) = false := by
  rcases h with hnone | hdone
  · have h0 : bit f.code 0 = false := by simp [bit]; omega
    have h1 : bit f.code 1 = false := by simp [bit]; omega
    simp [h0, h1]
  · simp [hdone]

theorem exec_fence_of_effectless {f : ZForm} (h : effectless s id v (.fence f) = true) (hi : issues (.fence f) s id v = true) :
    exec (.fence f) s = .next (retired (.fence f) s id v 1) := by
  obtain ⟨hbit, hreads⟩ := (Bool.and_eq_true ..).mp h
  have hbit : ¬bit f.code 2 = true := by
    have := of_decide_eq_true hbit
    rw [bit_eq_true_iff]
    omega
  have hreads : f.code.val % 4 = 0 ∨ s.readsDone id = true := by simpa using hreads
  rw [exec_fence, execFence]
  refine issue_unchanged hi ?_
  dsimp only
  rw [fence_proceeds hreads, if_neg Bool.false_ne_true, if_neg hbit]

/-- Outside record mode, and in a tail, nothing is recorded (12 R275). -/
theorem not_records_of_effectless (h : (v.committed || !s.recordMode v) = true) : (!s.records v) = true := by
  rw [State.records, Bool.not_and, Bool.not_not]
  exact h

theorem markHandle_of_not_records {f : RForm} {flag : Nat} (h : (!s.records v) = true) : markHandle f flag s id v = .next s 1 := if_pos h

theorem exec_smark_of_issues {f : IForm} (hi : issues (.smark f) s id v = true) :
    let n := f.imm.val % 8
    exec (.smark f) s = .next (retired (.smark f) s id { withX v f.d (BitVec.ofNat 64 (getD 0 v.seqs n)) with stream := n } 1) := by
  rw [exec_smark, execSmark]
  refine issue_setInst hi ?_
  rw [bits_low]
  rfl

/-- Settles O11: the effect of each form is to change nothing, under the condition that the statement gives. -/
theorem effectlessForms : Obligations.EffectlessForms := by
  unfold Obligations.EffectlessForms
  refine ⟨fun i s id v h _ hi => ?_, fun _ _ _ _ _ hi => exec_smark_of_issues hi⟩
  cases i with
  | nop =>
    rw [exec_nop, execNop]
    exact issue_unchanged hi rfl
  | pref f =>
    rw [exec_pref, execPref]
    exact issue_unchanged hi rfl
  | fence f => exact exec_fence_of_effectless h hi
  | brk f =>
    rw [exec_brk, execBrk]
    exact issue_unchanged hi (if_neg (Bool.eq_false_iff.mp ((Bool.not_eq_true' _).mp h)))
  | logmark f =>
    rw [exec_logmark, execLogmark]
    exact issue_unchanged hi (if_pos (not_records_of_effectless h))
  | opsave f =>
    rw [exec_opsave, execOpsave]
    exact issue_unchanged hi (markHandle_of_not_records (not_records_of_effectless h))
  | oprecomp f =>
    rw [exec_oprecomp, execOprecomp]
    exact issue_unchanged hi (markHandle_of_not_records (not_records_of_effectless h))
  | _ => cases h

end Sys2Proof.Machine
end

section
/-!
Loads from scratch (11 R233 to R237): what may change beside the register written, and the lanes and numbers that a load finds (O13).
-/

set_option Elab.async false

namespace Sys2Proof.Machine

open Sys2Proof.Claims

variable {i : Instr} {s t u : State} {id : Nat} {v : Inst}

/-! ## Steps that take time alone (01 R18; 12 R282) -/

theorem sameButTime_refl (s : State) : sameButTime s s := ⟨rfl, fun _ => ⟨rfl, fun _ => rfl⟩⟩

theorem sameButTime_trans (h₁ : sameButTime s t) (h₂ : sameButTime t u) : sameButTime s u := by
  obtain ⟨hst, hctx⟩ := h₁
  obtain ⟨htu, hctx'⟩ := h₂
  refine ⟨?_, fun c => ⟨(hctx' c).1.trans (hctx c).1, fun k => ?_⟩⟩
  · rw [htu, hst]
  · rw [← (hctx c).2 k, ← (hctx' c).2 k]

/-- A cell after a change of some cell: it was changed, or it stands. -/
theorem cell_modCell_cases (s : State) (c k d j : Nat) (f : CellCtx → CellCtx) :
    (s.modCell c k f).cell d j = f (s.cell d j) ∨ (s.modCell c k f).cell d j = s.cell d j := by
  by_cases hd : d = c
  · subst hd
    rw [cell_modCell]
    split
    next hj => exact .inl (by rw [hj])
    next => exact .inr rfl
  · exact .inr (cell_modCell_of_ne s hd k j f)

/-- A change of a cell leaves the contexts but for their cells. -/
theorem ctx_modCell_beside (s : State) (c k d : Nat) (f : CellCtx → CellCtx) :
    { (s.modCell c k f).ctx d with cells := [] } = { s.ctx d with cells := [] } := by
  rw [State.modCell, ctx_modCtx]
  split
  next hd => rw [hd]
  next => rfl

theorem sameButTime_modCell (s : State) (c k : Nat) {f : CellCtx → CellCtx}
    (hf : ∀ x, { f x with banks := x.banks, perf := x.perf } = x := by exact fun _ => rfl) : sameButTime s (s.modCell c k f) := by
  refine ⟨rfl, fun d => ⟨ctx_modCell_beside s c k d f, fun j => ?_⟩⟩
  rcases cell_modCell_cases s c k d j f with hcell | hcell
  · rw [hcell, hf]
  · rw [hcell]

theorem sameButTime_takeBank (s : State) (c k a : Nat) : sameButTime s (s.takeBank c k a).1 := by
  dsimp only [State.takeBank]
  exact sameButTime_modCell s c k

theorem sameButTime_takeBanks (s : State) (v : Inst) (a n : Nat) : sameButTime s (s.takeBanks v a n).1 := by
  unfold State.takeBanks
  extract_lets p q
  have hp : sameButTime s p.1 := sameButTime_takeBank s _ _ a
  split
  · exact hp
  · exact sameButTime_trans hp (sameButTime_takeBank p.1 _ _ _)

/-! ## Addresses and lanes (11 R233, R234) -/

theorem mAddr_eq_scratchAddress (f : MForm) (v : Inst) : mAddr f v.regs = scratchAddress v f 32 := by
  have hoff : f.off.val % 2 ^ 32 = f.off.val := Nat.mod_eq_of_lt f.off.isLt
  rw [mAddr, baseOffset, signed_eq_bmod, scratchAddress, hoff]

theorem length_sideBytes (s : State) (v : Inst) (cell a n : Nat) : (s.sideBytes v cell a n).length = n := by
  rw [sideBytes_eq_map, List.length_map, List.length_range]

theorem slice_eq_map_getD {bs : List Byte} {k n : Nat} (h : k + n ≤ bs.length) :
    (bs.drop k).take n = (List.range n).map fun b => bs.getD (k + b) 0#8 := by
  refine List.ext_getElem (by simp; omega) fun b hb _ => ?_
  have hb : b < n := (List.length_take_le ..).trans_lt' hb
  have hlt : k + b < bs.length := by omega
  simp [hlt]

/-- A lane of bytes is four of them, little-endian (00 R7). -/
theorem laneOf_sideBytes {cell a n j : Nat} (h : 4 * j + 4 ≤ n) :
    laneOf (s.sideBytes v cell a n) (4 * j) = laneBytes (s.sideBytes v cell a n) j := by
  rw [laneOf, laneBytes, number_eq_wordOfBytes, slice_eq_map_getD (by rwa [length_sideBytes])]

/-! ## Reads of the own side (11 R233) -/

/-- A read of an M form inside the side that meets no poisoned granule. -/
theorem withRead_of_inSide {f : MForm} {n align : Nat} {k : State → List Byte → Nat → Done}
    (ha : inSide (scratchAddress v f 32) n align = true) (hp : poisoned s v (scratchAddress v f 32).toNat n = false) :
    withRead s v (mAddr f v.regs) n align k =
      k (s.takeBanks v (scratchAddress v f 32).toNat n).1 (s.sideBytes v v.place.cell (scratchAddress v f 32).toNat n)
        (5 + (s.takeBanks v (scratchAddress v f 32).toNat n).2) := by
  rw [mAddr_eq_scratchAddress, withRead, scratchAt_of_inSide ha]
  exact if_neg (Bool.eq_false_iff.mp hp)

/-- A form whose effect leaves its instance changed, and the state beside it as `r` has it. -/
theorem issue_setInst_beside {eff : State → Nat → Inst → Done} {r : State} {w : Inst} {latency : Nat} (hi : issues i s id v = true)
    (he : eff s id v = .next (r.setInst id w) latency) : issue i eff s = .next (retired i r id w latency) := by
  rw [issue_next hi he, State.modInst_setInst]
  rfl

/-- The answer that completes a load of lanes: the lanes of vector register D that are written become their values, the others are kept,
and beside D no more than time changes. -/
def LoadsLanes (i : Instr) (s : State) (id : Nat) (v : Inst) (d least : Nat) (sel : Nat → Bool) (value : Nat → Lane × Bool)
    (o : Host.Outcome State Fault Refusal) : Prop :=
  ∃ (t : State) (a : VecVal) (latency : Nat), o = .next (retired i t id (withV v d a) latency) ∧ sameButTime s t ∧
    least ≤ latency ∧ ∀ j < 16, laneAt a j = if sel j then value j else keptLane v d j

/-- A form whose effect writes some lanes of a vector register and takes time. -/
theorem issue_loadsLanes {eff : State → Nat → Inst → Done} {r : State} {d least latency : Nat} {sel written : Nat → Bool}
    {f : Nat → Lane} {ok : Nat → Bool} {value : Nat → Lane × Bool} (hi : issues i s id v = true)
    (he : eff s id v = .next (r.setInst id { v with regs := v.regs.mergeV d sel f ok }) latency) (hr : sameButTime s r)
    (hleast : least ≤ latency) (hsel : ∀ j, sel j = written j) (hvalue : ∀ j < 16, written j = true → (f j, ok j) = value j) :
    LoadsLanes i s id v d least written value (issue i eff s) := by
  refine ⟨r, mergedLanes v.regs d sel f ok, latency, issue_setInst_beside hi he, hr, hleast, fun j hj => ?_⟩
  rw [laneAt_mergedLanes d sel f ok hj, hsel]
  split
  next hw => exact hvalue j hj hw
  next => rfl

section
variable {d least : Nat} {sel : Nat → Bool} {value : Nat → Lane × Bool}

theorem loadsLanes_vld {f : MForm} (h : laneLoad s v (.vld f) = some (d, sel, value, least)) (hi : issues (.vld f) s id v = true) :
    LoadsLanes (.vld f) s id v d least sel value (exec (.vld f) s) := by
  obtain ⟨hread, heq⟩ := Option.ite_none_right_eq_some.mp h
  cases heq
  obtain ⟨hin, hpoison⟩ := (Bool.and_eq_true ..).mp hread
  rw [exec_vld, execVld]
  exact issue_loadsLanes hi (withRead_of_inSide hin ((Bool.not_eq_true' _).mp hpoison)) (sameButTime_takeBanks ..) (Nat.le_add_right 5 _)
    (selects_eq_selected v.regs f.mask f.neg) fun j hj _ => Prod.ext (laneOf_sideBytes (by omega)) rfl

/-! ## Lanes at addresses of their own (11 R236) -/

/-- The addresses of lanes that lie in the side. -/
theorem laneAddrs_of_inSide {base : Word} {offs : VecVal} {lanes : List Nat}
    (h : ∀ j ∈ lanes, inSide (laneAddress base (offs.lane j)) 4 4 = true) :
    laneAddrs base offs lanes = .ok (lanes.map fun j => (j, (laneAddress base (offs.lane j)).toNat)) := by
  induction lanes with
  | nil => rfl
  | cons j lanes ih =>
    have hj : scratchAt (laneAddr base (offs.lane j)) 4 4 = .ok (laneAddress base (offs.lane j)).toNat :=
      scratchAt_of_inSide (h j (List.mem_cons_self ..))
    have ih := ih fun k hk => h k (List.mem_cons_of_mem _ hk)
    unfold laneAddrs at ih ⊢
    rw [List.foldr_cons, hj, ih]
    rfl

theorem lookupA_map_graph {α : Type} {l : List Nat} {g : Nat → α} (j : Nat) :
    lookupA (l.map fun j => (j, g j)) j = if j ∈ l then some (g j) else none := by
  induction l with
  | nil => rfl
  | cons a l ih =>
    rw [List.map_cons, lookupA, ih]
    by_cases ha : a = j
    · simp [ha]
    · simp [ha, Ne.symm ha]

/-- A lane of `vgath`, by the addresses of the lanes that take part. -/
def gatheredLane (s : State) (v : Inst) (as : List (Nat × Nat)) (j : Nat) : Lane :=
  match lookupA as j with
  | some a => laneOf (s.sideBytes v v.place.cell a 4) 0
  | none => 0#32

theorem loadsLanes_vgath {f : RForm} (h : laneLoad s v (.vgath f) = some (d, sel, value, least)) (hi : issues (.vgath f) s id v = true) :
    LoadsLanes (.vgath f) s id v d least sel value (exec (.vgath f) s) := by
  obtain ⟨hread, heq⟩ := Option.ite_none_right_eq_some.mp h
  cases heq
  let lanes := (List.range 16).filter fun j => v.regs.selects f.mask f.neg j && (v.regs.getV f.b).ok j
  let as := lanes.map fun j => (j, (laneAddress (v.regs.getX f.a) ((v.regs.getV f.b).lane j)).toNat)
  have hlane (j : Nat) (hj : j ∈ lanes) : inSide (laneAddress (v.regs.getX f.a) ((v.regs.getV f.b).lane j)) 4 4 = true ∧
      poisoned s v (laneAddress (v.regs.getX f.a) ((v.regs.getV f.b).lane j)).toNat 4 = false := by
    obtain ⟨hj, hreads⟩ := List.mem_filter.mp hj
    rw [selects_eq_selected] at hreads
    simpa [hreads] using List.all_eq_true.mp hread j hj
  have hclean : (as.any fun p => s.ownPoisoned v p.2 4) = false := by
    rw [List.any_map, List.any_eq_false]
    exact fun j hj => Bool.eq_false_iff.mp (hlane j hj).2
  rw [exec_vgath, execVgath]
  refine issue_loadsLanes (r := s) (latency := 5 + busiest as) (sel := v.regs.selects f.mask f.neg) (f := gatheredLane s v as)
    (ok := (v.regs.getV f.b).ok) hi ?_ (sameButTime_refl s) (Nat.le_add_right 5 _) (selects_eq_selected v.regs f.mask f.neg) fun j hj hw => ?_
  · dsimp only
    rw [laneAddrs_of_inSide fun j hj => (hlane j hj).1]
    exact if_neg (Bool.eq_false_iff.mp hclean)
  · have hmem : j ∈ lanes ↔ (v.regs.getV f.b).ok j = true := by
      simp [lanes, List.mem_filter, hj, selects_eq_selected, hw]
    rw [gatheredLane, lookupA_map_graph]
    simp only [hmem]
    cases (v.regs.getV f.b).ok j with
    | true => exact Prod.ext (laneOf_sideBytes (j := 0) (le_refl 4)) rfl
    | false => rfl

theorem loadsLanes_tld {f : RForm} (h : laneLoad s v (.tld f) = some (d, sel, value, least)) (hi : issues (.tld f) s id v = true) :
    LoadsLanes (.tld f) s id v d least sel value (exec (.tld f) s) := by
  simp only [laneLoad] at h
  split at h
  next t ht =>
    obtain ⟨hread, heq⟩ := Option.ite_none_right_eq_some.mp h
    cases heq
    obtain ⟨⟨hcount, hpending⟩, hpoison⟩ : ((v.regs.getX f.b).toNat < t.hdr.count ∧ s.tilePending v t = false) ∧
        s.poisonedAt v.place.ctx t.cell (t.hdr.base + (v.regs.getX f.b).toNat) (t.hdr.base + (v.regs.getX f.b).toNat) = false := by
      simpa using hread
    let r := if t.cell = v.place.cell then s else s.count v.place.ctx v.place.cell 6 1
    have hr : sameButTime s r := by
      unfold r
      split
      · exact sameButTime_refl s
      · exact sameButTime_modCell s _ _
    have hlatency : r.tileLatency v t = s.tileLatency v t := by
      unfold r
      split
      · rfl
      · rfl
    rw [exec_tld, execTld]
    refine issue_loadsLanes (r := r) (sel := fun _ => true) (latency := s.tileLatency v t)
      (f := fun j => laneOf (s.sideBytes v t.cell ((t.hdr.base + (v.regs.getX f.b).toNat) * 64) 64) (4 * j)) (ok := fun _ => true)
      hi ?_ hr (le_refl _) (fun _ => rfl) fun j hj _ => Prod.ext (laneOf_sideBytes (by omega)) rfl
    simp only [ht, Nat.not_le.mpr hcount, hpending, hpoison, Bool.false_eq_true, if_false]
    rw [← hlatency]
    rfl
  next => cases h

end

/-! ## `sld` (11 R235) -/

theorem exec_sld_of_inSide {f : MForm} (hi : issues (.sld f) s id v = true) :
    let n := Ty.width f.ty / 8
    let a := scratchAddress v f 32
    inSide a n n = true → poisoned s v a.toNat n = false →
    ∃ (t : State) (latency : Nat),
      exec (.sld f) s = .next (retired (.sld f) t id
        (withX v f.d (widened f.ty (number (s.sideBytes v v.place.cell a.toNat n)))) latency) ∧ sameButTime s t ∧ 5 ≤ latency := by
  intro n a hin hpoison
  rw [exec_sld, execSld, number_eq_wordOfBytes, widened, ← readInt_eq_wrap]
  exact ⟨_, _, issue_setInst_beside hi (withRead_of_inSide hin hpoison), sameButTime_takeBanks .., Nat.le_add_right 5 _⟩

/-- Settles O13: each load of lanes finds its bytes, takes the banks or counts a granule, and writes one register. -/
theorem scratchLoads : Obligations.ScratchLoads := by
  unfold Obligations.ScratchLoads
  refine ⟨fun i d least sel value s id v h _ hi => ?_, fun _ _ _ _ _ hi => exec_sld_of_inSide hi⟩
  cases i with
  | vld f => exact loadsLanes_vld h hi
  | vgath f => exact loadsLanes_vgath h hi
  | tld f => exact loadsLanes_tld h hi
  | _ => cases h

end Sys2Proof.Machine
end

section
/-!
Stores to scratch (11 R233 to R236, R238, R239): what one store of bytes leaves, and the stores of each form one after another (O14).
-/

set_option Elab.async false

namespace Sys2Proof.Machine

open Sys2Proof.Claims

variable {i : Instr} {s t u : State} {id : Nat} {v w : Inst}

/-! ## What a store may change (06 R142; 11 R233; 19 R346) -/

theorem sameButScratch_refl (id : Nat) (s : State) : sameButScratch id s s := ⟨rfl, fun _ _ => rfl, fun _ => ⟨rfl, fun _ => rfl⟩⟩

theorem sameButScratch_trans (h₁ : sameButScratch id s t) (h₂ : sameButScratch id t u) : sameButScratch id s u := by
  obtain ⟨hst, hinst, hctx⟩ := h₁
  obtain ⟨htu, hinst', hctx'⟩ := h₂
  refine ⟨?_, fun j hj => (hinst' j hj).trans (hinst j hj), fun c => ⟨(hctx' c).1.trans (hctx c).1, fun k => ?_⟩⟩
  · rw [htu, hst]
  · rw [← (hctx c).2 k, ← (hctx' c).2 k]

theorem sameButScratch_of_sameButTime (h : sameButTime s t) : sameButScratch id s t := by
  obtain ⟨hst, hctx⟩ := h
  refine ⟨?_, fun j _ => ?_, fun c => ⟨(hctx c).1, fun k => ?_⟩⟩
  · rw [hst]
  · rw [hst]; rfl
  · rw [← (hctx c).2 k]

theorem sameButScratch_setInst (id : Nat) (s : State) (w : Inst) : sameButScratch id s (s.setInst id w) :=
  ⟨rfl, fun j hj => State.setInst_inst?_of_ne s id j w hj, fun _ => ⟨rfl, fun _ => rfl⟩⟩

theorem sameButScratch_modInst (id : Nat) (s : State) (f : Inst → Inst) : sameButScratch id s (s.modInst id f) := by
  unfold State.modInst
  split
  · exact sameButScratch_setInst id s _
  · exact sameButScratch_refl id s

theorem sameButScratch_modCell (id : Nat) (s : State) (c k : Nat) {f : CellCtx → CellCtx}
    (hf : ∀ x, { f x with hdrs := x.hdrs, prods := x.prods, banks := x.banks, perf := x.perf } = x := by exact fun _ => rfl) :
    sameButScratch id s (s.modCell c k f) := by
  refine ⟨rfl, fun _ _ => rfl, fun d => ⟨ctx_modCell_beside s c k d f, fun j => ?_⟩⟩
  rcases cell_modCell_cases s c k d j f with hcell | hcell
  · rw [hcell, hf]
  · rw [hcell]

/-- Where a context's bytes of scratch stand does not change with a store. -/
theorem scrAddr_of_sameButScratch (h : sameButScratch id s t) (c cell a : Nat) : t.scrAddr c cell a = s.scrAddr c cell a := by
  obtain ⟨hst, -, hctx⟩ := h
  have hslot : (t.ctx c).slot = (s.ctx c).slot := (congrArg (·.slot) (hctx c).1 :)
  have hside : (t.ctx c).side = (s.ctx c).side := (congrArg (·.side) (hctx c).1 :)
  rw [State.scrAddr, State.scrAddr, hslot, hside, State.devCell, State.firstCell, State.perQuarter, hst]
  rfl

/-! ## Stores in order -/

theorem written_append (ss ss' : List (Nat × List Byte)) (a : Nat) (old : Byte) :
    written (ss ++ ss') a old = written ss' a (written ss a old) := List.foldl_append ..

/-- `t` is what the stores `ss` of instance `v` to its own side leave of `s`: its bytes read as the stores say, the instance has its stage
alone changed, and before its commit its stage notes them (02 R51). -/
structure Stored (id : Nat) (v : Inst) (ss : List (Nat × List Byte)) (s t : State) : Prop where
  frame : sameButScratch id s t
  inst : ∀ w, s.inst? id = some w → ∃ st, t.inst? id = some { w with stage := st } ∧ w.stage.wrote ⊆ st.wrote ∧
    (v.committed = false → ∀ p ∈ ss, p.2 ≠ [] → (v.place.cell, p.1, p.2.length) ∈ st.wrote)
  bytes : ∀ a, readByte t.scr a = written (ss.map fun p => (s.scrAddr v.place.ctx v.place.cell p.1, p.2)) a (readByte s.scr a)

theorem Stored.refl (id : Nat) (v : Inst) (s : State) : Stored id v [] s s where
  frame := sameButScratch_refl id s
  inst w hw := ⟨w.stage, hw, List.Subset.refl _, fun _ _ hp => absurd hp List.not_mem_nil⟩
  bytes _ := rfl

theorem Stored.append {ss ss' : List (Nat × List Byte)} (h₁ : Stored id v ss s t) (h₂ : Stored id v ss' t u) :
    Stored id v (ss ++ ss') s u where
  frame := sameButScratch_trans h₁.frame h₂.frame
  inst w hw := by
    obtain ⟨st, ht, hwrote, hnoted⟩ := h₁.inst w hw
    obtain ⟨st', hu, hwrote', hnoted'⟩ := h₂.inst _ ht
    refine ⟨st', hu, List.Subset.trans hwrote hwrote', fun hc p hp hne => ?_⟩
    rcases List.mem_append.mp hp with hp | hp
    · exact hwrote' (hnoted hc p hp hne)
    · exact hnoted' hc p hp hne
  bytes a := by
    rw [h₂.bytes, h₁.bytes, List.map_append, written_append]
    simp only [scrAddr_of_sameButScratch h₁.frame]

/-- A step that changes headers, producer words, banks and counters of cells. -/
theorem Stored.modCell (id : Nat) (v : Inst) (s : State) (c k : Nat) {f : CellCtx → CellCtx}
    (hf : ∀ x, { f x with hdrs := x.hdrs, prods := x.prods, banks := x.banks, perf := x.perf } = x := by exact fun _ => rfl) :
    Stored id v [] s (s.modCell c k f) where
  frame := sameButScratch_modCell id s c k hf
  inst := (Stored.refl id v s).inst
  bytes _ := rfl

/-- A step that changes the instance's stage, but for the writes that it notes. -/
theorem Stored.modStage (id : Nat) (v : Inst) (s : State) {f : Stage → Stage} (hf : ∀ st, (f st).wrote = st.wrote := by exact fun _ => rfl) :
    Stored id v [] s (s.modInst id fun u => { u with stage := f u.stage }) where
  frame := sameButScratch_modInst id s _
  inst w hw := by
    rw [State.modInst_of_some hw]
    exact ⟨_, State.setInst_inst? .., (hf w.stage).symm ▸ List.Subset.refl _, fun _ _ hp => absurd hp List.not_mem_nil⟩
  bytes a := by rw [State.modInst_scr]; rfl

theorem Stored.foldl {α : Type} (h : Stored id v [] s t) {l : List α} {f : State → α → State} (hf : ∀ u a, Stored id v [] u (f u a)) :
    Stored id v [] s (l.foldl f t) := by
  induction l generalizing t with
  | nil => exact h
  | cons a l ih => exact ih (h.append (hf _ _))

/-- What a write does to the headers of its cell (09 R187). -/
theorem Stored.writeHeader (id : Nat) (v : Inst) (s : State) (δ : HdrDelta) : Stored id v [] s (s.writeHeader id v δ) := by
  unfold State.writeHeader
  split
  · exact .modCell id v s _ _
  · exact .modStage id v s (f := fun st => { st with hdrs := st.hdrs ++ [δ] })

theorem Stored.touch (id : Nat) (v : Inst) (s : State) (lo hi : Nat) (p : Producer) : Stored id v [] s (s.touch id v lo hi p) :=
  (Stored.refl id v s).foldl fun u k => by
    dsimp only
    split
    · exact .writeHeader id v u _
    · exact .refl id v u

/-- A write of bytes that the stage notes before commit (02 R51). -/
theorem Stored.pokeNoted (id : Nat) (v : Inst) (s : State) (a : Nat) (bs : List Byte) :
    Stored id v [(a, bs)] s ((s.pokeSide v.place.ctx v.place.cell a bs).noteWrite id v v.place.cell a bs.length) := by
  unfold State.noteWrite
  cases hc : v.committed with
  | true =>
    refine ⟨⟨rfl, fun _ _ => rfl, fun _ => ⟨rfl, fun _ => rfl⟩⟩, fun w hw => ⟨w.stage, hw, List.Subset.refl _, fun h => absurd (hc.symm.trans h) nofun⟩, fun b => ?_⟩
    exact readByte_writeBytes ..
  | false =>
    have hpoke : sameButScratch id s (s.pokeSide v.place.ctx v.place.cell a bs) := ⟨rfl, fun _ _ => rfl, fun _ => ⟨rfl, fun _ => rfl⟩⟩
    rw [if_neg Bool.false_ne_true]
    refine ⟨sameButScratch_trans hpoke (sameButScratch_modInst id _ _), fun w hw => ?_, fun b => ?_⟩
    · rw [State.modInst_of_some (s := s.pokeSide v.place.ctx v.place.cell a bs) hw]
      refine ⟨_, State.setInst_inst? .., List.subset_cons_self .., fun _ p hp _ => ?_⟩
      rw [List.mem_singleton.mp hp]
      exact List.mem_cons_self ..
    · rw [State.modInst_scr]
      exact readByte_writeBytes ..

theorem Stored.pokeOwn (id : Nat) (v : Inst) (s : State) (a : Nat) (bs : List Byte) : Stored id v [(a, bs)] s (s.pokeOwn id v a bs) := by
  have h := Stored.pokeNoted id v s a bs
  unfold State.pokeOwn
  dsimp only
  split
  · exact h
  · exact h.append (.modStage id v _ (f := fun st => { st with
      grads := (List.range bs.length).foldl (fun m k =>
        if v.stage.gradGranules.contains ((a + k) / 64) then writeByte m (a + k) (bs.getD k 0#8) else m) st.grads }))

/-- A store of bytes to an unprotected granule is done (02 R52; 11 R239). -/
theorem store_of_granule {a : Nat} {bs : List Byte} (hg : (a + bs.length - 1) / 64 ≤ a / 64) (hp : v.isProtected (a / 64) = false) (s : State) :
    ∃ t, s.store id v a bs = .ok t ∧ Stored id v [(a, bs)] s t := by
  unfold State.store
  dsimp only
  split
  next hnil =>
    obtain rfl := List.isEmpty_iff.mp hnil
    have h := Stored.refl id v s
    exact ⟨s, rfl, h.frame, fun w hw => ⟨w.stage, hw, List.Subset.refl _, fun _ p hp hne => absurd (by rw [List.mem_singleton.mp hp]) hne⟩,
      fun b => (if_neg (by simp)).symm⟩
  next =>
    have hone : ∀ k ∈ List.range ((a + bs.length - 1) / 64 + 1 - a / 64), ¬v.isProtected (a / 64 + k) = true := by
      intro k hk
      obtain rfl : k = 0 := by have := List.mem_range.mp hk; omega
      exact Bool.eq_false_iff.mp hp
    rw [if_neg (Bool.eq_false_iff.mp (List.any_eq_false.mpr hone))]
    exact ⟨_, rfl, (Stored.pokeOwn id v s a bs).append (.touch id v _ _ _ _)⟩

/-- Stores to unprotected granules one after another, each of which is done. -/
theorem Stored.stores {α : Type} {l : List α} {at_ : α → Nat} {bs : α → List Byte}
    (h : ∀ x ∈ l, (at_ x + (bs x).length - 1) / 64 ≤ at_ x / 64 ∧ v.isProtected (at_ x / 64) = false) (s : State) :
    Stored id v (l.map fun x => (at_ x, bs x)) s
      (l.foldl (fun s x => match s.store id v (at_ x) (bs x) with | .ok s => s | .error _ => s) s) := by
  induction l generalizing s with
  | nil => exact .refl id v s
  | cons x l ih =>
    obtain ⟨hg, hp⟩ := h x (List.mem_cons_self ..)
    obtain ⟨t, ht, hst⟩ := store_of_granule (id := id) hg hp s
    rw [List.foldl_cons, ht]
    exact hst.append (ih (fun y hy => h y (List.mem_cons_of_mem _ hy)) t)

/-! ## Forms that store -/

/-- The answer of a form that has done the stores `ss`. -/
def CompletesStores (i : Instr) (s : State) (id : Nat) (v : Inst) (ss : List (Nat × List Byte)) (o : Host.Outcome State Fault Refusal) : Prop :=
  ∃ t : State, o = .next t ∧ sameButScratch id s t ∧
    (∃ (st : Stage) (latency : Nat), t.inst? id = some (completed i s.clk { v with stage := st, regs := afterStore s v i } latency) ∧
      (v.committed = false → ∀ p ∈ ss, ∀ k < p.2.length,
        wroteByte s { v with stage := st } (s.scrAddr v.place.ctx v.place.cell (p.1 + k)) = true)) ∧
    ∀ a, readByte t.scr a = written (ss.map fun p => (s.scrAddr v.place.ctx v.place.cell p.1, p.2)) a (readByte s.scr a)

/-- A form whose effect leaves its registers written in a state `r`, and then stores. -/
theorem issue_completesStores {eff : State → Nat → Inst → Done} {ss : List (Nat × List Byte)} {r : State} {latency : Nat}
    (hi : issues i s id v = true) (he : eff s id v = .next t latency) (hr : sameButScratch id s r) (hscr : r.scr = s.scr)
    (hv : r.inst? id = some { v with regs := afterStore s v i }) (hst : Stored id v ss r t) :
    CompletesStores i s id v ss (issue i eff s) := by
  obtain ⟨st, ht, -, hnoted⟩ := hst.inst _ hv
  have hframe := sameButScratch_trans hr hst.frame
  have hclk : t.clk = s.clk := by rw [hframe.1]
  refine ⟨_, issue_next hi he, sameButScratch_trans hframe (sameButScratch_modInst id t _), ⟨st, latency, ?_, fun hc p hp k hk => ?_⟩, fun a => ?_⟩
  · rw [State.modInst_of_some ht, State.setInst_inst?, hclk]
  · have hmem := hnoted hc p hp (List.ne_nil_of_length_pos (by omega))
    refine List.any_eq_true.mpr ⟨_, hmem, ?_⟩
    simp only [scrAddr_add]
    simp
    omega
  · rw [State.modInst_scr, hst.bytes, hscr]
    simp only [scrAddr_of_sameButScratch hr]

/-- Stores of which none meets a protected granule (02 R52). -/
theorem unprotected_of_guarded {ss ss' : List (Nat × List Byte)}
    (h : (if ss.any fun p => v.isProtected (p.1 / 64) then none else some ss) = some ss') :
    ss' = ss ∧ ∀ p ∈ ss, v.isProtected (p.1 / 64) = false := by
  split at h
  next => cases h
  next hany =>
    cases h
    exact ⟨rfl, fun p hp => Bool.eq_false_iff.mpr (List.any_eq_false.mp (Bool.eq_false_iff.mpr hany) p hp)⟩

/-- An access at a multiple of its length stays in its granule (11 R233). -/
theorem granule_of_inSide {a : Int} {n : Nat} (hn : n ∈ [0, 1, 2, 4, 8]) (h : inSide a n n = true) :
    (a.toNat + n - 1) / 64 ≤ a.toNat / 64 := by
  obtain ⟨hin, halign⟩ := (Bool.and_eq_true ..).mp h
  obtain ⟨hlo, -⟩ := (Bool.and_eq_true ..).mp hin
  have hlo := of_decide_eq_true hlo
  have halign := of_decide_eq_true halign
  simp only [List.mem_cons, List.not_mem_nil, or_false] at hn
  rcases hn with rfl | rfl | rfl | rfl | rfl
  all_goals omega

theorem bytes_mem_sizes (t : Ty) : Ty.width t / 8 ∈ [0, 1, 2, 4, 8] := by cases t <;> decide

theorem length_bytesOf (n w : Nat) : (bytesOf n w).length = n := by
  induction n generalizing w with
  | zero => rfl
  | succ n ih => rw [bytesOf, List.length_cons, ih]

section
variable {ss : List (Nat × List Byte)}

theorem completesStores_sst {f : MForm} (h : storesOf s v (.sst f) = some ss) (hi : issues (.sst f) s id v = true) :
    CompletesStores (.sst f) s id v ss (exec (.sst f) s) := by
  obtain ⟨-, hv, -, -⟩ := issues_iff.mp hi
  obtain ⟨hin, hguard⟩ := Option.ite_none_right_eq_some.mp h
  obtain ⟨rfl, hfree⟩ := unprotected_of_guarded hguard
  have hgranule := granule_of_inSide (bytes_mem_sizes f.ty) hin
  rw [← length_bytesOf (Ty.width f.ty / 8) (v.regs.getX f.d).toNat] at hgranule
  have hbanks := sameButTime_takeBanks s v (scratchAddress v f 32).toNat (Ty.width f.ty / 8)
  obtain ⟨t, ht, hst⟩ := store_of_granule (id := id) hgranule (hfree _ (List.mem_singleton_self _))
    (s.takeBanks v (scratchAddress v f 32).toNat (Ty.width f.ty / 8)).1
  rw [exec_sst, execSst]
  refine issue_completesStores (latency := 1) hi ?_ (sameButScratch_of_sameButTime hbanks) (by rw [hbanks.1]) ?_ hst
  · rw [bytesOf_eq_bytesOfWord] at ht
    dsimp only
    rw [mAddr_eq_scratchAddress, scratchAt_of_inSide hin]
    dsimp only
    rw [ht]
  · rw [hbanks.1]
    exact hv

/-- An address at a multiple of 4 in the side. -/
theorem toNat_mod_four_of_inSide {a : Int} {n : Nat} (h : inSide a n 4 = true) : a.toNat % 4 = 0 := by
  obtain ⟨hside, halign⟩ := (Bool.and_eq_true ..).mp h
  have hlo := of_decide_eq_true ((Bool.and_eq_true ..).mp hside).1
  have halign := of_decide_eq_true halign
  omega

/-- Stores of lanes to aligned addresses one after another. -/
theorem Stored.lanes {α : Type} {l : List α} {at_ : α → Nat} {x : α → Lane} (ha : ∀ y ∈ l, at_ y % 4 = 0)
    (hp : ∀ p ∈ l.map fun y => (at_ y, bytesOf 4 (x y).toNat), v.isProtected (p.1 / 64) = false) (s : State) :
    Stored id v (l.map fun y => (at_ y, bytesOf 4 (x y).toNat)) s
      (l.foldl (fun s y => match s.store id v (at_ y) (bytesOfWord 4 (x y).toNat) with | .ok s => s | .error _ => s) s) := by
  simp only [← bytesOf_eq_bytesOfWord]
  refine .stores (fun y hy => ⟨?_, hp _ (List.mem_map_of_mem hy)⟩) s
  have := ha y hy
  rw [length_bytesOf]
  omega

theorem completesStores_vst {f : MForm} (h : storesOf s v (.vst f) = some ss) (hi : issues (.vst f) s id v = true) :
    CompletesStores (.vst f) s id v ss (exec (.vst f) s) := by
  obtain ⟨-, hv, -, -⟩ := issues_iff.mp hi
  obtain ⟨hin, hguard⟩ := Option.ite_none_right_eq_some.mp h
  obtain ⟨rfl, hfree⟩ := unprotected_of_guarded hguard
  have halign := toNat_mod_four_of_inSide hin
  have hbanks := sameButTime_takeBanks s v (scratchAddress v f 32).toNat 64
  have hst := Stored.lanes (id := id) (fun _ _ => by omega) hfree (s.takeBanks v (scratchAddress v f 32).toNat 64).1
  rw [exec_vst, execVst]
  refine issue_completesStores (latency := 1) hi ?_ (sameButScratch_of_sameButTime hbanks) (by rw [hbanks.1]) (by rw [hbanks.1]; exact hv) hst
  dsimp only
  rw [mAddr_eq_scratchAddress, scratchAt_of_inSide hin]
  simp only [selects_eq_selected]
  refine if_neg (Bool.eq_false_iff.mp (List.any_eq_false.mpr fun b hb => ?_))
  obtain ⟨j, hj, rfl⟩ := List.mem_map.mp hb
  exact Bool.eq_false_iff.mp (hfree _ (List.mem_map_of_mem hj))

theorem completesStores_vscat {f : RForm} (h : storesOf s v (.vscat f) = some ss) (hi : issues (.vscat f) s id v = true) :
    CompletesStores (.vscat f) s id v ss (exec (.vscat f) s) := by
  obtain ⟨-, hv, -, -⟩ := issues_iff.mp hi
  obtain ⟨hin, hguard⟩ := Option.ite_none_right_eq_some.mp h
  obtain ⟨rfl, hfree⟩ := unprotected_of_guarded hguard
  have hin := List.all_eq_true.mp hin
  have hst := Stored.lanes (id := id) (fun j hj => toNat_mod_four_of_inSide (hin j hj)) hfree s
  rw [exec_vscat, execVscat]
  refine issue_completesStores (latency := ?_) hi ?_ (sameButScratch_refl id s) rfl hv hst
  swap
  · dsimp only
    simp only [selects_eq_selected]
    rw [laneAddrs_of_inSide hin]
    dsimp only
    rw [List.foldl_map]
    refine if_neg (Bool.eq_false_iff.mp (List.any_eq_false.mpr fun p hp => ?_))
    obtain ⟨j, hj, rfl⟩ := List.mem_map.mp hp
    exact Bool.eq_false_iff.mp (hfree _ (List.mem_map_of_mem hj))

/-! ## `ratom` (11 R238) -/

/-- An M word holds its offset in its low bits. -/
theorem word_mod_off (p : Nat) (f : MForm) : Form.word p (.m f) % 2 ^ 32 = f.off := by
  have h := congrArg (fun g => g.off.val) (MForm.ofWord_word p f)
  rwa [MForm.ofWord, val_fin_bits (by norm_num), bits_low] at h

/-- The operation of an M word with one, in the upper bits of its offset. -/
theorem bits_word_op (p : Nat) (f : MForm) : bits (Form.word p (.m f)) 31 29 = f.off / 2 ^ 29 := by
  have h := word_mod_off p f
  unfold bits
  omega

/-- A legal M form names a type that its row lists (06 R133). -/
theorem type_of_legal_m {p : Nat} {f : MForm} (hp : i.parts = some (p, .m f)) (h : legal i = true)
    (hts : (rowOf p (Form.word p (.m f))).types.isEmpty = false) : f.ty ∈ (rowOf p (Form.word p (.m f))).types := by
  obtain ⟨hbits, hcauses, hclean⟩ := clean_of_legal hp h
  have hty : tyOf (Form.word p (.m f)) = f.ty := congrArg MForm.ty (MForm.ofWord_word p f)
  have hcode : Ty.ofCode (bits (Form.word p (.m f)) 48 44) = some f.ty := by rw [← hclean.code_tyOf, hty, tyOfCode_code]
  by_contra hmem
  have hcause := typeNotAccepted_mem hclean.format hcode (by rwa [hbits]) (by rwa [hbits])
  rw [hcauses] at hcause
  exact List.not_mem_nil hcause

/-- A legal `ratom` works on an integer of 32 bits, or on f32 with an operation that is not bitwise (11 R238). -/
theorem type_of_legal_ratom {f : MForm} (h : legal (.ratom f) = true) :
    f.ty = .i32 ∨ f.ty = .n32 ∨ (f.ty = .f32 ∧ f.off.val / 2 ^ 29 ≤ 3) := by
  have hop : f.off.val / 2 ^ 29 ≤ 5 := by
    simpa [badFunction, bits_word_op] using badFunction_of_legal (p := 0xA8) (f := .m f) rfl h
  have hrow : (rowOf 0xA8 (Form.word 0xA8 (.m f))).types =
      if f.off.val / 2 ^ 29 = 4 ∨ f.off.val / 2 ^ 29 = 5 then [.i32, .n32] else [.i32, .n32, .f32] := by
    rw [← bits_word_op 0xA8 f]
    rfl
  have hty := type_of_legal_m (p := 0xA8) rfl h (by rw [hrow]; split <;> rfl)
  rw [hrow] at hty
  split at hty
  next =>
    have hty : f.ty = .i32 ∨ f.ty = .n32 := by simpa using hty
    exact hty.imp_right .inl
  next hbit =>
    have hty : f.ty = .i32 ∨ f.ty = .n32 ∨ f.ty = .f32 := by simpa using hty
    exact hty.imp_right fun h => h.imp_right fun h => ⟨h, by omega⟩

/-- On an integer of 32 bits the model's operations of `ratom` are those of the statement. -/
theorem ratomNew_of_integer {t : Ty} (ht : t = .i32 ∨ t = .n32) (op old x : Nat) : ratomNew t op old x = ratomResult t op old x := by
  have hwidth : Ty.width t ≤ 32 := by rcases ht with rfl | rfl <;> decide
  have hint : t ≠ .f32 := by rcases ht with rfl | rfl <;> decide
  have harith (ff : Fp → Fp → Fp) (fi : Int → Int → Int) :
      writeInt t 32 (fi (readInt t old) (readInt t x)) % 2 ^ 32 = arith t ff fi old x := by
    rw [arith, if_neg hint, writeInt_eq_laneWord hwidth, readInt_eq_wrap, readInt_eq_wrap]
    exact Nat.mod_eq_of_lt (BitVec.isLt _)
  unfold ratomNew
  rw [if_neg hint]
  rcases op with _ | _ | _ | _ | _ | op
  · exact harith Fp.add (· + ·)
  · exact harith Fp.min min
  · exact harith Fp.max max
  all_goals rfl

theorem ratomNew_of_float {op : Nat} (hop : op ≤ 3) (old x : Nat) : ratomNew .f32 op old x = ratomResult .f32 op old x := by
  have harith (ff : Fp → Fp → Fp) (fi : Int → Int → Int) : f32Bits (ff (f32 old) (f32 x)) = arith .f32 ff fi old x := (if_pos rfl).symm
  unfold ratomNew
  rw [if_pos rfl]
  interval_cases op
  · exact harith Fp.add (· + ·)
  · exact harith Fp.min min
  · exact harith Fp.max max
  · rfl

theorem extendTo_eq_widened (t : Ty) (w : Nat) :
    extendTo t w = if Ty.isFloat t then BitVec.ofNat 64 w else widened t w := by
  rw [extendTo, readInt_eq_wrap, widened]

/-- The new word of a legal `ratom`, and the old value as it is returned. -/
theorem ratom_of_legal {f : MForm} (h : legal (.ratom f) = true) (old x : Nat) :
    ratomNew f.ty (f.off.val / 2 ^ 29) old x = ratomResult f.ty (f.off.val / 2 ^ 29) old x ∧
      extendTo f.ty old = if f.ty = .f32 then BitVec.ofNat 64 old else widened f.ty old := by
  rcases type_of_legal_ratom h with hty | hty | ⟨hty, hop⟩
  · exact ⟨ratomNew_of_integer (.inl hty) _ _ _, by rw [hty, extendTo_eq_widened, if_neg (by decide), if_neg (by decide)]⟩
  · exact ⟨ratomNew_of_integer (.inr hty) _ _ _, by rw [hty, extendTo_eq_widened, if_neg (by decide), if_neg (by decide)]⟩
  · exact ⟨hty ▸ ratomNew_of_float hop _ _, by rw [hty, extendTo_eq_widened, if_pos (by decide), if_pos rfl]⟩

theorem completesStores_ratom {f : MForm} (h : storesOf s v (.ratom f) = some ss) (hl : legal (.ratom f) = true)
    (hi : issues (.ratom f) s id v = true) : CompletesStores (.ratom f) s id v ss (exec (.ratom f) s) := by
  obtain ⟨-, hv, -, -⟩ := issues_iff.mp hi
  obtain ⟨hread, hguard⟩ := Option.ite_none_right_eq_some.mp h
  obtain ⟨rfl, hfree⟩ := unprotected_of_guarded hguard
  obtain ⟨hin, hpoison⟩ := (Bool.and_eq_true ..).mp hread
  set a := scratchAddress v f 29 with ha
  set old := number (s.sideBytes v v.place.cell a.toNat 4) with hold
  obtain ⟨hnew, hreturned⟩ := ratom_of_legal hl old (low32 (v.regs.getX f.d))
  have hgranule := granule_of_inSide (n := 4) (by decide) hin
  rw [← length_bytesOf 4 (ratomResult f.ty (f.off.val / 2 ^ 29) old (low32 (v.regs.getX f.d)))] at hgranule
  have hbanks := sameButTime_takeBanks s v a.toNat 4
  obtain ⟨t, ht, hst⟩ := store_of_granule (id := id) hgranule (hfree _ (List.mem_singleton_self _))
    ((s.takeBanks v a.toNat 4).1.setInst id { v with regs := afterStore s v (.ratom f) })
  rw [exec_ratom, execRatom]
  refine issue_completesStores (latency := 5 + (s.takeBanks v a.toNat 4).2) hi ?_
    (sameButScratch_trans (sameButScratch_of_sameButTime hbanks) (sameButScratch_setInst id _ _)) ?_ (State.setInst_inst? ..) hst
  · have haddr : baseOffset (v.regs.getX f.a) 29 (f.off % 2 ^ 29) = a := by
      rw [baseOffset, signed_eq_bmod_two_pow (by decide)]
      rfl
    rw [bytesOf_eq_bytesOfWord, ← hnew, afterStore, ← ha, ← hold, ← hreturned, hold, number_eq_wordOfBytes] at ht
    dsimp only
    rw [haddr, scratchAt_of_inSide hin]
    refine (if_neg (Bool.eq_false_iff.mp ((Bool.not_eq_true' _).mp hpoison))).trans ?_
    unfold low32 at ht
    rw [ht]
  · rw [State.setInst_scr, hbanks.1]

end

/-- Settles O14: each form stores its bytes one after another, none of them to a protected granule. -/
theorem scratchStores : Obligations.ScratchStores := by
  unfold Obligations.ScratchStores
  intro i ss s id v h hl hi
  cases i with
  | vst f => exact completesStores_vst h hi
  | sst f => exact completesStores_sst h hi
  | vscat f => exact completesStores_vscat h hi
  | ratom f => exact completesStores_ratom h hl hi
  | _ => cases h

end Sys2Proof.Machine
end

section
/-!
What follows an access to far memory: the accesses that wait behind it are looked at again (11 R251, R253, R257). Copies and tensor sends as
they issue (O31).
-/

set_option Elab.async false

namespace Sys2Proof.Machine

open Sys2Proof.Claims

variable {i : Instr} {s t u : State} {id : Nat} {v w : Inst}

/-! ## Steps that reach far accesses in flight, launches and the agenda alone -/

/-- `t` is `s` but for the start of its far writes and far reads, its launches, and events that are new on its agenda. -/
def FlightOnly (s t : State) : Prop :=
  (∃ ws rs ls a, t = { s with farWrites := ws, farReads := rs, launches := ls, agenda := a }) ∧ s.agenda ⊆ t.agenda

theorem FlightOnly.refl (s : State) : FlightOnly s s := ⟨⟨_, _, _, _, rfl⟩, List.Subset.refl _⟩

theorem FlightOnly.trans (h₁ : FlightOnly s t) (h₂ : FlightOnly t u) : FlightOnly s u := by
  obtain ⟨⟨_, _, _, _, rfl⟩, hsub⟩ := h₁
  obtain ⟨⟨_, _, _, _, rfl⟩, hsub'⟩ := h₂
  exact ⟨⟨_, _, _, _, rfl⟩, List.Subset.trans hsub hsub'⟩

/-- What such a step leaves as it was. -/
theorem FlightOnly.frame (h : FlightOnly s t) :
    t.mem = s.mem ∧ t.scr = s.scr ∧ t.ctxs = s.ctxs ∧ t.insts = s.insts ∧ t.commands = s.commands ∧ t.clk = s.clk := by
  obtain ⟨⟨_, _, _, _, rfl⟩, -⟩ := h
  exact ⟨rfl, rfl, rfl, rfl, rfl, rfl⟩

theorem FlightOnly.scheduled (h : FlightOnly s t) {a : Nat} {e : Instr} (he : scheduled s a e) : scheduled t a e := by
  obtain ⟨x, hx, hat⟩ := he
  exact ⟨x, h.2 hx, hat⟩

theorem FlightOnly.foldl {α : Type} (h : FlightOnly s t) {l : List α} {f : State → α → State} (hf : ∀ u a, FlightOnly u (f u a)) :
    FlightOnly s (l.foldl f t) := by
  induction l generalizing t with
  | nil => exact h
  | cons a l ih => exact ih (h.trans (hf _ _))

theorem FlightOnly.schedule (h : FlightOnly s t) {a : Nat} {e : Instr} : FlightOnly s (t.schedule a e) :=
  h.trans ⟨⟨_, _, _, _, rfl⟩, fun _ hx => mem_insertTimed.mpr (.inr hx)⟩

theorem FlightOnly.withWrites (h : FlightOnly s t) {ws : Assoc FarWrite} : FlightOnly s { t with farWrites := ws } :=
  h.trans ⟨⟨_, _, _, _, rfl⟩, List.Subset.refl _⟩

theorem FlightOnly.withReads (h : FlightOnly s t) {rs : Assoc FarRead} : FlightOnly s { t with farReads := rs } :=
  h.trans ⟨⟨_, _, _, _, rfl⟩, List.Subset.refl _⟩

theorem FlightOnly.modLaunch (h : FlightOnly s t) {l : Nat} {f : Launch → Launch} : FlightOnly s (t.modLaunch l f) := by
  refine h.trans ?_
  unfold State.modLaunch
  split
  · exact ⟨⟨_, _, _, _, rfl⟩, List.Subset.refl _⟩
  · exact .refl t

theorem FlightOnly.either {c : Prop} [Decidable c] {a b : State} (ha : FlightOnly s a) (hb : FlightOnly s b) : FlightOnly s (if c then a else b) := by
  split
  · exact ha
  · exact hb

theorem FlightOnly.wakeFar (h : FlightOnly s t) : FlightOnly s t.wakeFar := by
  refine h.trans ?_
  unfold State.wakeFar
  extract_lets s₁ s₂ s₃
  have h₁ : FlightOnly t s₁ := (FlightOnly.refl t).foldl fun u w => by
    have hu : FlightOnly u { u with farWrites := putA u.farWrites w.1 { w.2 with scheduled := true } } := (FlightOnly.refl u).withWrites
    split
    · exact .refl u
    · split
      · exact hu.schedule
      · exact hu.schedule
  have h₂ : FlightOnly t s₂ := h₁.foldl fun u r => .either (.refl u) (FlightOnly.withReads (.refl u)).schedule
  have h₃ : FlightOnly t s₃ := h₂.foldl fun u k => .either (.refl u) (FlightOnly.refl u).schedule
  exact h₃.foldl fun u x => (FlightOnly.refl u).foldl fun u p => by
    split
    · exact (FlightOnly.refl u).schedule
    · exact .refl u

theorem FlightOnly.retrySetups (h : FlightOnly s t) {c : Nat} : FlightOnly s (t.retrySetups c) := h.foldl fun u _ => (FlightOnly.refl u).schedule

theorem FlightOnly.nudge (h : FlightOnly s t) {slot : Nat} : FlightOnly s (t.nudge slot) := by
  unfold State.nudge
  split
  · exact h.schedule
  · exact h

theorem FlightOnly.finishFar (h : FlightOnly s t) {l : Nat} : FlightOnly s (t.finishFar l) := h.modLaunch.schedule

/-- A command that is dropped leaves the list of commands. -/
theorem dropCommand_flight (s : State) (id : Nat) (k : Command) :
    FlightOnly { s with commands := delA s.commands id } (s.dropCommand id k) := by
  unfold State.dropCommand
  extract_lets s₁
  have h₁ : FlightOnly { s with commands := delA s.commands id } s₁ := (FlightOnly.refl _).schedule.wakeFar
  exact (FlightOnly.either h₁.retrySetups h₁).nudge

/-! ## After a descriptor (11 R247) -/

/-- A form that goes on 5 clk after it has read its descriptor, its effect having left the instance as `w`. -/
theorem issue_afterDescriptor {eff : State → Nat → Inst → Done} (hi : issues i s id v = true) (he : eff s id v = afterDescriptor i id v t)
    (hw : t.inst? id = some w) : issue i eff s = .next (t.setInst id (afterRead i t.clk w)) := by
  rw [issue_eq hi, he]
  simp only [afterDescriptor, Done.outcome, settle, State.modInst_of_some hw, State.modInst_setInst]
  rfl

/-- The command of a copy with a ring destination, as the engine's queue takes it at issue (11 R251). -/
def ringCommand (s : State) (id : Nat) (v : Inst) (red : Bool) (d : Desc) : Command :=
  { ctx := v.place.ctx, launch := v.place.launch, seg := v.place.seg, opnum := v.place.opnum, openSeat := s.openSeatOf v.place.seg, inst := id,
    cell := v.place.cell, quarter := (s.engineOf v.place.slot v.place.cell).1, engine := (s.engineOf v.place.slot v.place.cell).2, red,
    desc := d, ranges := s.rangesOf v.place.launch, stream := v.stream,
    after := if v.stream = 0 then []
      else ((s.farReads.filter fun r => r.2.inst = id && r.2.stream = v.stream && r.2.value.isNone).map (·.1)) ++
        (s.commands.filter fun k => k.2.inst = id && k.2.stream = v.stream).map (·.1)
    released := false, send := false, readyAt := s.clk + 25, running := false, sourceRead := false, data := [], poisoned := false,
    short := false, filled := 0, cancelled := false }

theorem commandOf_ringCommand (s : State) (id : Nat) (v : Inst) (red : Bool) (d : Desc) : commandOf s id v red d (ringCommand s id v red d) :=
  ⟨rfl, rfl, rfl, rfl, rfl, rfl, rfl, rfl, rfl, rfl, rfl, rfl, rfl, rfl⟩

section
variable {f : MForm} {red : Bool} {d : Desc}

/-- A copy whose destination is a ring enters its engine's queue. -/
theorem issue_copy_to_ring (hi : issues i s id v = true) (hd : s.descriptor v f red = .ok d) (hring : d.ringDest = true)
    (hroom : (s.queued (s.engineOf v.place.slot v.place.cell).1 (s.engineOf v.place.slot v.place.cell).2).length < 64) :
    ∃ (t : State) (k : Command), issue i (copyEffect i red f) s = .next t ∧ t.inst? id = some (afterRead i s.clk (ticked v)) ∧
      lookupA t.commands (s.ids + 1) = some k ∧ commandOf s id v red d k ∧ t.mem = s.mem ∧ t.scr = s.scr := by
  obtain ⟨-, hv, -, -⟩ := issues_iff.mp hi
  have hq : (s.enqueue (ringCommand s id v red d)).2.inst? id = some v := hv
  refine ⟨_, ringCommand s id v red d, issue_afterDescriptor
    (t := (((s.enqueue (ringCommand s id v red d)).2).setInst id (ticked v)).count v.place.ctx v.place.cell 7 1) hi ?_ (State.setInst_inst? ..),
    State.setInst_inst? .., lookupA_putA_self .., commandOf_ringCommand s id v red d, rfl, rfl⟩
  unfold copyEffect
  rw [hd]
  dsimp only
  rw [if_pos hring, if_neg (Nat.not_le.mpr hroom), ← State.modInst_of_some hq]
  rfl

/-- A copy whose destination is far memory or a peer is staged. -/
theorem issue_copy_staged (hi : issues i s id v = true) (hd : s.descriptor v f red = .ok d) (hring : ¬d.ringDest = true)
    (htakes : stageTakes v (.copy red d v.stream) = true) :
    ∃ t : State, issue i (copyEffect i red f) s = .next t ∧
      t.inst? id = some (afterRead i s.clk (ticked (withFar v (.copy red d v.stream)))) ∧ t.commands = s.commands ∧ t.mem = s.mem ∧ t.scr = s.scr := by
  obtain ⟨-, hv, -, -⟩ := issues_iff.mp hi
  refine ⟨_, issue_afterDescriptor
    (t := (s.setInst id (ticked (withFar v (.copy red d v.stream)))).count v.place.ctx v.place.cell 7 1) hi ?_ (State.setInst_inst? ..),
    State.setInst_inst? .., rfl, rfl, rfl⟩
  unfold copyEffect
  rw [hd]
  dsimp only
  rw [if_neg hring, stageFar_eq hv, if_pos htakes]
  dsimp only
  rw [State.modInst_setInst]
  rfl

/-- One more of a context's places for armed sends is taken (11 R256). -/
def State.reservePlace (s : State) (c : Nat) : State := s.modCtx c fun x => { x with reserved := x.reserved + 1 }

theorem reserved_reservePlace (s : State) (c : Nat) : ((s.reservePlace c).ctx c).reserved = (s.ctx c).reserved + 1 :=
  congrArg Ctx.reserved (ctx_modCtx_self s c _)

/-- A tensor send takes a place and is staged. -/
theorem exec_tsend_staged (hi : issues (.tsend f) s id v = true) (hd : s.descriptor v f false = .ok d) :
    let n := (v.regs.getX f.d).toNat
    let e : StagedFar := .tsend (n % 64) (n / 2 ^ 32) d v.stream
    n / 64 % 2 ^ 26 = 0 → (contextOf s v).reserved < 256 → stageTakes v e = true →
    ∃ t : State, exec (.tsend f) s = .next t ∧ t.inst? id = some (afterRead (.tsend f) s.clk (ticked (withFar v e))) ∧
      (contextOf t v).reserved = (contextOf s v).reserved + 1 ∧ t.mem = s.mem ∧ t.scr = s.scr := by
  intro n e hbits hroom htakes
  obtain ⟨-, hv, -, -⟩ := issues_iff.mp hi
  have hthr : bits n 63 32 = n / 2 ^ 32 := by
    have : n < 2 ^ 64 := (v.regs.getX f.d).isLt
    unfold bits
    omega
  have hzero : ¬bits n 31 6 ≠ 0 := not_not.mpr hbits
  have hlow : bits n 5 0 = n % 64 := bits_low ..
  have hfree : ¬256 ≤ (s.ctx v.place.ctx).reserved := Nat.not_le.mpr hroom
  refine ⟨_, (exec_tsend f s).trans (issue_afterDescriptor
    (t := (s.reservePlace v.place.ctx).setInst id (ticked (withFar v e))) hi ?_ (State.setInst_inst? ..)),
    State.setInst_inst? .., reserved_reservePlace .., rfl, rfl⟩
  dsimp only
  rw [hd]
  dsimp only
  rw [if_neg hzero, if_neg hfree, hthr, hlow, stageFar_eq hv, if_pos htakes]
  dsimp only
  exact congrArg (afterDescriptor (.tsend f) id v) (State.modInst_setInst (s.reservePlace v.place.ctx) id (withFar v e) Inst.tickStream)

end

/-- Settles O31: a descriptor that passes its checks is queued where its destination is a ring, and staged elsewhere. -/
theorem copiesIssued : Obligations.CopiesIssued := by
  unfold Obligations.CopiesIssued
  refine ⟨fun i f red d s id v hform _ hi hd => ?_, fun _ _ _ _ _ _ hi hd => exec_tsend_staged hi hd⟩
  have hexec : exec i s = issue i (copyEffect i red f) s := by
    rcases hform with ⟨rfl, rfl⟩ | ⟨rfl, rfl⟩
    · rfl
    · rfl
  rw [hexec]
  split
  next hring => exact issue_copy_to_ring hi hd hring
  next hring => exact issue_copy_staged hi hd hring

end Sys2Proof.Machine
end

section
/-!
Counters and the armed sends that they satisfy (11 R254, R256; 22 R370), and the writes of peers (22 R369) (O32).
-/

set_option Elab.async false

namespace Sys2Proof.Machine

open Sys2Proof.Claims

variable {s t u : State} {c k : Nat} {f : Lane → Lane}

/-! ## Steps that leave counters and armed sends -/

/-- `t` has the memory of `s`, and of every context its counters, its armed sends and how it stands. -/
structure CountersKept (s t : State) : Prop where
  mem : t.mem = s.mem
  counters : ∀ c, (t.ctx c).counters = (s.ctx c).counters
  armed : ∀ c, (t.ctx c).armed = (s.ctx c).armed
  state : ∀ c, (t.ctx c).state = (s.ctx c).state

theorem CountersKept.refl (s : State) : CountersKept s s := ⟨rfl, fun _ => rfl, fun _ => rfl, fun _ => rfl⟩

theorem CountersKept.trans (h₁ : CountersKept s t) (h₂ : CountersKept t u) : CountersKept s u where
  mem := h₂.mem.trans h₁.mem
  counters c := (h₂.counters c).trans (h₁.counters c)
  armed c := (h₂.armed c).trans (h₁.armed c)
  state c := (h₂.state c).trans (h₁.state c)

theorem CountersKept.foldl {α : Type} (h : CountersKept s t) {l : List α} {g : State → α → State} (hg : ∀ u a, CountersKept u (g u a)) :
    CountersKept s (l.foldl g t) := by
  induction l generalizing t with
  | nil => exact h
  | cons a l ih => exact ih (h.trans (hg _ _))

theorem CountersKept.of_ctxs (hmem : t.mem = s.mem) (hctxs : t.ctxs = s.ctxs) : CountersKept s t := by
  have hctx (c : Nat) : t.ctx c = s.ctx c := by rw [State.ctx, hctxs, State.ctx]
  exact ⟨hmem, fun c => congrArg _ (hctx c), fun c => congrArg _ (hctx c), fun c => congrArg _ (hctx c)⟩

/-- A change of a context that leaves counters, armed sends and how it stands. -/
theorem CountersKept.modCtx (s : State) (c : Nat) {g : Ctx → Ctx}
    (hg : ∀ x, (g x).counters = x.counters ∧ (g x).armed = x.armed ∧ (g x).state = x.state := by exact fun _ => ⟨rfl, rfl, rfl⟩) :
    CountersKept s (s.modCtx c g) := by
  have h (d : Nat) : ((s.modCtx c g).ctx d).counters = (s.ctx d).counters ∧ ((s.modCtx c g).ctx d).armed = (s.ctx d).armed ∧
      ((s.modCtx c g).ctx d).state = (s.ctx d).state := by
    rw [ctx_modCtx]
    split
    next hd => rw [hd]; exact hg _
    next => exact ⟨rfl, rfl, rfl⟩
  exact ⟨rfl, fun d => (h d).1, fun d => (h d).2.1, fun d => (h d).2.2⟩

/-- Queueing a command counts it in its context's roll call alone. -/
theorem CountersKept.enqueue (s : State) (k : Command) : CountersKept s (s.enqueue k).2 := by
  have h := CountersKept.modCtx s k.ctx (g := fun x => { x with roll := { x.roll with copies := x.roll.copies + 1 } })
  exact ⟨h.mem, h.counters, h.armed, h.state⟩

theorem CountersKept.ungate (s : State) (slot : Nat) : CountersKept s (s.ungate slot) := by
  have h : RootOnly s (s.ungate slot) := by
    unfold State.ungate
    split
    · exact (RootOnly.refl s).modPart.schedule
    · exact .refl s
  obtain ⟨hctxs, -, -, hmem, -⟩ := h.frame
  exact .of_ctxs hmem hctxs

theorem FlightOnly.countersKept (h : FlightOnly s t) : CountersKept s t := by
  obtain ⟨hmem, -, hctxs, -⟩ := h.frame
  exact .of_ctxs hmem hctxs

/-! ## Firing (11 R256) -/

/-- The armed sends of a context that its counters satisfy. -/
def readySends (x : Ctx) : List Armed := x.armed.filter fun a => a.thr ≤ (x.counter a.ctr).toNat

/-- A context whose ready sends have left their places. -/
def State.disarmReady (s : State) (c : Nat) : State :=
  s.modCtx c fun x => { x with armed := x.armed.filter fun a => !(readySends (s.ctx c)).contains a,
                               reserved := x.reserved - (readySends (s.ctx c)).length }

/-- Firing takes the ready sends from their places and queues their commands. -/
theorem fireSends_of_resident (hres : (s.ctx c).state = .resident) : CountersKept (s.disarmReady c) (s.fireSends c) := by
  unfold State.fireSends
  extract_lets x ready s₁
  rw [if_neg (not_not.mpr hres)]
  exact (CountersKept.refl s₁).foldl fun t a => .enqueue t _

/-- Firing leaves memory and counters. -/
theorem fireSends_kept (s : State) (c : Nat) : (s.fireSends c).mem = s.mem ∧ ((s.fireSends c).ctx c).counters = (s.ctx c).counters := by
  by_cases hres : (s.ctx c).state = .resident
  · have h := fireSends_of_resident hres
    have hcounters : ((s.disarmReady c).ctx c).counters = (s.ctx c).counters := by rw [State.disarmReady, ctx_modCtx_self]
    exact ⟨h.mem, (h.counters c).trans hcounters⟩
  · have h : s.fireSends c = s := if_pos hres
    rw [h]
    exact ⟨rfl, rfl⟩

/-- Of a resident context no armed send stays whose counter has reached its threshold. -/
theorem lt_of_mem_armed_fireSends (hres : (s.ctx c).state = .resident) :
    ∀ a ∈ ((s.fireSends c).ctx c).armed, ((s.ctx c).counter a.ctr).toNat < a.thr := by
  intro a ha
  have harmed : ((s.disarmReady c).ctx c).armed = (s.ctx c).armed.filter fun a => !(readySends (s.ctx c)).contains a :=
    congrArg Ctx.armed (ctx_modCtx_self s c _)
  rw [(fireSends_of_resident hres).armed c, harmed] at ha
  obtain ⟨hmem, hnot⟩ := List.mem_filter.mp ha
  by_contra hle
  have hready : a ∈ readySends (s.ctx c) := List.mem_filter.mpr ⟨hmem, decide_eq_true (Nat.not_lt.mp hle)⟩
  simp [hready] at hnot

/-- What is said of a state in which a context's counter was changed: its new value, the other counters, and the armed sends. -/
def Counted (s t : State) (c k : Nat) (n : Lane) : Prop :=
  t.mem = s.mem ∧ (∀ j, (t.ctx c).counter j = if j = k then n else (s.ctx c).counter j) ∧
    ((s.ctx c).state = .resident → ∀ a ∈ (t.ctx c).armed, ((t.ctx c).counter a.ctr).toNat < a.thr)

theorem counter_of_counters {x y : Ctx} (h : x.counters = y.counters) (j : Nat) : x.counter j = y.counter j := by
  rw [Ctx.counter, h, Ctx.counter]

theorem counted_setCounter (s : State) (c k : Nat) (f : Lane → Lane) : Counted s (s.setCounter c k f) c k (f ((s.ctx c).counter k)) := by
  unfold State.setCounter
  generalize hr : s.modCtx c (fun x => { x with counters := setD 0#32 x.counters k (f (x.counter k)) }) = r
  have hctx : r.ctx c = { s.ctx c with counters := setD 0#32 (s.ctx c).counters k (f ((s.ctx c).counter k)) } := by
    rw [← hr, ctx_modCtx_self]
  have hu := CountersKept.ungate r (s.ctx c).slot
  obtain ⟨hmem, hcounters⟩ := fireSends_kept (r.ungate (s.ctx c).slot) c
  refine ⟨hmem.trans (hu.mem.trans (by rw [← hr]; rfl)), fun j => ?_, fun hres a ha => ?_⟩
  · rw [counter_of_counters (hcounters.trans (hu.counters c)), hctx]
    exact getD_setD ..
  · rw [counter_of_counters hcounters]
    refine lt_of_mem_armed_fireSends ?_ a ha
    rw [hu.state, hctx]
    exact hres

theorem Counted.kept {n : Lane} (h : Counted s t c k n) (ht : CountersKept t u) : Counted s u c k n := by
  obtain ⟨hmem, hcounter, harmed⟩ := h
  refine ⟨ht.mem.trans hmem, fun j => ?_, fun hres a ha => ?_⟩
  · rw [counter_of_counters (ht.counters c), hcounter]
  · rw [counter_of_counters (ht.counters c)]
    exact harmed hres a (ht.armed c ▸ ha)

theorem exec_counterUpdateApplied_counted (s : State) (c k : Nat) (set : Bool) (w : Lane) :
    ∃ t : State, exec (.counterUpdateApplied c k set w) s = .next t ∧ Counted s t c k (if set then w else (s.ctx c).counter k + w) := by
  rw [exec_counterUpdateApplied, execCounterUpdateApplied]
  have h := counted_setCounter s c k fun x => if set then w else x + w
  split
  next n x _ => exact ⟨_, rfl, h.kept (FlightOnly.countersKept (FlightOnly.wakeFar (FlightOnly.finishFar (.withWrites (.refl _)))))⟩
  next => exact ⟨_, rfl, h⟩

/-! ## The writes of peers (22 R369) -/

theorem exec_peerWriteArrival_of_window {w : PeerWrite} (hdev : w.device = s.dev.number) (htag : s.ctxOfTag w.fabric = some c)
    (hentry : w.entry < 8) (hred : w.red = none) :
    let base := ((s.ctx c).blockWord (10 + w.entry)) % 2 ^ 48
    let size := ((s.ctx c).blockWord (10 + w.entry)) / 2 ^ 48 % 2 ^ 16 * 65536
    let n := min w.bytes.length (size - w.offset)
    0 < n → farExists (base + w.offset) n = true →
    ∃ t : State, exec (.peerWriteArrival w) s = .next t ∧ performed s t (base + w.offset) (w.bytes.take n) ∧
      ∀ k, w.counter = some k → n = w.bytes.length → scheduled t (s.clk + 40) (.counterIncrement c k) := by
  intro base size n hn hex
  rw [exec_peerWriteArrival, execPeerWriteArrival]
  dsimp only
  generalize hwake : (if s.dev.power = .retention then ({ s with dev := { s.dev with power := .active } } : State) else s) = s₁
  have hs₁ : s₁.ctxs = s.ctxs ∧ s₁.mem = s.mem ∧ s₁.clk = s.clk ∧ s₁.dev.number = s.dev.number := by
    rw [← hwake]
    split
    · exact ⟨rfl, rfl, rfl, rfl⟩
    · exact ⟨rfl, rfl, rfl, rfl⟩
  obtain ⟨hctxs, hmem, hclk, hnumber⟩ := hs₁
  have htag : s₁.ctxOfTag w.fabric = some c := by rw [State.ctxOfTag, hctxs]; exact htag
  have hwin : (s₁.ctx c).window w.entry = (base, size) := by rw [State.ctx, hctxs]; rfl
  rw [if_neg (not_not.mpr (hdev.trans hnumber.symm)), htag]
  dsimp only
  rw [hwin, hred]
  dsimp only
  have hopen : ¬(8 ≤ w.entry ∨ size = 0 ∨ n = 0) := by omega
  rw [if_neg hopen, if_neg (by simpa using hex)]
  have hperf : performed s (s₁.pokeFar (base + w.offset) (w.bytes.take n)) (base + w.offset) (w.bytes.take n) :=
    performed_of_mem (congrArg (fun m => writeBytes m _ _) hmem)
  split
  next k hk =>
    split
    next hall =>
      refine ⟨_, rfl, hperf, fun j hj _ => ?_⟩
      obtain rfl : k = j := Option.some.inj (hk.symm.trans hj)
      rw [← hclk]
      exact scheduled_schedule ..
    next hpart => exact ⟨_, rfl, hperf, fun _ _ hall => absurd hall hpart⟩
  next hk => exact ⟨_, rfl, hperf, fun j hj => absurd (hk.symm.trans hj) nofun⟩

/-- Settles O32: a counter is changed, then the sends that it satisfies fire; a peer's write is performed where the window has it. -/
theorem counters : Obligations.Counters := by
  unfold Obligations.Counters
  refine ⟨fun c k s => ⟨_, rfl, counted_setCounter s c k (· + 1#32)⟩, fun c k set w s => exec_counterUpdateApplied_counted s c k set w,
    fun w c s hdev htag hentry hred => exec_peerWriteArrival_of_window hdev htag hentry hred⟩

end Sys2Proof.Machine
end

section
/-!
The copy engines (11 R249 to R251): the start of a command, the end of its source, an entry of a ring, and completion (O33).
-/

set_option Elab.async false

namespace Sys2Proof.Machine

open Sys2Proof.Claims

variable {s t u : State} {id : Nat} {k : Command}

theorem FlightOnly.lookup_commands (h : FlightOnly s t) (id : Nat) : lookupA t.commands id = lookupA s.commands id := by
  obtain ⟨-, -, -, -, hcommands, -⟩ := h.frame
  rw [hcommands]

/-! ## The start of a command (11 R251) -/

/-- What the start of a command schedules: the end of its source, the first entry of its ring, and the start of the next command. -/
theorem scheduleReads_flight (s : State) (id a b c : Nat) (next : Instr) :
    let r := s.schedule a (.copySourceRead id)
    let t := (if k.desc.ringDest = true then r.schedule b (.ringFillEntry id) else r).schedule c next
    FlightOnly s t ∧ scheduled t a (.copySourceRead id) := by
  intro r t
  have ht : FlightOnly r t := (FlightOnly.either (FlightOnly.refl r).schedule (.refl r)).schedule
  exact ⟨(FlightOnly.refl s).schedule.trans ht, ht.scheduled (scheduled_schedule ..)⟩

theorem exec_copyStart_of_ready {q e : Nat} {rest : Assoc Command} (hq : s.queued q e = (id, k) :: rest) (hc : k.cancelled = false)
    (hrun : (s.commands.filter fun j => j.2.quarter = q && j.2.engine = e && j.2.running).length < 4) (hready : k.readyAt ≤ s.clk)
    (hdone : s.allDone k.after = true) :
    ∃ t : State, exec (.copyStart q e) s = .next t ∧ lookupA t.commands id = some { k with running := true } ∧ t.mem = s.mem ∧ t.scr = s.scr ∧
      scheduled t (s.clk + s.sourceTime k + if endKind k.desc.src.endpoint = 2 then 0 else (k.desc.src.total + 63) / 64 - 1)
        (.copySourceRead id) := by
  rw [exec_copyStart, execCopyStart, hq]
  dsimp only
  have hgo : ¬(4 ≤ (s.commands.filter fun j => j.2.quarter = q && j.2.engine = e && j.2.running).length ∨ s.clk < k.readyAt ∨
      (!s.allDone k.after) = true) := by
    rw [hdone]
    simp only [Bool.not_true, Bool.false_eq_true, or_false]
    omega
  rw [if_neg (Bool.eq_false_iff.mp hc), if_neg hgo]
  have hflight := scheduleReads_flight (k := k)
  refine ⟨_, rfl, ((hflight ..).1.lookup_commands id).trans (lookupA_putA_self ..), (hflight ..).1.frame.1, (hflight ..).1.frame.2.1, (hflight ..).2⟩

/-! ## The end of the source (11 R243, R248) -/

theorem sourceDone_frame (s : State) (id : Nat) (k : Command) :
    lookupA (s.sourceDone id k).commands id = some { k with sourceRead := true } ∧ (s.sourceDone id k).mem = s.mem ∧
      (s.sourceDone id k).scr = s.scr := by
  unfold State.sourceDone
  dsimp only
  split
  · exact ⟨lookupA_putA_self .., rfl, rfl⟩
  · split
    · exact ⟨lookupA_putA_self .., rfl, rfl⟩
    · exact ⟨lookupA_putA_self .., rfl, rfl⟩

/-- The bytes of the issuing cell's scratch that a stream names, run by run (R248). -/
theorem exec_copySourceRead_of_scratch (hk : lookupA s.commands id = some k) (hc : k.cancelled = false)
    (hend : endKind k.desc.src.endpoint = 3) :
    let base : Nat := k.desc.src.endpoint.toNat % 2 ^ 16
    let data := (runOffsets k.desc.src.dims).flatMap fun o => readBytes s.scr (s.scrAddr k.ctx k.cell ((base : Int) + o).toNat) k.desc.src.run
    ∃ (t : State) (k' : Command), exec (.copySourceRead id) s = .next t ∧ lookupA t.commands id = some k' ∧ k'.data = data ∧
      k'.sourceRead = true ∧ k'.desc = k.desc ∧ t.mem = s.mem ∧ t.scr = s.scr := by
  intro base data
  have hbytes : ∃ bad, s.sourceBytes k = .ok (data, bad, false) := by
    unfold State.sourceBytes
    dsimp only
    rw [hend, if_pos rfl, bits_low]
    exact ⟨_, rfl⟩
  obtain ⟨bad, hbytes⟩ := hbytes
  rw [exec_copySourceRead, execCopySourceRead, hk]
  dsimp only
  rw [if_neg (Bool.eq_false_iff.mp hc), hend, if_neg (by decide), hbytes, if_neg (by decide)]
  obtain ⟨hlookup, hmem, hscr⟩ := sourceDone_frame s id { k with data := data, poisoned := bad, short := false }
  have hw := (FlightOnly.refl (s.sourceDone id { k with data := data, poisoned := bad, short := false })).wakeFar
  obtain ⟨hmem', hscr', -⟩ := hw.frame
  exact ⟨_, _, rfl, (hw.lookup_commands id).trans hlookup, rfl, rfl, rfl, hmem'.trans hmem, hscr'.trans hscr⟩

/-! ## Entries of a destination ring (11 R243) -/

/-- Noting a write on the headers of a cell leaves scratch. -/
theorem scr_touchCell (s : State) (c cell lo hi : Nat) (p : Producer) : (s.touchCell c cell lo hi p).scr = s.scr := by
  unfold State.touchCell
  generalize (s.cell c cell).hdrs = hs
  induction hs generalizing s with
  | nil => rfl
  | cons a hs ih =>
    rw [List.foldl_cons, ih]
    dsimp only
    split
    · rfl
    · rfl

/-- The state in which the entry at a ring's tail holds the bytes `bs`. -/
def State.fillEntry (s : State) (c : Nat) (e : Word) (r : Ring) (bs : List Byte) : State :=
  let cell := bits e.toNat 28 16
  let a := (r.base + r.tail * r.size) * 64
  ((s.pokeSide c cell a bs).touchCell c cell (a / 64) (a / 64 + r.size - 1) (s.unlogged c)).modCell c cell fun x =>
    { x with rings := putA x.rings (bits e.toNat 3 0) { r with tail := (r.tail + 1) % r.entries, filled := r.filled + 1 } }

section
variable {c : Nat} {e : Word} {r : Ring} {bs : List Byte}

theorem ringAt_fillEntry :
    (s.fillEntry c e r bs).ringAt c e = some { r with tail := (r.tail + 1) % r.entries, filled := r.filled + 1 } := by
  unfold State.ringAt State.fillEntry
  rw [cell_modCell, if_pos rfl]
  exact lookupA_putA_self ..

theorem readByte_fillEntry (a : Nat) :
    readByte (s.fillEntry c e r bs).scr a =
      written [(s.scrAddr c (bits e.toNat 28 16) ((r.base + r.tail * r.size) * 64), bs)] a (readByte s.scr a) := by
  have hscr : (s.fillEntry c e r bs).scr = writeBytes s.scr (s.scrAddr c (bits e.toNat 28 16) ((r.base + r.tail * r.size) * 64)) bs :=
    scr_touchCell ..
  rw [hscr, readByte_writeBytes]
  rfl

end

theorem exec_ringFillEntry_of_room {r : Ring} (hk : lookupA s.commands id = some k) (hc : k.cancelled = false)
    (hr : s.ringAt k.ctx k.desc.dst.endpoint = some r) (hroom : r.filled ≠ r.entries) (hrun : k.desc.dst.run % (64 * r.size) = 0)
    (hread : k.sourceRead = true) (hdata : k.filled + 64 * r.size ≤ k.data.length) (hp : k.poisoned = false) :
    let cell := k.desc.dst.endpoint.toNat / 2 ^ 16 % 2 ^ 13
    ∃ t : State, exec (.ringFillEntry id) s = .next t ∧
      t.ringAt k.ctx k.desc.dst.endpoint = some { r with tail := (r.tail + 1) % r.entries, filled := r.filled + 1 } ∧
      ∀ a, readByte t.scr a = written [(s.scrAddr k.ctx cell ((r.base + r.tail * r.size) * 64), (k.data.drop k.filled).take (64 * r.size))] a
        (readByte s.scr a) := by
  intro cell
  have hlen : ¬k.data.length < k.filled + 64 * r.size := Nat.not_lt.mpr hdata
  have hring := ringAt_fillEntry (s := s) (c := k.ctx) (e := k.desc.dst.endpoint) (r := r) (bs := (k.data.drop k.filled).take (64 * r.size))
  have hbytes := readByte_fillEntry (s := s) (c := k.ctx) (e := k.desc.dst.endpoint) (r := r) (bs := (k.data.drop k.filled).take (64 * r.size))
  rw [exec_ringFillEntry, execRingFillEntry, hk]
  dsimp only
  rw [if_neg (Bool.eq_false_iff.mp hc), hr]
  dsimp only
  rw [if_neg (not_not.mpr hrun), if_neg hroom, hread, Bool.true_or, if_pos rfl]
  dsimp only
  rw [if_neg (by simp [hlen]), if_neg hlen, hp, if_neg Bool.false_ne_true]
  split
  · exact ⟨_, rfl, hring, hbytes⟩
  · exact ⟨_, rfl, hring, hbytes⟩

/-! ## Completion (11 R249, R251, R253) -/

/-- A command that meets no poisoned line completes: it leaves the list, its counter is incremented, and memory and scratch stand. -/
theorem completeCommand_frame (hp : k.poisoned = false) (s : State) (id : Nat) :
    (s.completeCommand id k).mem = s.mem ∧ (s.completeCommand id k).scr = s.scr ∧ lookupA (s.completeCommand id k).commands id = none ∧
      (k.desc.ctl.toNat / 2 ^ 54 % 2 = 1 →
        scheduled (s.completeCommand id k) (s.clk + 40) (.counterIncrement k.ctx (k.desc.ctl.toNat / 2 ^ 48 % 64))) := by
  generalize hs₁ : (if bit k.desc.ctl.toNat 54 = true then
      s.schedule (s.clk + 40) (.counterIncrement k.ctx (bits k.desc.ctl.toNat 53 48)) else s) = s₁
  have h₁ : FlightOnly s s₁ := hs₁ ▸ .either (FlightOnly.refl s).schedule (.refl s)
  have hdrop : FlightOnly { s₁ with commands := delA s₁.commands id } (s.completeCommand id k) := by
    unfold State.completeCommand
    dsimp only
    rw [hs₁, hp, if_neg Bool.false_ne_true]
    exact .either (dropCommand_flight s₁ id k).finishFar (dropCommand_flight s₁ id k)
  obtain ⟨hmem₁, hscr₁, -⟩ := h₁.frame
  obtain ⟨hmem, hscr, -, -, hcommands, -⟩ := hdrop.frame
  refine ⟨hmem.trans hmem₁, hscr.trans hscr₁, by rw [hcommands, lookupA_delA_self], fun hbit => hdrop.scheduled ?_⟩
  rw [← hs₁, if_pos ((bit_eq_true_iff ..).mpr hbit)]
  exact scheduled_schedule ..

theorem exec_copyComplete_of_ring (hk : lookupA s.commands id = some k) (hring : k.desc.ringDest = true) (hshort : k.short = false)
    (hp : k.poisoned = false) :
    ∃ t : State, exec (.copyComplete id) s = .next t ∧ lookupA t.commands id = none ∧ t.mem = s.mem ∧ t.scr = s.scr := by
  have hend : endKind k.desc.dst.endpoint = 2 := of_decide_eq_true hring
  have hfar : ¬k.desc.farDest = true := by
    have hne : ¬endKind k.desc.dst.endpoint = 0 := by omega
    exact fun h => hne (of_decide_eq_true h)
  obtain ⟨hmem, hscr, hcommands, -⟩ := completeCommand_frame hp s id
  refine ⟨_, ?_, hcommands, hmem, hscr⟩
  rw [exec_copyComplete, execCopyComplete, hk]
  dsimp only
  rw [if_neg hfar, if_neg (Bool.eq_false_iff.mp hshort), if_neg (by omega)]

/-- A leased access that is covered whole (24 R390). -/
theorem coveredBytes_of_physical {rs : List Range} {entry off n base : Nat} {write : Bool} (h : physical rs entry off n write = some base) :
    coveredBytes rs entry off n write = (base, n) := by
  obtain ⟨r, hr, hcov⟩ := Option.bind_eq_some_iff.mp h
  obtain ⟨⟨hlen, hperm⟩, hbase⟩ := Option.ite_none_right_eq_some.mp hcov
  cases hbase
  have hmay : ¬((off : Int) < 0 ∨ (!(if write then r.wr else r.rd)) = true) := by
    rw [hperm]
    simp
  unfold coveredBytes
  rw [hr]
  dsimp only
  rw [if_neg hmay, Int.toNat_natCast, Nat.min_eq_left (by omega)]

/-- Of a far destination that is one run under the lease, every byte is performed (11 R249). -/
theorem storeRuns_of_physical {base : Nat} (hred : k.red = false) (hp : k.poisoned = false) (hlen : k.data.length = k.desc.dst.run)
    (hpos : 0 < k.desc.dst.run)
    (hphys : physical k.ranges (bits k.desc.dst.endpoint.toNat 47 42) (bits k.desc.dst.endpoint.toNat 41 0) k.desc.dst.run true = some base)
    (s : State) : s.storeRuns k [0] 0 = (s.pokeFar base k.data, none) := by
  have hdata : k.data.take k.desc.dst.run = k.data := hlen ▸ List.take_length
  have hne : k.data ≠ [] := List.length_pos_iff.mp (hlen ▸ hpos)
  rw [State.storeRuns, Int.add_zero, coveredBytes_of_physical hphys, hred, hp]
  simp [hlen, State.storeRuns, hdata, hne]

theorem badAddress_of_physical {base : Nat} (hdims : k.desc.dst.dims = []) (hex : farExists base k.desc.dst.run = true)
    (hphys : physical k.ranges (bits k.desc.dst.endpoint.toNat 47 42) (bits k.desc.dst.endpoint.toNat 41 0) k.desc.dst.run true = some base) :
    k.badAddress = none := by
  unfold Command.badAddress
  dsimp only
  rw [hdims, runOffsets, List.map_singleton, Int.add_zero, coveredBytes_of_physical hphys]
  simp [hex]

theorem exec_copyComplete_of_far {base : Nat} (hk : lookupA s.commands id = some k) (hend : k.desc.dst.endpoint.toNat < 2 ^ 48)
    (hdims : k.desc.dst.dims = []) (hred : k.red = false) (hp : k.poisoned = false) (hlen : k.data.length = k.desc.dst.run)
    (hpos : 0 < k.desc.dst.run)
    (hphys : physical k.ranges (k.desc.dst.endpoint.toNat / 2 ^ 42) (k.desc.dst.endpoint.toNat % 2 ^ 42) k.desc.dst.run true = some base)
    (hex : farExists base k.desc.dst.run = true) :
    ∃ t : State, exec (.copyComplete id) s = .next t ∧ performed s t base k.data ∧ lookupA t.commands id = none ∧
      (k.desc.ctl.toNat / 2 ^ 54 % 2 = 1 → scheduled t (s.clk + 40) (.counterIncrement k.ctx (k.desc.ctl.toNat / 2 ^ 48 % 64))) := by
  have hfar : k.desc.farDest = true := by
    unfold Desc.farDest bits
    rw [Nat.div_eq_of_lt (by omega)]
    rfl
  have hentry : bits k.desc.dst.endpoint.toNat 47 42 = k.desc.dst.endpoint.toNat / 2 ^ 42 := by
    unfold bits
    exact Nat.mod_eq_of_lt (by omega)
  rw [← hentry, ← bits_low] at hphys
  obtain ⟨hmem, -, hcommands, hcounter⟩ := completeCommand_frame hp (s.pokeFar base k.data) id
  refine ⟨_, ?_, performed_of_mem hmem, hcommands, hcounter⟩
  rw [exec_copyComplete, execCopyComplete, hk]
  dsimp only
  rw [if_pos hfar, badAddress_of_physical hdims hex hphys, hdims, runOffsets, storeRuns_of_physical hred hp hlen hpos hphys]

/-- Settles O33: each step of a copy engine on a command that neither waits nor faults. -/
theorem copyEngine : Obligations.CopyEngine := by
  unfold Obligations.CopyEngine
  exact ⟨fun _ _ _ _ _ _ hq hc hrun hready hdone => exec_copyStart_of_ready hq hc hrun hready hdone,
    fun _ _ _ hk hc hend => exec_copySourceRead_of_scratch hk hc hend,
    fun _ _ _ _ hk hc hr hroom hrun hread hdata hp => exec_ringFillEntry_of_room hk hc hr hroom hrun hread hdata hp,
    fun _ _ _ _ hk hend hdims hred hp hlen hpos hphys hex => exec_copyComplete_of_far hk hend hdims hred hp hlen hpos hphys hex,
    fun _ _ _ hk hring hshort hp => exec_copyComplete_of_ring hk hring hshort hp⟩

end Sys2Proof.Machine
end

section
/-!
What a form sends to a synchronisation engine (12 R260 to R263, R266, R270): the operation, its way, and the instance that waits for the
reply (O34).
-/

set_option Elab.async false

namespace Sys2Proof.Machine

open Sys2Proof.Claims

variable {i : Instr} {s t r : State} {id idx addr : Nat} {v : Inst} {x y : Word} {engages : Bool}

/-! ## Sending to an engine (12 R261) -/

theorem scheduled_scheduleArrival (s : State) (a : Nat) (e : Instr) : scheduled (s.scheduleArrival a e) a e :=
  ⟨_, mem_insertTimed.mpr (.inl rfl), rfl, rfl⟩

theorem rung_place (i : Instr) (v : Inst) : (rung i v).place = v.place := by
  unfold rung
  split
  · rfl
  · rfl

/-- Engaging changes the segments alone. -/
theorem engage_eq (s : State) (g : Nat) : ∃ gs, s.engage g = { s with segs := gs } := by
  unfold State.engage State.modSeg
  split
  · exact ⟨_, rfl⟩
  · exact ⟨_, rfl⟩

theorem segment?_engage {g : Segment} (h : segment? s v = some g) :
    segment? (s.engage v.place.seg) v = some { g with engaged := true } := lookupA_modSeg_self h _

/-- The operation that an instance sends to the engine of an index. -/
def sentOp (i : Instr) (s : State) (id : Nat) (v : Inst) (idx addr : Nat) (x y : Word) : SyncOp :=
  { inst := id, seg := v.place.seg, ctx := v.place.ctx, engine := s.engineIndex v idx, travel := s.syncTime v (s.engineIndex v idx), instr := i,
    addr, operand := x, operand2 := y, reply := 0#64, trap := none, slot := none, performed := false }

/-- The operation depends on the instance's place alone. -/
theorem sentOp_of_place {u : Inst} (h : u.place = v.place) (i : Instr) (s : State) (id idx addr : Nat) (x y : Word) :
    sentOp i s id u idx addr x y = sentOp i s id v idx addr x y := by
  cases u
  cases v
  cases h
  rfl

/-- The state in which the operation is on its way. -/
def State.sending (s : State) (i : Instr) (id : Nat) (v : Inst) (idx addr : Nat) (x y : Word) : State :=
  let op := sentOp i s id v idx addr x y
  (({ s with ids := s.ids + 1, syncOps := putA s.syncOps (s.ids + 1) op }).countRequest v.place.ctx).scheduleArrival (s.clk + op.travel)
    (.syncOpPerformed (s.ids + 1))

theorem sendSync_eq (s : State) (i : Instr) (id : Nat) (v : Inst) (idx addr : Nat) (x y : Word) :
    s.sendSync i id v idx addr x y = .wait (s.sending i id v idx addr x y) (.syncOp (s.ids + 1)) := rfl

/-- `t` is what `s` is once instance `id` has sent its operation and waits: the operation is on its way, and a form that engages at issue has
engaged the segment. -/
structure SyncSent (i : Instr) (s : State) (id : Nat) (v : Inst) (idx addr : Nat) (x y : Word) (engages : Bool) (t : State) : Prop where
  inst : t.inst? id = some (pausing i (rung i v) s.clk (.syncOp (s.ids + 1)))
  op : lookupA t.syncOps (s.ids + 1) = some (sentOp i s id v idx addr x y)
  arrives : scheduled t (s.clk + (sentOp i s id v idx addr x y).travel) (.syncOpPerformed (s.ids + 1))
  segment : ∀ g, segment? s v = some g → segment? t v = some (if engages then { g with engaged := true } else g)
  mem : t.mem = s.mem
  scr : t.scr = s.scr

/-- A form whose effect sends an operation from a state that differs in its segments and instances alone. -/
theorem issue_sendSync {eff : State → Nat → Inst → Done} (hi : issues i s id v = true)
    (he : eff s id v = r.sendSync i id (rung i v) idx addr x y) (hr : ∃ gs is, r = { s with segs := gs, insts := is })
    (hv : r.inst? id = some (rung i v))
    (hseg : ∀ g, segment? s v = some g → segment? r v = some (if engages then { g with engaged := true } else g)) :
    ∃ t : State, issue i eff s = .next t ∧ SyncSent i s id v idx addr x y engages t := by
  obtain ⟨gs, is, rfl⟩ := hr
  have hop := sentOp_of_place (rung_place i v) i s id idx addr x y
  have hsent : (State.sending { s with segs := gs, insts := is } i id (rung i v) idx addr x y).inst? id = some (rung i v) := hv
  have hex := issue_wait hi (he.trans (sendSync_eq ..))
  rw [State.modInst_of_some hsent] at hex
  exact ⟨_, hex, State.setInst_inst? .., hop ▸ lookupA_putA_self .., hop ▸ scheduled_scheduleArrival .., hseg, rfl, rfl⟩

/-! ## Atomics and passes (12 R260, R262, R266) -/

/-- The request of a form on a word, its offset of n bits. -/
def wordRequest (s : State) (v : Inst) (f : MForm) (n : Nat) : Option (Nat × Nat × Word × Word × Bool) :=
  let a := (v.regs.getX f.a + BitVec.ofInt 64 (((f.off.val % 2 ^ n : Nat) : Int).bmod (2 ^ n))).toNat
  let width := Ty.width f.ty / 8
  if a < 2 ^ 16 ∧ a + width ≤ (contextOf s v).syncLen ∧ a % width = 0 then
    some (a / 4096, a, v.regs.getX f.d, v.regs.getX (f.d + 1), true) else none

/-- The request of a form on a pass. -/
def passRequest (s : State) (v : Inst) (f : IForm) (engages : Bool) : Option (Nat × Nat × Word × Word × Bool) :=
  let p := f.imm.val % 256
  if p < (contextOf s v).passCount then some (p, p, 0#64, 0#64, engages) else none

theorem syncAddr_of_request {f : MForm} {n : Nat} (hn : 0 < n) (h : wordRequest s v f n = some (idx, addr, x, y, engages)) :
    s.syncAddr v (v.regs.getX f.a) (signed n (f.off % 2 ^ n)) (wordWidth f.ty) = .ok addr ∧
      (addr / 4096, v.regs.getX f.d, v.regs.getX (f.d + 1), true) = (idx, x, y, engages) := by
  obtain ⟨⟨hlow, hlen, halign⟩, hreq⟩ := Option.ite_none_right_eq_some.mp h
  cases hreq
  refine ⟨?_, rfl⟩
  unfold State.syncAddr
  rw [signed_eq_bmod_two_pow hn]
  exact (if_neg (not_or.mpr ⟨Nat.not_le.mpr hlow, Nat.not_lt.mpr hlen⟩)).trans (if_neg (not_not.mpr halign))

theorem issue_atomic {f : MForm} {n : Nat} (hn : 0 < n) (hi : issues i s id v = true) (hrung : rung i v = v)
    (h : wordRequest s v f n = some (idx, addr, x, y, engages)) :
    ∃ t : State, issue i (atomic i f n) s = .next t ∧ SyncSent i s id v idx addr x y engages t := by
  obtain ⟨-, hv, -, -⟩ := issues_iff.mp hi
  obtain ⟨haddr, hreq⟩ := syncAddr_of_request hn h
  cases hreq
  obtain ⟨gs, hgs⟩ := engage_eq s v.place.seg
  refine issue_sendSync (r := s.engage v.place.seg) hi ?_ ⟨gs, _, hgs⟩ (by rw [hrung, hgs]; exact hv) fun g hg => segment?_engage hg
  rw [atomic, haddr, hrung]

theorem issue_passOp {f : IForm} {b : Bool} (hi : issues i s id v = true) (hrung : rung i v = v)
    (h : passRequest s v f b = some (idx, addr, x, y, engages)) :
    ∃ t : State, issue i (passOp i f b) s = .next t ∧ SyncSent i s id v idx addr x y engages t := by
  obtain ⟨-, hv, -, -⟩ := issues_iff.mp hi
  obtain ⟨hcount, hreq⟩ := Option.ite_none_right_eq_some.mp h
  cases hreq
  have hpass : passOp i f engages s id v =
      (if engages then s.engage v.place.seg else s).sendSync i id (rung i v) (f.imm.val % 256) (f.imm.val % 256) 0#64 0#64 := by
    rw [passOp, bits_low, hrung]
    exact if_neg (Nat.not_le.mpr hcount)
  obtain ⟨gs, hgs⟩ := engage_eq s v.place.seg
  refine issue_sendSync hi hpass ?_ ?_ fun g hg => ?_
  · cases engages with
    | false => exact ⟨_, _, rfl⟩
    | true => exact ⟨gs, _, hgs⟩
  · rw [hrung]
    cases engages with
    | false => exact hv
    | true => exact (congrArg (State.inst? · id) hgs).trans hv
  · cases engages with
    | false => exact hg
    | true => exact segment?_engage hg

/-! ## Bells (12 R270, R272) -/

theorem bits_bellFields (w : Nat) : bits w 9 8 = w / 256 % 4 ∧ bits w 5 0 = w % 64 := ⟨rfl, bits_low w 5⟩

/-- A bell does not stall once the far writes that it covers are performed. -/
theorem bell_goes_on {f : IForm} (h : bellWaits s v f = false) :
    (bit f.imm 10 && !s.writesDone v.place.ctx (v.relMark.getD s.ids)) = false := h

theorem exec_bell_of_request {f : IForm} (hi : issues (.bell f) s id v = true)
    (h : syncRequest s v (.bell f) = some (idx, addr, x, y, engages)) :
    ∃ t : State, exec (.bell f) s = .next t ∧ SyncSent (.bell f) s id v idx addr x y engages t := by
  obtain ⟨hno, hreq⟩ := Option.ite_none_left_eq_some.mp h
  obtain ⟨hscope, hgo⟩ := not_or.mp hno
  cases hreq
  obtain ⟨hbits, hbell⟩ := bits_bellFields f.imm
  rw [exec_bell, execBell]
  refine issue_sendSync (r := s.setInst id (rung (.bell f) v)) hi ?_ ⟨_, _, rfl⟩ (State.setInst_inst? ..) fun g hg => hg
  dsimp only
  rw [bell_goes_on (Bool.eq_false_iff.mpr hgo), hbits, hbell, if_neg Bool.false_ne_true, if_neg hscope]
  rfl

theorem trySegBell_insts (s : State) (g : Nat) : (s.trySegBell g).insts = s.insts := by
  unfold State.trySegBell
  split
  · rfl
  · dsimp only
    split
    · rfl
    · rfl

/-- A bell of scope 0 waits for its segment. -/
theorem exec_bell_of_segment {f : IForm} (hi : issues (.bell f) s id v = true) (hscope : f.imm.val / 256 % 4 = 0) (hgo : bellWaits s v f = false) :
    ∃ t : State, exec (.bell f) s = .next t ∧ t.insts = (s.setInst id (pausing (.bell f) (rung (.bell f) v) s.clk .segBell)).insts := by
  have heff : exec (.bell f) s = .next
      ((settle (.bell f) id (rung (.bell f) v) (s.setInst id (rung (.bell f) v))
        (.wait (s.setInst id (rung (.bell f) v)) .segBell)).trySegBell v.place.seg) := by
    rw [exec_bell, execBell, issue_eq hi]
    dsimp only
    rw [bell_goes_on hgo, if_neg Bool.false_ne_true, (bits_bellFields f.imm).1, if_pos hscope]
    rfl
  refine ⟨_, heff, (trySegBell_insts ..).trans ?_⟩
  rw [settle, State.modInst_setInst]
  rfl

/-- Settles O34: each form sends its request, and a bell of scope 0 waits at its segment. -/
theorem syncIssued : Obligations.SyncIssued := by
  unfold Obligations.SyncIssued
  refine ⟨fun i idx addr x y engages s id v h _ hi => ?_, fun f s id v _ hi hscope hgo => exec_bell_of_segment hi hscope hgo⟩
  have hsent : ∃ t : State, exec i s = .next t ∧ SyncSent i s id v idx addr x y engages t := by
    cases i with
    | aadd | amin | amax | axchg | acas | aand | aor | scld | scst => exact issue_atomic (n := 32) (by decide) hi rfl h
    | scrmw => exact issue_atomic (n := 29) (by decide) hi rfl h
    | pacq | prel | pqry => exact issue_passOp hi rfl h
    | bell => exact exec_bell_of_request hi h
    | _ => cases h
  obtain ⟨t, ht, hinst, hop, harrives, hsegment, hmem, hscr⟩ := hsent
  exact ⟨t, ht, hinst, hop, harrives, hsegment, hmem, hscr⟩

end Sys2Proof.Machine
end

section
/-!
What an engine does to a sync word (12 R261, R264, R265, R273): the new word of each legal form, the reply, and what the reply does (O35).
-/

set_option Elab.async false

namespace Sys2Proof.Machine

open Sys2Proof.Claims

variable {i : Instr} {s t : State} {k old : Nat} {op : SyncOp} {f : MForm} {new : Option Nat} {v : Inst} {x y : Word}

/-! ## The new word (12 R264, R265) -/

/-- A result modulo 2^w. -/
theorem writeInt_mod (t : Ty) (z : Int) : writeInt t 64 z % 2 ^ Ty.width t = (BitVec.ofInt (Ty.width t) z).toNat := by
  have hlt : (z % ((2 ^ Ty.width t : Nat) : Int)).toNat < 2 ^ Ty.width t := by
    have := Int.emod_lt_of_pos z (b := ((2 ^ Ty.width t : Nat) : Int)) (by positivity)
    omega
  obtain ⟨n, hn⟩ : 2 ^ Ty.width t ∣ 2 ^ 64 - 2 ^ Ty.width t := Nat.dvd_sub (pow_dvd_pow 2 (width_bounds t).2) (dvd_refl _)
  have hle : 2 ^ Ty.width t ≤ 2 ^ 64 := Nat.pow_le_pow_right (by decide) (width_bounds t).2
  rw [BitVec.toNat_ofInt, writeInt]
  split
  · rw [Nat.add_sub_assoc hle, hn, Nat.add_mul_mod_self_left, Nat.mod_eq_of_lt hlt]
  · exact Nat.mod_eq_of_lt hlt

/-- The new word of an operation code of R264, as the statement gives it. -/
def atomicWord (t : Ty) (code old a : Nat) : Nat :=
  let arithmetic (ff : Fp → Fp → Fp) (fi : Int → Int → Int) : Nat :=
    if t = .f32 then f32Bits (ff (f32 old) (f32 a)) else (BitVec.ofInt (Ty.width t) (fi (wrap t old) (wrap t a))).toNat
  match code with
  | 0 => arithmetic Fp.add (· + ·)
  | 1 => arithmetic Fp.min min
  | 2 => arithmetic Fp.max max
  | 3 => a
  | 4 => old &&& a
  | _ => old ||| a

theorem atomicNew_eq {t : Ty} {code : Nat} (h : t = .f32 → code ≤ 3) (old a : Nat) : atomicNew t code old a = atomicWord t code old a := by
  by_cases ht : t = .f32
  · obtain rfl := ht
    have hcode := h rfl
    interval_cases code
    · rfl
    · rfl
    · rfl
    · rfl
  · have harith (ff : Fp → Fp → Fp) (fi : Int → Int → Int) : writeInt t 64 (fi (readInt t old) (readInt t a)) % 2 ^ Ty.width t =
        if t = .f32 then f32Bits (ff (f32 old) (f32 a)) else (BitVec.ofInt (Ty.width t) (fi (wrap t old) (wrap t a))).toNat := by
      rw [if_neg ht, writeInt_mod, readInt_eq_wrap, readInt_eq_wrap]
    unfold atomicNew
    rw [if_neg ht]
    rcases code with _ | _ | _ | _ | _ | code
    · exact harith Fp.add (· + ·)
    · exact harith Fp.min min
    · exact harith Fp.max max
    all_goals rfl

/-- A compare-and-swap writes its second operand where the word holds the first (R265). -/
theorem cas_eq (t : Ty) (old : Nat) (x y : Word) :
    (if old = (casOperands t x y).1 then some (casOperands t x y).2 else none) =
      if Ty.width t = 64 then (if old = x.toNat then some y.toNat else none)
      else if old = x.toNat / 2 ^ 32 then some (x.toNat % 2 ^ 32) else none := by
  have hhigh : bits x.toNat 63 32 = x.toNat / 2 ^ 32 := by
    unfold bits
    exact Nat.mod_eq_of_lt (by have := x.isLt; omega)
  unfold casOperands
  split
  · rfl
  · rw [hhigh, bits_low]

/-! ## The types of the forms on words (12 R263, R273) -/

/-- The types of `aand` and `aor`. -/
def bitwiseTypes : List Ty := [.i32, .n32, .i64, .n64]

theorem type_of_legal_word {p : Nat} {ts : List Ty} (hp : i.parts = some (p, .m f)) (hl : legal i = true)
    (hrow : (rowOf p (Form.word p (.m f))).types = ts) (hts : ts = syncTypes ∨ ts = bitwiseTypes) : f.ty ∈ ts := by
  have hmem := type_of_legal_m hp hl (by rcases hts with rfl | rfl <;> (rw [hrow]; rfl))
  rwa [hrow] at hmem

theorem types_scrmw (f : MForm) : (rowOf 0xCA (Form.word 0xCA (.m f))).types =
    if f.off.val / 2 ^ 29 = 4 ∨ f.off.val / 2 ^ 29 = 5 then bitwiseTypes else syncTypes := by
  rw [← bits_word_op 0xCA f]
  rfl

theorem ne_f32_of_bitwise {t : Ty} (h : t ∈ bitwiseTypes) : t ≠ .f32 := by
  rintro rfl
  exact absurd h (by decide)

theorem mem_syncTypes_of_bitwise {t : Ty} (h : t ∈ bitwiseTypes) : t ∈ syncTypes := by
  revert h
  cases t <;> decide

/-- A legal `scrmw` names an assigned operation, and a bitwise one on integers alone. -/
theorem code_of_legal_scrmw (hl : legal (.scrmw f) = true) (hcas : f.off.val / 2 ^ 29 ≠ 6) (hty : f.ty = .f32) : f.off.val / 2 ^ 29 ≤ 3 := by
  have hseven : f.off.val / 2 ^ 29 ≠ 7 := by
    simpa [badFunction, bits_word_op] using badFunction_of_legal (p := 0xCA) (f := .m f) rfl hl
  by_cases hbit : f.off.val / 2 ^ 29 = 4 ∨ f.off.val / 2 ^ 29 = 5
  · have hmem := type_of_legal_word rfl hl ((types_scrmw f).trans (if_pos hbit)) (.inr rfl)
    exact absurd hty (ne_f32_of_bitwise hmem)
  · have := f.off.isLt
    omega

theorem mem_syncTypes_of_legal (hl : legal i = true) (h : atomicResult i old x y = some (f, new)) : f.ty ∈ syncTypes := by
  cases i with
  | aadd | amin | amax | axchg | acas | scld | scst =>
    cases h
    exact type_of_legal_word rfl hl rfl (.inl rfl)
  | aand | aor =>
    cases h
    exact mem_syncTypes_of_bitwise (type_of_legal_word rfl hl rfl (.inr rfl))
  | scrmw =>
    cases h
    have hmem := type_of_legal_word rfl hl (types_scrmw f) (by split <;> simp)
    split at hmem
    · exact mem_syncTypes_of_bitwise hmem
    · exact hmem
  | _ => cases h

/-- The old value as it is returned (R264). -/
theorem extendTo_of_mem {t : Ty} (h : t ∈ syncTypes) (w : Nat) : extendTo t w = if t = .f32 then BitVec.ofNat 64 w else widened t w := by
  have hfloat : Ty.isFloat t = true ↔ t = .f32 := by
    revert h
    cases t <;> decide
  simp only [extendTo_eq_widened, hfloat]

/-! ## The effect of an operation -/

/-- What a legal form does to its word is what R264, R265 and R273 tabulate. -/
theorem syncEffect_eq_atomicResult (hl : legal i = true) (h : atomicResult i old x y = some (f, new)) : syncEffect i old x y = some (f, new) := by
  rw [← h]
  cases i with
  | aadd g | amin g | amax g => exact congrArg (fun n => some (g, some n)) (atomicNew_eq (fun _ => by decide) ..)
  | axchg | scld | scst => rfl
  | aand g | aor g => exact congrArg (fun n => some (g, some n)) (atomicNew_eq
      (fun ht => absurd ht (ne_f32_of_bitwise (type_of_legal_word rfl hl rfl (.inr rfl)))) ..)
  | acas g => exact congrArg (fun n => some (g, n)) (cas_eq g.ty old x y)
  | scrmw g =>
    unfold syncEffect atomicResult
    dsimp only
    split
    next hcas => exact congrArg (fun n => some (g, n)) (cas_eq g.ty old x y)
    next hcas => exact congrArg (fun n => some (g, some n)) (atomicNew_eq (code_of_legal_scrmw hl hcas) ..)
  | _ => cases h

theorem syncForm_scrmw (f : MForm) : syncForm (.scrmw f) = some f := by
  unfold syncForm syncEffect
  dsimp only
  split
  · rfl
  · rfl

/-- The form of an operation does not depend on its operands. -/
theorem syncForm_of_effect (h : syncEffect i old x y = some (f, new)) : syncForm i = some f := by
  cases i with
  | aadd | amin | amax | axchg | aand | aor | acas | scld | scst =>
    cases h
    rfl
  | scrmw g =>
    unfold syncEffect at h
    dsimp only at h
    split at h
    · cases h
      exact syncForm_scrmw f
    · cases h
      exact syncForm_scrmw f
  | _ => cases h

/-! ## An engine performs an operation (12 R261) -/

theorem getD_toList_engine (w : Vector Nat 4) (e : Nat) : w.toList.getD (e % 4) 0 = w[e % 4]'(Nat.mod_lt _ (by decide)) := by
  have he : e % 4 < 4 := Nat.mod_lt _ (by decide)
  simp [List.getD_eq_getElem?_getD, he]

/-- An operation whose clk has come is performed, once its engine is marked as taken in that clk. -/
theorem exec_syncOpPerformed_of_now (hk : lookupA s.syncOps k = some op) (hnow : performsNow s op = true) :
    ∃ es, exec (.syncOpPerformed k) s = .next (State.performSync { s with engineFree := es } k op) := by
  obtain ⟨hready, hclk⟩ := (Bool.and_eq_true ..).mp hnow
  obtain ⟨hnew, hslot⟩ := (Bool.and_eq_true ..).mp hready
  have hclk := of_decide_eq_true hclk
  rw [exec_syncOpPerformed, execSyncOpPerformed, hk]
  dsimp only
  rw [if_neg (by simpa using hnew)]
  cases hc : op.slot with
  | some c =>
    rw [hc] at hclk
    simp only [Option.isNone_some, Bool.and_false, Bool.false_eq_true, if_false, Option.isSome_some, if_true]
    exact ⟨s.engineFree, if_neg (Nat.not_lt.mpr hclk)⟩
  | none =>
    rw [hc] at hclk hslot
    rw [getD_toList_engine] at hclk
    have hbaton : isBaton op.instr = false := by simpa using hslot
    simp only [hbaton, Bool.false_and, Bool.false_eq_true, if_false, Option.isSome_none]
    exact ⟨_, if_neg (Nat.not_lt.mpr (max_le (le_refl _) hclk))⟩

theorem replied_replySync (s : State) (k : Nat) (op : SyncOp) (reply : Word) (trap : Option Nat) :
    replied (s.replySync k op reply trap) k op reply trap := ⟨lookupA_putA_self .., scheduled_schedule ..⟩

/-- The state with the new word of an operation, if it has one. -/
def State.storeSync (s : State) (c a n : Nat) (new : Option Nat) : State :=
  match new with
  | some w => s.modCtx c fun x => { x with sync := writeNat x.sync a n w }
  | none => s

theorem performSync_of_effect (k : Nat) (hf : syncForm op.instr = some f)
    (he : syncEffect op.instr (readNat (s.ctx op.ctx).sync op.addr (wordWidth f.ty)) op.operand op.operand2 = some (f, new)) :
    s.performSync k op = (s.storeSync op.ctx op.addr (wordWidth f.ty) new).replySync k op
      (extendTo f.ty (readNat (s.ctx op.ctx).sync op.addr (wordWidth f.ty))) none := by
  unfold State.performSync
  dsimp only
  split
  next h => rw [h] at hf; cases hf
  next h => rw [h] at hf; cases hf
  next h => rw [h] at hf; cases hf
  next h => rw [h] at hf; cases hf
  next =>
    rw [hf]
    dsimp only
    rw [he]
    cases new with
    | some w => rfl
    | none => rfl

theorem readByte_storeSync (s : State) (c a n : Nat) (new : Option Nat) (b : Nat) :
    readByte ((s.storeSync c a n new).ctx c).sync b = match new with
      | some w => written [(a, bytesOf n w)] b (readByte (s.ctx c).sync b)
      | none => readByte (s.ctx c).sync b := by
  cases new with
  | some w =>
    rw [State.storeSync, ctx_modCtx_self]
    dsimp only
    rw [bytesOf_eq_bytesOfWord]
    exact readByte_writeBytes ..
  | none => rfl

theorem storeSync_clk (s : State) (c a n : Nat) (new : Option Nat) : (s.storeSync c a n new).clk = s.clk := by
  cases new with
  | some w => rfl
  | none => rfl

/-- An atomic or a baton operation leaves its word as R264, R265 and R273 tabulate, and replies the old value. -/
theorem exec_syncOpPerformed_of_word (hk : lookupA s.syncOps k = some op) (hnow : performsNow s op = true)
    (hres : atomicResult op.instr (number (readBytes (s.ctx op.ctx).sync op.addr (Ty.width f.ty / 8))) op.operand op.operand2 = some (f, new))
    (hl : legal op.instr = true) :
    let n := Ty.width f.ty / 8
    let old := number (readBytes (s.ctx op.ctx).sync op.addr n)
    ∃ t : State, exec (.syncOpPerformed k) s = .next t ∧ t.clk = s.clk ∧
      replied t k op (if f.ty = .f32 then BitVec.ofNat 64 old else widened f.ty old) none ∧
      (t.ctx op.ctx).sync = ((s.storeSync op.ctx op.addr n new).ctx op.ctx).sync := by
  intro n old
  have heffect := syncEffect_eq_atomicResult hl hres
  have hold : old = readNat (s.ctx op.ctx).sync op.addr (wordWidth f.ty) := number_eq_wordOfBytes _
  rw [number_eq_wordOfBytes] at heffect
  obtain ⟨es, hex⟩ := exec_syncOpPerformed_of_now hk hnow
  have hperform := performSync_of_effect (s := { s with engineFree := es }) k (syncForm_of_effect heffect) heffect
  rw [← extendTo_of_mem (mem_syncTypes_of_legal hl hres), hold]
  exact ⟨_, hex.trans (congrArg _ hperform), storeSync_clk .., replied_replySync .., by cases new <;> rfl⟩

/-- `pqry` replies the word of the pass (R269). -/
theorem exec_syncOpPerformed_of_pqry {g : IForm} (hk : lookupA s.syncOps k = some op) (hnow : performsNow s op = true) (hi : op.instr = .pqry g) :
    let p := passOf s op.ctx op.addr
    ∃ t : State, exec (.syncOpPerformed k) s = .next t ∧ t.clk = s.clk ∧ passOf t op.ctx op.addr = p ∧
      replied t k op (BitVec.ofNat 64 ((if p.faulted then 2 ^ 18 else 0) + (if p.pending.isSome then 2 ^ 17 else 0) +
        (if p.holder.isSome then 2 ^ 16 else 0) + p.holder.getD 0 * 2 ^ 8 + min 255 p.waiters.length)) none := by
  intro p
  obtain ⟨es, hex⟩ := exec_syncOpPerformed_of_now hk hnow
  have hperform : State.performSync { s with engineFree := es } k op = State.replySync { s with engineFree := es } k op p.query none := by
    unfold State.performSync
    rw [hi]
    rfl
  have hquery : p.query = BitVec.ofNat 64 ((if p.faulted then 2 ^ 18 else 0) + (if p.pending.isSome then 2 ^ 17 else 0) +
      (if p.holder.isSome then 2 ^ 16 else 0) + p.holder.getD 0 * 2 ^ 8 + min 255 p.waiters.length) := by
    simp only [Pass.query, bitNat, ite_mul, one_mul, zero_mul]
  rw [← hquery]
  exact ⟨_, hex.trans (congrArg _ hperform), rfl, rfl, replied_replySync ..⟩

/-! ## The reply (12 R261) -/

/-- The registers that the reply of a form leaves. -/
theorem replyWrite_eq (h : (syncForm i).isSome = true ∨ ∃ f, i = .pacq f ∨ i = .prel f ∨ i = .pqry f ∨ i = .bell f) (reply : Word)
    (r : Regs) : replyWrite i reply r = match replyRegister i with | some d => r.setX d reply | none => r := by
  rcases h with h | ⟨f, rfl | rfl | rfl | rfl⟩
  · cases i with
    | aadd | amin | amax | axchg | aand | aor | acas | scld | scst => rfl
    | scrmw g => simp only [replyWrite, syncForm_scrmw, replyRegister]
    | _ => cases h
  all_goals rfl

theorem exec_syncReply_of_waiting (hk : lookupA s.syncOps k = some op) (hv : s.inst? op.inst = some v) (hw : v.status = .waiting (.syncOp k))
    (htrap : op.trap = none) (hstd : ∀ g, segment? s v = some g → g.standard = false)
    (hform : (syncForm op.instr).isSome = true ∨ ∃ f, op.instr = .pacq f ∨ op.instr = .prel f ∨ op.instr = .pqry f ∨ op.instr = .bell f) :
    exec (.syncReply k) s = .next ({ s with syncOps := delA s.syncOps k }.setInst op.inst (released op.instr v s.clk
      (match replyRegister op.instr with | some d => v.regs.setX d op.reply | none => v.regs))) := by
  have hv' : State.inst? { s with syncOps := delA s.syncOps k } op.inst = some v := hv
  rw [exec_syncReply, execSyncReply, hk]
  dsimp only
  rw [hv']
  dsimp only
  rw [if_neg (not_not.mpr hw), htrap]
  refine (if_neg ?_).trans ?_
  · split
    next g hg => exact Bool.eq_false_iff.mp (hstd g hg)
    next => exact Bool.false_ne_true
  · rw [complete_of_some hv', replyWrite_eq hform]
    rfl

/-- Settles O35: the word and the reply of an operation, the word of a pass, and the reply's way into the instance. -/
theorem syncPerformed : Obligations.SyncPerformed := by
  unfold Obligations.SyncPerformed
  refine ⟨fun k op f new s hk hnow hres hl => ?_,
    fun _ _ _ _ hk hnow hi => exec_syncOpPerformed_of_pqry hk hnow hi,
    fun _ _ _ _ hk hv hw htrap hstd hform => exec_syncReply_of_waiting hk hv hw htrap hstd hform⟩
  obtain ⟨t, ht, hclk, hreplied, hsync⟩ := exec_syncOpPerformed_of_word hk hnow hres hl
  exact ⟨t, ht, hclk, hreplied, fun a => hsync ▸ readByte_storeSync s op.ctx op.addr _ new a⟩

end Sys2Proof.Machine
end

section
/-!
Record marks (12 R275; 19 R343, R347): the table of handles, the mark entry, and its kind beside a round of more than three bits (O37).
-/

set_option Elab.async false

namespace Sys2Proof.Machine

open Sys2Proof.Claims

variable {i : Instr} {s : State} {id : Nat} {v : Inst} {f : RForm}

/-! ## The two tables of an instance that records (12 R275; 19 R347) -/

theorem records_of_recordMode (hc : v.committed = false) (hr : s.recordMode v = true) : s.records v = true := by
  rw [State.records, hc, hr]
  rfl

/-- An instance that has entered a handle in its table. -/
def withMark (v : Inst) (handle flag : Nat) : Inst := { v with stage := { v.stage with marks := putA v.stage.marks handle flag } }

/-- In record mode a mark is entered in the table of eight handles, or traps where a ninth handle comes. -/
theorem issue_markHandle {flag : Nat} (hi : issues i s id v = true) (hc : v.committed = false) (hr : s.recordMode v = true) :
    let handle := (v.regs.getX f.a).toNat
    issue i (markHandle f flag) s = .next (if (lookupA v.stage.marks handle).isNone ∧ 8 ≤ v.stage.marks.length then trapped s id 0x26 1
      else retired i s id (withMark v handle flag) 1) := by
  intro handle
  obtain ⟨-, hv, -, -⟩ := issues_iff.mp hi
  have hrec : ¬(!s.records v) = true := by simp [records_of_recordMode hc hr]
  split
  next hfull =>
    refine issue_trap (t := s) (k := trapOf stRecord 1) hi ?_
    rw [markHandle, if_neg hrec]
    exact if_pos (by simpa using hfull)
  next hroom =>
    have heff : markHandle f flag s id v = .next (s.setInst id (withMark v handle flag)) 1 := by
      rw [markHandle, if_neg hrec, State.setStage, State.modInst_of_some hv]
      exact if_neg (by simpa using hroom)
    rw [issue_next hi heff, State.modInst_setInst]
    rfl

/-- The entry that `logmark` appends (19 R343). -/
def markEntry (v : Inst) (f : RForm) : CbEntry :=
  { word0 := EntryInfo.word0 ⟨2, 0xD0, 0, 0, 0, 0, false, false⟩ v.hdr.round, ops := [], raw := BitVec.ofNat 64 (low32 (v.regs.getX f.a)),
    lane := v.stage.lane.length, cell := v.place.cell, seat := v.place.seat, opnum := v.place.opnum, dest := none, hasOpaque := false }

/-- An instance with an entry appended to its copybook lane. -/
def withEntry (v : Inst) (e : CbEntry) : Inst := { v with stage := { v.stage with lane := v.stage.lane ++ [e] } }

/-- In record mode `logmark` appends its entry, or traps where a 33rd comes. -/
theorem exec_logmark_of_recordMode (hi : issues (.logmark f) s id v = true) (hc : v.committed = false) (hr : s.recordMode v = true) :
    exec (.logmark f) s = .next (if 32 ≤ v.stage.lane.length then trapped s id 0x26 3
      else retired (.logmark f) s id (withEntry v (markEntry v f)) 1) := by
  obtain ⟨-, hv, -, -⟩ := issues_iff.mp hi
  have hrec : ¬(!s.records v) = true := by simp [records_of_recordMode hc hr]
  rw [exec_logmark, execLogmark]
  split
  next hfull =>
    refine issue_trap (t := s) (k := trapOf stRecord 3) hi ?_
    rw [if_neg hrec, Stage.putEntry, if_pos hfull]
  next hroom =>
    refine (issue_next (t := s.setInst id (withEntry v (markEntry v f))) (latency := 1) hi ?_).trans ?_
    · rw [if_neg hrec, Stage.putEntry, if_neg hroom]
      dsimp only
      rw [State.setStage, State.modInst_of_some hv]
      rfl
    · rw [State.modInst_setInst]
      rfl

/-- Beside a round of three bits, as a header word has it (02 R45), the kind of the entry is that of a mark. -/
theorem kind_markEntry (h : v.hdr.round < 8) : (markEntry v f).word0.toNat / 2 ^ 60 = 2 := by
  simp only [markEntry, EntryInfo.word0, bitNat, BitVec.toNat_ofNat, Bool.false_eq_true, if_false]
  omega

/-! ## A round of more than three bits -/

section
open Sys2Proof.Tests

/-- An instance that records, whose header has a round of 2^28. -/
def wideRound : State := recording.modInst 1 fun v => { v with hdr := { v.hdr with round := 2 ^ 28 } }

/-- The round reaches into the kind of the entry. -/
theorem kind_wideRound : (markEntry (the wideRound) (fr .i32 0 1 0)).word0.toNat / 2 ^ 60 = 3 := by decide

/-- Refutes O37: its clause on `logmark` leaves the round of the header free. In `wideRound` every premise holds, and the round of 2^28, which
word 0 of the entry has from bit 32 on, makes its kind 3. A header word has three bits for the round (02 R45), and beside such a round the
clause holds (`exec_logmark_of_recordMode`, `kind_markEntry`), as does the clause on `opsave` and `oprecomp` (`issue_markHandle`). -/
theorem not_recordMarks : ¬ Obligations.RecordMarks := by
  unfold Obligations.RecordMarks
  rintro ⟨-, hmark⟩
  have hi : issues (.logmark (fr .i32 0 1 0)) wideRound 1 (the wideRound) = true := by decide
  have hroom : ¬32 ≤ (the wideRound).stage.lane.length := by decide
  have h := hmark (fr .i32 0 1 0) wideRound 1 (the wideRound) (by decide) hi (by decide) (by decide)
  rw [if_neg hroom] at h
  obtain ⟨e, -, -, -, hkind, hex⟩ := h
  have hex' := exec_logmark_of_recordMode hi (by decide) (by decide)
  rw [if_neg hroom] at hex'
  have hstate := Host.Outcome.next.inj (hex.symm.trans hex')
  have hlane := congrArg (fun t : State => (t.inst? 1).map fun v => v.stage.lane) hstate
  simp only [retired, State.setInst_inst?, Option.map_some, (completed_kept ..).1, withEntry, Option.some.injEq, List.append_cancel_left_eq,
    List.cons.injEq, and_true] at hlane
  rw [hlane, kind_wideRound] at hkind
  exact absurd hkind (by decide)

end

end Sys2Proof.Machine
end

section
/-!
Queue forms (12 R280; 23 R383; 25 R399): what they send to the hub, what the hub does with the user queues, the two replies, and the
memory-side agent (O38).
-/

set_option Elab.async false

namespace Sys2Proof.Machine

open Sys2Proof.Claims

variable {i : Instr} {s t : State} {id k a : Nat} {v : Inst} {f : ZForm} {op : QueueOp} {record : List Word}

/-! ## Sending to the hub -/

/-- The operation that an instance sends to the hub. -/
def hubOp (id : Nat) (v : Inst) (push : Bool) (q a : Nat) (record : List Word) : QueueOp :=
  { inst := id, ctx := v.place.ctx, push, queue := q, record, addr := a, ok := false }

/-- The state in which an operation is on its way to the hub. -/
def State.toHub (s : State) (op : QueueOp) : State :=
  (({ s with ids := s.ids + 1, queueOps := putA s.queueOps (s.ids + 1) op }).countRequest op.ctx).scheduleArrival (s.clk + 30)
    (.queueOpArrival (s.ids + 1))

theorem sendQueueOp_eq (s : State) (id : Nat) (v : Inst) (push : Bool) (q a : Nat) (record : List Word) :
    s.sendQueueOp id v push q a record = .wait (s.toHub (hubOp id v push q a record)) (.queueOp (s.ids + 1)) := rfl

/-- `t` is what `s` is once instance `id` has sent an operation to the hub and waits. -/
structure QueueSent (i : Instr) (s : State) (id : Nat) (v : Inst) (op : QueueOp) (t : State) : Prop where
  inst : t.inst? id = some (pausing i v s.clk (.queueOp (s.ids + 1)))
  op : lookupA t.queueOps (s.ids + 1) = some op
  arrives : scheduled t (s.clk + 30) (.queueOpArrival (s.ids + 1))
  mem : t.mem = s.mem
  scr : t.scr = s.scr

theorem issue_sendQueueOp {eff : State → Nat → Inst → Done} {push : Bool} {q : Nat} (hi : issues i s id v = true)
    (he : eff s id v = s.sendQueueOp id v push q a record) :
    ∃ t : State, issue i eff s = .next t ∧ QueueSent i s id v (hubOp id v push q a record) t := by
  obtain ⟨-, hv, -, -⟩ := issues_iff.mp hi
  have hsent : (s.toHub (hubOp id v push q a record)).inst? id = some v := hv
  have hex := issue_wait hi (he.trans (sendQueueOp_eq ..))
  rw [State.modInst_of_some hsent] at hex
  exact ⟨_, hex, State.setInst_inst? .., lookupA_putA_self .., scheduled_scheduleArrival .., rfl, rfl⟩

/-- The eight words of the granule at a scratch address. -/
def granuleWords (s : State) (v : Inst) (a : Nat) : List Word :=
  (List.range 8).map fun j => BitVec.ofNat 64 (number (s.sideBytes v v.place.cell (a + 8 * j) 8))

theorem granuleWords_eq (s : State) (v : Inst) (a : Nat) :
    ((List.range 8).map fun j => BitVec.ofNat 64 (wordOfBytes (((s.sideBytes v v.place.cell a 64).drop (8 * j)).take 8))) =
      granuleWords s v a := by
  refine List.map_congr_left fun j hj => ?_
  have hj : j < 8 := List.mem_range.mp hj
  rw [slice_sideBytes s v v.place.cell a (by omega), number_eq_wordOfBytes]

theorem exec_qpush_of_inSide (hi : issues (.qpush f) s id v = true) (hin : inSide (v.regs.getX f.a).toInt 64 64 = true)
    (hclean : poisoned s v (v.regs.getX f.a).toInt.toNat 64 = false) :
    let a := (v.regs.getX f.a).toInt.toNat
    ∃ t : State, exec (.qpush f) s = .next t ∧ QueueSent (.qpush f) s id v (hubOp id v true (f.code.val % 16) a (granuleWords s v a)) t := by
  intro a
  have hclean : s.ownPoisoned v a 64 = false := hclean
  rw [exec_qpush, execQpush]
  refine issue_sendQueueOp hi ?_
  rw [scratchAt_of_inSide hin]
  dsimp only
  rw [hclean, if_neg Bool.false_ne_true, granuleWords_eq, bits_low]
  rfl

theorem exec_qpop_of_inSide (hi : issues (.qpop f) s id v = true) (hin : inSide (v.regs.getX f.a).toInt 64 64 = true) :
    ∃ t : State, exec (.qpop f) s = .next t ∧
      QueueSent (.qpop f) s id v (hubOp id v false (f.code.val % 16) (v.regs.getX f.a).toInt.toNat []) t := by
  rw [exec_qpop, execQpop]
  refine issue_sendQueueOp hi ?_
  rw [scratchAt_of_inSide hin, bits_low]
  rfl

/-! ## The user queues in the hub (23 R383) -/

/-- The state in which the hub has done an operation and its reply is under way; `r` is what the operation came to. -/
def State.answerQueueOp (s : State) (k : Nat) (op : QueueOp) (r : State × Bool × List Word × Nat) : State :=
  ({ r.1 with queueOps := putA r.1.queueOps k { op with ok := r.2.1, record := r.2.2.1 } }).schedule (s.clk + r.2.2.2 - 30) (.queueReply k)

/-- An operation on a user queue touches no far memory. -/
theorem exec_queueOpArrival_of_user (hk : lookupA s.queueOps k = some op) (hq : op.queue = 6 ∨ op.queue = 7) :
    exec (.queueOpArrival k) s = .next (s.answerQueueOp k op (s.queueOp op)) := by
  have haddr : s.queueOpAddr op = none := by
    unfold State.queueOpAddr
    rw [if_neg (by omega), if_neg (by omega)]
  rw [exec_queueOpArrival, execQueueOpArrival, hk]
  dsimp only
  rw [haddr]
  rfl

theorem userQueue_setUserQueue (x : Ctx) (q : Nat) (l : List (List Word)) : (x.setUserQueue q l).userQueue q = l := by
  unfold Ctx.setUserQueue Ctx.userQueue
  split
  · rfl
  · rfl

theorem held_setUserQueue (x : Ctx) (q : Nat) (l : List (List Word)) : (x.setUserQueue q l).held = x.held := by
  unfold Ctx.setUserQueue
  split
  · rfl
  · rfl

/-- A push to a user queue is taken where the hub holds fewer than 32 of its records, those that pops hold among them. -/
theorem queueOp_push_user (hpush : op.push = true) (hq : op.queue = 6 ∨ op.queue = 7) (s : State) :
    s.queueOp op = if (s.ctx op.ctx).userCount op.queue < 32 then
      (s.modCtx op.ctx fun x => x.setUserQueue op.queue (x.userQueue op.queue ++ [op.record]), true, [], 60) else (s, false, [], 60) := by
  unfold State.queueOp
  rw [hpush]
  dsimp only
  rw [if_pos rfl, if_neg (by omega), if_neg (by omega)]

theorem exec_queueOpArrival_of_push (hk : lookupA s.queueOps k = some op) (hpush : op.push = true) (hq : op.queue = 6 ∨ op.queue = 7) :
    let x := s.ctx op.ctx
    let room : Bool := (x.userQueue op.queue).length + (x.held.filter fun h => h.1 = op.queue).length < 32
    ∃ t : State, exec (.queueOpArrival k) s = .next t ∧ lookupA t.queueOps k = some { op with ok := room, record := [] } ∧
      (t.ctx op.ctx).userQueue op.queue = x.userQueue op.queue ++ (if room then [op.record] else []) ∧
      scheduled t (s.clk + 30) (.queueReply k) := by
  intro x room
  have hex := exec_queueOpArrival_of_user hk hq
  rw [queueOp_push_user hpush hq] at hex
  by_cases hroom : x.userCount op.queue < 32
  · have hr : room = true := decide_eq_true hroom
    rw [if_pos hroom] at hex
    rw [hr, if_pos rfl]
    refine ⟨_, hex, lookupA_putA_self .., ?_, scheduled_schedule ..⟩
    have hctx := congrArg (Ctx.userQueue · op.queue)
      (ctx_modCtx_self s op.ctx fun x => x.setUserQueue op.queue (x.userQueue op.queue ++ [op.record]))
    exact hctx.trans (userQueue_setUserQueue ..)
  · have hr : room = false := decide_eq_false hroom
    rw [if_neg hroom] at hex
    rw [hr, if_neg Bool.false_ne_true, List.append_nil]
    exact ⟨_, hex, lookupA_putA_self .., rfl, scheduled_schedule ..⟩

/-- The state in which an operation holds the record that it has taken from a user queue. -/
def State.holdRecord (s : State) (op : QueueOp) (r : List Word) (rest : List (List Word)) : State :=
  (s.modCtx op.ctx fun x => x.setUserQueue op.queue rest).modCtx op.ctx fun x => { x with held := x.held ++ [(op.queue, op.inst, r)] }

theorem ctx_holdRecord (s : State) (op : QueueOp) (r : List Word) (rest : List (List Word)) : (s.holdRecord op r rest).ctx op.ctx =
    { (s.ctx op.ctx).setUserQueue op.queue rest with held := (s.ctx op.ctx).held ++ [(op.queue, op.inst, r)] } := by
  rw [State.holdRecord, ctx_modCtx_self, ctx_modCtx_self, held_setUserQueue]

/-- A pop of a living instance takes the oldest record of a user queue, which it holds. -/
theorem exec_queueOpArrival_of_pop {r : List Word} {rest : List (List Word)} (hk : lookupA s.queueOps k = some op) (hpop : op.push = false)
    (hq : op.queue = 6 ∨ op.queue = 7) (hv : s.inst? op.inst = some v) (hl : (s.ctx op.ctx).userQueue op.queue = r :: rest) :
    ∃ t : State, exec (.queueOpArrival k) s = .next t ∧ lookupA t.queueOps k = some { op with ok := true, record := r } ∧
      (t.ctx op.ctx).userQueue op.queue = rest ∧ (t.ctx op.ctx).held = (s.ctx op.ctx).held ++ [(op.queue, op.inst, r)] := by
  have hop : s.queueOp op = (s.holdRecord op r rest, true, r, 60) := by
    have hfleet : ¬op.queue = 5 := by omega
    unfold State.queueOp
    simp only [hpop, hl, hv, hfleet, State.modCtx_inst?, Option.isSome_some, if_true, Bool.false_eq_true, if_false]
    rfl
  have hctx := ctx_holdRecord s op r rest
  have hex := exec_queueOpArrival_of_user hk hq
  rw [hop] at hex
  refine ⟨_, hex, lookupA_putA_self .., ?_, congrArg Ctx.held hctx⟩
  exact (congrArg (Ctx.userQueue · op.queue) hctx).trans (userQueue_setUserQueue (s.ctx op.ctx) op.queue rest)

/-! ## The replies (12 R280) -/

/-- A push that was taken engages its segment, and its instance goes on with 0. -/
theorem exec_queueReply_of_push (hk : lookupA s.queueOps k = some op) (hv : s.inst? op.inst = some v)
    (hp : s.pendingInstr v = some (.qpush f)) (hok : op.ok = true) :
    ∃ t : State, exec (.queueReply k) s = .next t ∧ t.inst? op.inst = some (released (.qpush f) v s.clk (v.regs.setX f.d 0#64)) ∧
      ∀ g, segment? s v = some g → segment? t v = some { g with engaged := true } := by
  let r : State := { s with queueOps := delA s.queueOps k }
  have hv' : (r.engage v.place.seg).inst? op.inst = some v := by
    obtain ⟨gs, hgs⟩ := engage_eq r v.place.seg
    rw [hgs]
    exact hv
  have hclk : (r.engage v.place.seg).clk = s.clk := State.modSeg_clk ..
  have hex : exec (.queueReply k) s = .next ((r.engage v.place.seg).complete op.inst (.qpush f) fun r => r.setX f.d 0#64) := by
    have hp' : r.pendingInstr v = some (.qpush f) := hp
    have hvr : r.inst? op.inst = some v := hv
    rw [exec_queueReply, execQueueReply, hk]
    dsimp only
    rw [hvr]
    dsimp only
    rw [hp']
    simp only [hok, Bool.not_true, Bool.false_and, Bool.false_eq_true, if_false, if_true]
    rfl
  rw [complete_of_some hv', hclk] at hex
  exact ⟨_, hex, State.setInst_inst? .., fun g hg => segment?_engage (s := r) hg⟩

/-- The record of a pop that was answered is stored, and its instance goes on with 0. -/
theorem exec_queueReply_of_pop (hk : lookupA s.queueOps k = some op) (hv : s.inst? op.inst = some v)
    (hp : s.pendingInstr v = some (.qpop f)) (hok : op.ok = true) (hlen : op.record.length = 8) (hfree : v.isProtected (op.addr / 64) = false)
    (halign : op.addr % 64 = 0) :
    ∃ (t : State) (u : Inst), exec (.queueReply k) s = .next t ∧ t.inst? op.inst = some u ∧
      u.regs = (released (.qpop f) v s.clk (v.regs.setX f.d 0#64)).regs ∧ u.status = .running ∧
      ∀ a, readByte t.scr a = written [(s.scrAddr v.place.ctx v.place.cell op.addr, op.record.flatMap fun w => bytesOf 8 w.toNat)] a
        (readByte s.scr a) := by
  let r : State := { s with queueOps := delA s.queueOps k }
  let bytes := op.record.flatMap fun w => bytesOf 8 w.toNat
  have hbytes : bytes.length = 64 := by
    simp [bytes, List.length_flatMap, length_bytesOf, hlen]
  have hgranule : (op.addr + bytes.length - 1) / 64 ≤ op.addr / 64 := by omega
  obtain ⟨t, hstore, hst⟩ := store_of_granule (id := op.inst) hgranule hfree r
  obtain ⟨st, hu, -, -⟩ := hst.inst v hv
  have hclk : t.clk = s.clk := by rw [hst.frame.1]
  have hex : exec (.queueReply k) s = .next (t.complete op.inst (.qpop f) fun r => r.setX f.d 0#64) := by
    have hp' : r.pendingInstr v = some (.qpop f) := hp
    have hvr : r.inst? op.inst = some v := hv
    simp only [bytes, bytesOf_eq_bytesOfWord] at hstore
    rw [exec_queueReply, execQueueReply, hk]
    dsimp only
    rw [hvr]
    dsimp only
    rw [hp']
    dsimp only
    rw [hok, hstore]
    rfl
  rw [complete_of_some hu, hclk] at hex
  exact ⟨_, _, hex, State.setInst_inst? .., rfl, rfl, hst.bytes⟩

/-! ## The memory-side agent (25 R399) -/

theorem exec_agentAppend_eq (c q : Nat) (r : List Word) (s : State) :
    let a := (s.ctx c).virtualRing q
    let size := s.virtualSize a
    let head := readNat s.mem a 8
    let tail := readNat s.mem (a + 8) 8
    if (s.ctx c).state = .absent ∨ size = 0 ∨ size ≤ (tail + 2 ^ 64 - head) % 2 ^ 64 then exec (.agentAppend c q r) s = .next s
    else
      let m := writeNat (writeWords s.mem (a + 64 + 64 * (tail % size)) r) (a + 8) 8 ((tail + 1) % 2 ^ 64)
      exec (.agentAppend c q r) s = .next { s with mem := m } := by
  intro a size head tail
  rw [exec_agentAppend, execAgentAppend, State.appendVirtual]
  split
  next hno =>
    rw [if_pos (by simpa [or_assoc] using hno)]
  next hyes =>
    have hsize : max 1 size = size := by
      have : size ≠ 0 := fun h => hyes (.inr (.inl h))
      omega
    have hslot : virtualSlot a size tail = a + 64 + 64 * (tail % size) := by rw [virtualSlot, hsize]
    intro m
    rw [if_neg (by simpa [or_assoc] using hyes)]
    dsimp only
    rw [hslot]

/-- Settles O38: what the forms send, what the hub does with a user queue, the replies, and the agent. -/
theorem queueForms : Obligations.QueueForms := by
  unfold Obligations.QueueForms
  refine ⟨?_, fun k op s hk hpush hq => exec_queueOpArrival_of_push hk hpush hq,
    fun k op r rest v s hk hpop hq hv hl => exec_queueOpArrival_of_pop hk hpop hq hv hl,
    fun k op f s v hk hv hp hok => exec_queueReply_of_push hk hv hp hok,
    fun k op f s v hk hv hp hok hlen hfree halign => exec_queueReply_of_pop hk hv hp hok hlen hfree halign,
    fun c q r s => exec_agentAppend_eq c q r s⟩
  intro f push i s id v hform _ hi a hin hclean
  rcases hform with ⟨rfl, rfl⟩ | ⟨rfl, rfl⟩
  · obtain ⟨t, ht, hinst, hop, harrives, hmem, hscr⟩ := exec_qpush_of_inSide hi hin (hclean rfl)
    exact ⟨t, ht, hinst, ⟨_, hop, rfl, rfl, rfl, rfl, fun _ => rfl⟩, harrives, hmem, hscr⟩
  · obtain ⟨t, ht, hinst, hop, harrives, hmem, hscr⟩ := exec_qpop_of_inSide hi hin
    exact ⟨t, ht, hinst, ⟨_, hop, rfl, rfl, rfl, rfl, nofun⟩, harrives, hmem, hscr⟩

end Sys2Proof.Machine
end
